-- ==== Sys2Proof/Word.lean ====
section
/-! DEFINITION. The words of the machine: register numbers, 64-bit scalars, vector registers, masks,
and the plainest operations on their bits (spec/00_scope.md R5: bit 0 is the least significant). -/

namespace Sys2Proof

/-- The number of an x or v register (R83). -/
abbrev Reg := BitVec 5
/-- A scalar register's contents. -/
abbrev Word := BitVec 64
/-- One byte of memory. -/
abbrev Byte := BitVec 8
/-- A vector register, as the bit string whose 64-bit word w is word w of R18. A hart whose VLEN is
below 16,384 uses the low VLEN bits (R22). -/
abbrev VReg := BitVec 16384
/-- One bit per element position; the largest VLMAX is 65,536 (R46, R22). -/
abbrev Mask := BitVec 65536

/-- Bits h down to l of a word, as a number. -/
def bitsOf {w : Nat} (x : BitVec w) (h l : Nat) : Nat := (x.toNat / 2 ^ l) % 2 ^ (h + 1 - l)

/-- One bit of a word. -/
def bitOf {w : Nat} (x : BitVec w) (i : Nat) : Bool := x.getLsbD i

/-- Replace bits h down to l of a word by the low bits of n. -/
def putBits {w : Nat} (x : BitVec w) (h l n : Nat) : BitVec w :=
  let m := 2 ^ (h + 1 - l)
  let old := (x.toNat / 2 ^ l) % m
  BitVec.ofNat w (x.toNat - old * 2 ^ l + (n % m) * 2 ^ l)

/-- Sign(v, n): the low n bits of v read as a two's-complement number (R16). -/
def signNat (v n : Nat) : Int :=
  let u := v % 2 ^ n
  if 2 * u < 2 ^ n then (u : Int) else (u : Int) - (2 ^ n : Nat)

/-- Sign(v, n) as a 64-bit word. -/
def signWord (v n : Nat) : Word := BitVec.ofInt 64 (signNat v n)

/-- The numbers below n in ascending order, kept by the condition p. -/
def upTo (n : Nat) : List Nat := List.range n

/-- The bytes of a number, least significant first (R5). -/
def bytesOf : Nat → Nat → List Byte
  | 0, _ => []
  | n + 1, v => BitVec.ofNat 8 v :: bytesOf n (v / 256)

/-- The number whose bytes are listed least significant first (R5). -/
def ofBytes : List Byte → Nat
  | [] => 0
  | b :: bs => b.toNat + 256 * ofBytes bs

end Sys2Proof
end

