-- ==== Sys2Proof/Config.lean ====
section
/-! DEFINITION. What the spec fixes for every DM4 (R1, R2) and the values it leaves open. An open value
is an opaque constant with no body: nothing can evaluate it, so what holds of the model holds for every
value of it. -/

namespace Sys2Proof.Config

/-- Enabled cores of the device (R1). -/
def cores : Nat := 768
/-- Cores of one compute die (R1). -/
def coresPerDie : Nat := 96
/-- Compute dies (R1). -/
def dies : Nat := 8
/-- L2 slices of the device (R1). -/
def slices : Nat := 256
/-- Bytes of a core's scratchpad: 384 KiB (R1, R121). -/
def scratchBytes : Nat := 0x60000
/-- First byte of the barrier-slot area of a scratchpad (R121). -/
def barrierBase : Nat := 0x5F800
/-- Bytes of device memory: 384 GiB (R1). -/
def gddrBytes : Nat := 384 * 2 ^ 30

/-- FREE VALUE. A bit string with no constraint, by a counter of the state: registers that HBACK leaves
undefined (R57), agnostic positions (R358), and the other values that the log names as free. -/
opaque freeBits : Nat → Nat
/-- FREE VALUE. The pick among the results that the error bound of R396 allows: operation, format,
operand. A fixed function of the operand, as R396 says. -/
opaque approxPick : Nat → Nat → Nat → Nat
/-- FREE VALUE. Whether a conservative signature reports a sector that the task did not touch (R32),
by the sector and the state's counter. -/
opaque sigFalse : Nat → Nat → Bool
/-- FREE VALUE. The order in which the elements of a VAMO that meet take effect (R383): by the state's
counter, the numbers of the elements in the order of their turns. -/
opaque vamoOrder : Nat → List Nat
/-- FREE VALUE. Whether the Falcon-1024 signature of the firmware image with this digest verifies
(R301, R302): the key is fused in the module and is not in the spec. -/
opaque signatureGood : Nat → Bool
/-- FREE VALUE. The version of the firmware image with this digest (R302): the image's layout is not in the spec. -/
opaque imageVersion : Nat → Nat
/-- FREE VALUE. The compressed Falcon-1024 signature over a report, and its length (R303). -/
opaque falconSign : List (BitVec 8) → List (BitVec 8)
/-- FREE VALUE. The module's own constants: the boot ROM's digest, the serial number, the public key and
Peldom's certificate, as bytes of the identity area (R297, R303). -/
opaque identity : Nat → BitVec 8
/-- FREE VALUE. The byte of the source range that an overlapped destination byte receives: the old value
(true) or one already copied (false) (R192), by the byte's position and the state's counter. -/
opaque copyOld : Nat → Nat → Bool
/-- FREE VALUE. The order in which a ray's traversal visits children (R224), by the ray and the node:
it decides whether a hierarchy overflows its stack. -/
opaque visitOrder : Nat → Nat → List Nat
/-- FREE VALUE. Whether another device of the domain is synchronised (R289), by its identifier and the state's counter. -/
opaque peerSynced : Nat → Nat → Bool
/-- FREE VALUE. The step of a bring-up that fails, if one does (R301), by the state's counter: 0 for none. -/
opaque bringUpFails : Nat → Nat

end Sys2Proof.Config
end

