-- ==== Sys2Proof/Machine/Table.lean ====
section
/-! DEFINITION. Sparse data by number: tables of registers and records, and the machine's memory in its one
canonical form (addresses strictly rising, no listed byte equal to what an unlisted address reads as). -/

namespace Sys2Proof.Machine

/-- A table from numbers to values, in rising order of the numbers. -/
abbrev Table (α : Type) := List (Nat × α)

namespace Table

/-- Entry n, or d where the table lists none. -/
def get {α : Type} (d : α) : Table α → Nat → α
  | [], _ => d
  | (k, v) :: t, n => if n < k then d else if n = k then v else get d t n

/-- The table with entry n set to v. -/
def set {α : Type} : Table α → Nat → α → Table α
  | [], n, v => [(n, v)]
  | (k, w) :: t, n, v =>
    if n < k then (n, v) :: (k, w) :: t
    else if n = k then (n, v) :: t
    else (k, w) :: set t n v

/-- Entry n where the table lists one. -/
def find {α : Type} : Table α → Nat → Option α
  | [], _ => none
  | (k, v) :: t, n => if n < k then none else if n = k then some v else find t n

/-- The table without entry n. -/
def del {α : Type} : Table α → Nat → Table α
  | [], _ => []
  | (k, w) :: t, n => if n = k then t else (k, w) :: del t n

end Table

/-- Memory: the listed bytes. Every unlisted address reads 0: bring-up clears every array (R301), and a
core's scratchpad is cleared when it takes a colour (R304). -/
abbrev Memory := List Host.Cell

namespace Memory

/-- What an unlisted address reads as. -/
def blank : Byte := 0

/-- The byte at an address. -/
def get : Memory → Nat → Byte
  | [], _ => blank
  | (k, v) :: t, n => if n < k then blank else if n = k then v else get t n

/-- Write one byte and keep the canonical form: writing blank removes the entry. -/
def set : Memory → Nat → Byte → Memory
  | [], n, v => if v = blank then [] else [(n, v)]
  | (k, w) :: t, n, v =>
    if n < k then (if v = blank then (k, w) :: t else (n, v) :: (k, w) :: t)
    else if n = k then
      (if v = blank then t.dropWhile (fun c => c.1 ≤ n) else (n, v) :: t)
    else (k, w) :: set t n v

/-- n bytes from an address upwards, lowest first. -/
def read (m : Memory) (a : Nat) : Nat → List Byte
  | 0 => []
  | n + 1 => m.get a :: read m (a + 1) n

/-- Write bytes from an address upwards. -/
def write (m : Memory) (a : Nat) : List Byte → Memory
  | [] => m
  | b :: bs => write (m.set a b) (a + 1) bs

/-- Addresses rise strictly above lo. -/
def risesFrom : Nat → Memory → Bool
  | _, [] => true
  | lo, (k, _) :: t => decide (lo ≤ k) && risesFrom (k + 1) t

/-- The canonical form: rising addresses and no listed byte equal to blank. -/
def wf (m : Memory) : Bool := risesFrom 0 m && m.all (fun c => !decide (c.2 = blank))

end Memory

end Sys2Proof.Machine
end

