-- ==== Sys2Proof/Syntax/Operand.lean ====
section
/-! DEFINITION. The operands that the constructors of Instr carry, the fields of an F64 word, and the
reasons for which bytes are no instruction. -/

namespace Sys2Proof

/-- A mask operand (R15): mm, and the k register that modes 10 and 11 name. -/
structure MaskSel where
  mm : BitVec 2
  k  : BitVec 3
  deriving DecidableEq, Repr

/-- What the s2 field names under oc 00, 01 and 10 (R70). -/
inductive Src where
  | vec (r : Reg)
  | xreg (r : Reg)
  | imm (i : BitVec 13)
  deriving DecidableEq, Repr

/-- Operands of a two-source form of group VI (R74). -/
structure VecOp where
  d  : Reg
  s1 : Reg
  b  : Src
  et : BitVec 3
  m  : MaskSel
  deriving DecidableEq, Repr

/-- Operands of a one-source form of group VI (R74). -/
structure VecUn where
  d  : Reg
  s1 : Reg
  et : BitVec 3
  m  : MaskSel
  deriving DecidableEq, Repr

/-- Operands of a two- or three-source form of group VF (R75). -/
structure FltOp where
  d  : Reg
  s1 : Reg
  b  : Src
  s3 : Reg
  rm : BitVec 3
  et : BitVec 3
  m  : MaskSel
  deriving DecidableEq, Repr

/-- Operands of a one-source form of group VF (R75). -/
structure FltUn where
  d  : Reg
  s1 : Reg
  rm : BitVec 3
  et : BitVec 3
  m  : MaskSel
  deriving DecidableEq, Repr

/-- Operands of VCVT (R389). -/
structure CvtOp where
  d    : Reg
  s1   : Reg
  fmt  : BitVec 5
  sew  : BitVec 3
  sat  : Bool
  usrc : Bool
  udst : Bool
  rm   : BitVec 3
  et   : BitVec 3
  m    : MaskSel
  deriving DecidableEq, Repr

/-- Operands of a vector load or store (R403, R410): sel is the space selector of R71, n the buffer
record; s2 is the stride register, the offset vector, or 0. -/
structure MemOp where
  d   : Reg
  s1  : Reg
  s2  : Reg
  sel : BitVec 3
  n   : BitVec 8
  et  : BitVec 3
  m   : MaskSel
  deriving DecidableEq, Repr

/-- Operands of VSPILL and VFILL (R398). -/
structure SpillOp where
  d   : Reg
  s1  : Reg
  sel : BitVec 3
  n   : BitVec 8
  deriving DecidableEq, Repr

/-- Operands of a scalar AMO (R313). -/
structure AmoOp where
  d     : Reg
  s1    : Reg
  s2    : Reg
  s3    : Reg
  sel   : BitVec 3
  n     : BitVec 8
  aq    : Bool
  rl    : Bool
  scope : BitVec 3
  deriving DecidableEq, Repr

/-- Operands of a VAMO (R382). -/
structure VAmoOp where
  d     : Reg
  s1    : Reg
  s2    : Reg
  s3    : Reg
  sel   : BitVec 3
  n     : BitVec 8
  aq    : Bool
  rl    : Bool
  scope : BitVec 3
  m     : MaskSel
  deriving DecidableEq, Repr

/-- A tile commit offer (R234): the header's place in memory and its address, the ticket, LAST, the element
width, the coverage of the 64 pixels and their colours, the task that offered it, and the bytes from the header
to the end of its page. -/
structure TileOffer where
  hdr    : Nat
  addr   : BitVec 64
  ticket : Nat
  last   : Bool
  sew    : Nat
  mask   : BitVec 64
  colours : List Nat
  task   : Nat
  room   : Nat
  deriving DecidableEq, Repr

/-- Arrays of a core beside its scratchpad. -/
inductive CoreArray where
  | l1d | l1i | vregs
  deriving DecidableEq, Repr

/-- The array errors of R147: of the slice or the scratchpad that is home to a place, or of another array of a core. -/
inductive ArrayErr where
  | soft        -- a single-bit soft error, corrected and counted
  | uncorrectable  -- an uncorrectable error in a line's data or check value
  | tag         -- an uncorrectable error in an L2 tag
  | escaped     -- an error that no array's ECC covers: the check value finds it
  | inCore (array : CoreArray) (core : Nat) (corrected : Bool)
                -- of a core's copy of the line, or of its registers: soft and corrected, or uncorrectable
  deriving DecidableEq, Repr

/-- The fields of an F64 word (R68), from high bits to low. -/
structure F64 where
  imm  : BitVec 13
  rm   : BitVec 3
  et   : BitVec 3
  k    : BitVec 3
  mm   : BitVec 2
  func : BitVec 8
  oc   : BitVec 2
  s3   : BitVec 5
  s2   : BitVec 5
  s1   : BitVec 5
  grp  : BitVec 3
  d    : BitVec 5
  deriving DecidableEq, Repr

/-- The fields of a standard 32-bit word (R310, formats R and S), from high bits to low. -/
structure R32 where
  f7 : BitVec 7
  s2 : BitVec 5
  s1 : BitVec 5
  f3 : BitVec 3
  d  : BitVec 5
  op : BitVec 7
  deriving DecidableEq, Repr

/-- Why bytes are no instruction, each with the rule that says so. All of them trap with ILLEGAL but
`truncated`, which says that the caller gave fewer bytes than the length asks for. -/
inductive DecodeError where
  | length16    -- bits [1:0] are not 11 (R64); the all-zero word of R54 among them
  | length48    -- R64
  | length80    -- R64
  | truncated
  | major       -- a major opcode that R66 marks ILLEGAL
  | selector    -- a funct3, funct7 or other selector value not assigned (R66, R67)
  | group       -- group 111 (R81)
  | func8       -- a func8 unassigned in its group (R81)
  | operandClass  -- an oc that the form does not accept (R81)
  | reserved    -- a field that the form does not use is nonzero (R81)
  | code        -- rm/scope, et, a selector, a target or a type holds a reserved code (R81)
  | mask        -- k nonzero while mm is 00 or 01, or mm nonzero on a form that takes no mask (R81)
  | register    -- a k register of 8 or more, or an XPUSH range outside R79 (R81)
  deriving DecidableEq, Repr

end Sys2Proof
end

