-- ==== Sys2Proof/Syntax.lean ====
section
/-! DEFINITION. The steps of the machine, one constructor per row of spec/opcode_table.json: the standard
32-bit instructions (R66, R67), the F64 instructions (R68 to R80), and the part's own events, each of which
the table lists as a whole and indivisible step (spec/95_what_each_step_holds.md). -/

namespace Sys2Proof

/-- One step of the machine. -/
inductive Instr where
  /-- ADD (R312). Adds two x registers modulo 2^64. -/
  | add (d a b : Reg)
  /-- ADDI (R312). Adds a sign-extended 12-bit immediate to an x register. -/
  | addi (d a : Reg) (i : BitVec 12)
  /-- ADDIW (R312). Adds an immediate and sign-extends the 32-bit sum. -/
  | addiw (d a : Reg) (i : BitVec 12)
  /-- ADDW (R312). Adds two x registers and sign-extends the 32-bit sum. -/
  | addw (d a b : Reg)
  /-- AND (R317). Bitwise AND of two x registers. -/
  | and (d a b : Reg)
  /-- ANDI (R317). Bitwise AND with a sign-extended immediate. -/
  | andi (d a : Reg) (i : BitVec 12)
  /-- AUIPC (R320). Adds an upper immediate to the instruction's own address. -/
  | auipc (d : Reg) (i : BitVec 20)
  /-- BEQ (R321). Branches when two x registers are equal. -/
  | beq (a b : Reg) (i : BitVec 12)
  /-- BNE (R321). Branches when two x registers differ. -/
  | bne (a b : Reg) (i : BitVec 12)
  /-- BLT (R321). Branches when s1 is less than s2, signed. -/
  | blt (a b : Reg) (i : BitVec 12)
  /-- BGE (R321). Branches when s1 is at least s2, signed. -/
  | bge (a b : Reg) (i : BitVec 12)
  /-- BLTU (R321). Branches when s1 is less than s2, unsigned. -/
  | bltu (a b : Reg) (i : BitVec 12)
  /-- BGEU (R321). Branches when s1 is at least s2, unsigned. -/
  | bgeu (a b : Reg) (i : BitVec 12)
  /-- CSRRW (R323). Swaps a CSR with an x register. -/
  | csrrw (d a : Reg) (c : BitVec 12)
  /-- CSRRS (R323). Reads a CSR and sets the bits given by an x register. -/
  | csrrs (d a : Reg) (c : BitVec 12)
  /-- CSRRC (R323). Reads a CSR and clears the bits given by an x register. -/
  | csrrc (d a : Reg) (c : BitVec 12)
  /-- CSRRWI (R323). Writes a 5-bit immediate to a CSR and returns the old value. -/
  | csrrwi (d u : Reg) (c : BitVec 12)
  /-- CSRRSI (R323). Reads a CSR and sets bits from a 5-bit immediate. -/
  | csrrsi (d u : Reg) (c : BitVec 12)
  /-- CSRRCI (R323). Reads a CSR and clears bits from a 5-bit immediate. -/
  | csrrci (d u : Reg) (c : BitVec 12)
  /-- DIV (R324). Signed 64-bit division rounded toward zero. -/
  | div (d a b : Reg)
  /-- DIVU (R324). Unsigned 64-bit division. -/
  | divu (d a b : Reg)
  /-- DIVW (R324). Signed 32-bit division, sign-extended. -/
  | divw (d a b : Reg)
  /-- DIVUW (R324). Unsigned 32-bit division, sign-extended. -/
  | divuw (d a b : Reg)
  /-- FENCE (R328). Boundary of kind both at DEVICE scope, whatever pred and succ hold. -/
  | fence (p s : BitVec 4)
  /-- JAL (R334). Jumps PC-relative and writes the link address. -/
  | jal (d : Reg) (i : BitVec 20)
  /-- JALR (R334). Jumps to a register plus offset and writes the link address. -/
  | jalr (d a : Reg) (i : BitVec 12)
  /-- LB (R336). Loads a sign-extended byte. -/
  | lb (d a : Reg) (i : BitVec 12)
  /-- LH (R336). Loads a sign-extended halfword. -/
  | lh (d a : Reg) (i : BitVec 12)
  /-- LW (R336). Loads a sign-extended word. -/
  | lw (d a : Reg) (i : BitVec 12)
  /-- LD (R336). Loads a doubleword. -/
  | ld (d a : Reg) (i : BitVec 12)
  /-- LBU (R336). Loads a zero-extended byte. -/
  | lbu (d a : Reg) (i : BitVec 12)
  /-- LHU (R336). Loads a zero-extended halfword. -/
  | lhu (d a : Reg) (i : BitVec 12)
  /-- LWU (R336). Loads a zero-extended word. -/
  | lwu (d a : Reg) (i : BitVec 12)
  /-- LUI (R337). Loads a sign-extended upper immediate. -/
  | lui (d : Reg) (i : BitVec 20)
  /-- MUL (R343). Low 64 bits of the product. -/
  | mul (d a b : Reg)
  /-- MULH (R343). High 64 bits of the signed product. -/
  | mulh (d a b : Reg)
  /-- MULHSU (R343). High 64 bits of the signed-by-unsigned product. -/
  | mulhsu (d a b : Reg)
  /-- MULHU (R343). High 64 bits of the unsigned product. -/
  | mulhu (d a b : Reg)
  /-- MULW (R343). Sign-extended low 32 bits of the product. -/
  | mulw (d a b : Reg)
  /-- OR (R345). Bitwise OR of two x registers. -/
  | or (d a b : Reg)
  /-- ORI (R345). Bitwise OR with a sign-extended immediate. -/
  | ori (d a : Reg) (i : BitVec 12)
  /-- REM (R353). Signed 64-bit remainder. -/
  | rem (d a b : Reg)
  /-- REMU (R353). Unsigned 64-bit remainder. -/
  | remu (d a b : Reg)
  /-- REMW (R353). Signed 32-bit remainder, sign-extended. -/
  | remw (d a b : Reg)
  /-- REMUW (R353). Unsigned 32-bit remainder, sign-extended. -/
  | remuw (d a b : Reg)
  /-- SB (R354). Stores the low byte of an x register. -/
  | sb (b a : Reg) (i : BitVec 12)
  /-- SH (R354). Stores the low halfword of an x register. -/
  | sh (b a : Reg) (i : BitVec 12)
  /-- SW (R354). Stores the low word of an x register. -/
  | sw (b a : Reg) (i : BitVec 12)
  /-- SD (R354). Stores a doubleword. -/
  | sd (b a : Reg) (i : BitVec 12)
  /-- SLL (R359). Shifts left by X[s2][5:0]. -/
  | sll (d a b : Reg)
  /-- SRL (R359). Shifts right logically by X[s2][5:0]. -/
  | srl (d a b : Reg)
  /-- SRA (R359). Shifts right arithmetically by X[s2][5:0]. -/
  | sra (d a b : Reg)
  /-- SLLI (R359). Shifts left by a 6-bit immediate. -/
  | slli (d a : Reg) (h : BitVec 6)
  /-- SRLI (R359). Shifts right logically by a 6-bit immediate. -/
  | srli (d a : Reg) (h : BitVec 6)
  /-- SRAI (R359). Shifts right arithmetically by a 6-bit immediate. -/
  | srai (d a : Reg) (h : BitVec 6)
  /-- SLLW (R359). Shifts 32 bits left by X[s2][4:0], sign-extended. -/
  | sllw (d a b : Reg)
  /-- SRLW (R359). Shifts 32 bits right logically, sign-extended. -/
  | srlw (d a b : Reg)
  /-- SRAW (R359). Shifts 32 bits right arithmetically, sign-extended. -/
  | sraw (d a b : Reg)
  /-- SLLIW (R359). Shifts 32 bits left by a 5-bit immediate. -/
  | slliw (d a : Reg) (h : BitVec 5)
  /-- SRLIW (R359). Shifts 32 bits right logically by a 5-bit immediate. -/
  | srliw (d a : Reg) (h : BitVec 5)
  /-- SRAIW (R359). Shifts 32 bits right arithmetically by a 5-bit immediate. -/
  | sraiw (d a : Reg) (h : BitVec 5)
  /-- SLT (R360). Sets 1 when s1 is less than s2, signed. -/
  | slt (d a b : Reg)
  /-- SLTU (R360). Sets 1 when s1 is less than s2, unsigned. -/
  | sltu (d a b : Reg)
  /-- SLTI (R360). Sets 1 when s1 is less than an immediate, signed. -/
  | slti (d a : Reg) (i : BitVec 12)
  /-- SLTIU (R360). Sets 1 when s1 is less than an immediate, unsigned. -/
  | sltiu (d a : Reg) (i : BitVec 12)
  /-- SUB (R361). Subtracts modulo 2^64. -/
  | sub (d a b : Reg)
  /-- SUBW (R361). Subtracts and sign-extends the 32-bit difference. -/
  | subw (d a b : Reg)
  /-- XOR (R416). Bitwise exclusive OR of two x registers. -/
  | xor (d a b : Reg)
  /-- XORI (R416). Bitwise exclusive OR with an immediate. -/
  | xori (d a : Reg) (i : BitVec 12)
  /-- SETVL (R357). Sets VL and VTY from a request and an encoded type. -/
  | setvl (d s1 : Reg) (ty : BitVec 15)
  /-- SETVL_REG (R357). Sets VL and VTY from a request and a type in X[s2]. -/
  | setvlReg (d s1 s2 : Reg)
  /-- MPUSH (R49). Pushes Top AND a k register onto the mask stack. -/
  | mpush (n : Reg)
  /-- BMZ (R50). Branches when no element below VL of Top is set. -/
  | bmz (off : BitVec 13)
  /-- BMNZ (R50). Branches when some element below VL of Top is set. -/
  | bmnz (off : BitVec 13)
  /-- JTBL (R52). Jumps through a table of 32-bit offsets, or falls through. -/
  | jtbl (d s1 s2 s3 : Reg)
  /-- HBACK (R57). Resumes the caller in a new main context while the callee runs on as tail. -/
  | hback (s1 s2 : Reg)
  /-- TRESUME (R271). Resolves a trap record and lets the parked task be re-dispatched. -/
  | tresume (s1 : Reg)
  /-- TKILL (R271). Ends a parked task with status killed. -/
  | tkill (s1 : Reg)
  /-- TLBINV (R277). Invalidates one page's translation for a colour in every TLB. -/
  | tlbinv (s1 s2 : Reg)
  /-- TLBINV_COL (R277). Invalidates every translation of a colour. -/
  | tlbinvCol (s1 s2 : Reg)
  /-- PHASE (R346). Boundary of the encoded kind and scope. -/
  | phase (aq rl : Bool) (scope : BitVec 3)
  /-- ARRIVE (R319). Releases and then subtracts a count from a barrier slot's pending count. -/
  | arrive (target : BitVec 3) (slot : BitVec 7) (s1 : Reg) (scope : BitVec 3)
  /-- WAITB (R414). Waits for a slot's phase, consumes it and acquires. -/
  | waitb (slot : BitVec 7) (scope : BitVec 3)
  /-- TESTB (R368). Reads a barrier slot's readiness without waiting. -/
  | testb (d : Reg) (slot : BitVec 7)
  /-- ENQ (R327). Releases, reads a task header and queues it, stalling while full. -/
  | enq (s1 : Reg)
  /-- ENQ_NB (R327). Queues a task header and returns a status instead of stalling. -/
  | enqNb (d s1 : Reg)
  /-- PSEND (R350). Copies 64 scratchpad bytes into the oldest free pipe slot. -/
  | psend (pipe : BitVec 3) (s1 : Reg)
  /-- PRECV (R351). Takes the oldest full pipe slot into scratchpad and acquires. -/
  | precv (d : Reg) (pipe : BitVec 3) (s1 : Reg)
  /-- XPUSH (R190). Appends a four-doubleword active message to the command FIFO. -/
  | xpush (s1 : Reg)
  /-- XPUSH_NB (R190). Appends a message or returns busy without waiting. -/
  | xpushNb (d s1 : Reg)
  /-- MWAIT (R197). Loads a word and waits for a notice while it equals the expected value. -/
  | mwait (s1 s2 : Reg)
  /-- GENDONE (R253). Releases and marks the generator's block FILLED, resuming waiters. -/
  | gendone (s1 : Reg)
  /-- GENFAIL (R253). Releases and marks the generator's block SPOILED with a code. -/
  | genfail (s1 s2 : Reg)
  /-- FILLRST (R257). Returns a FILLED or SPOILED block to BLANK. -/
  | fillrst (s1 : Reg)
  /-- MMA (R201). Multiplies register tiles into an FP32 accumulator tile. -/
  | mma (d s1 s2 : Reg)
  /-- MMR (R204). Performs one ring step of A times the latched B chunk. -/
  | mmr (d : Reg) (tn : BitVec 6)
  /-- MLDB (R203). Loads a B chunk into the core's latch. -/
  | mldb (tn : BitVec 6) (s1 : Reg)
  /-- MCONV (R208). Multiplies an image window by the latch as implicit convolution. -/
  | mconv (d : Reg) (tn : BitVec 6) (s1 : Reg)
  /-- MSTC (R207). Converts an FP32 accumulator tile and stores it into a tensor. -/
  | mstc (vs : Reg) (tn : BitVec 6) (s1 : Reg) (et rm : BitVec 3)
  /-- TDSET (R365). Loads a tensor identifier entry into the core table. -/
  | tdset (tn : BitVec 6) (s1 : Reg)
  /-- TDGET (R365). Stores a tensor identifier entry to memory. -/
  | tdget (tn : BitVec 6) (s1 : Reg)
  /-- VBOX (R225). Tests one ray per element against a box. -/
  | vbox (d s1 s2 : Reg) (m : MaskSel)
  /-- VTRI (R412). Tests one ray per element against a triangle. -/
  | vtri (d s1 s2 : Reg) (m : MaskSel)
  /-- TEX (R230). Samples a texture with level of detail from quads. -/
  | tex (d s1 s2 : Reg) (n : BitVec 8) (m : MaskSel)
  /-- TEX_GRAD (R230). Samples a texture with explicit derivatives. -/
  | texGrad (d s1 s2 : Reg) (n : BitVec 8) (m : MaskSel)
  /-- TEX_LOD (R230). Samples a texture at an explicit level of detail. -/
  | texLod (d s1 s2 : Reg) (n : BitVec 8) (m : MaskSel)
  /-- TXLD (R230). Loads unfiltered texels at integer coordinates. -/
  | txld (d s1 s2 : Reg) (n : BitVec 8) (m : MaskSel)
  /-- TCOMMIT (R234). Releases and offers a tile colour commit, waiting for acceptance. -/
  | tcommit (s1 s2 : Reg) (m : MaskSel)
  /-- VLD (R403). Unit-stride vector load. -/
  | vld (o : MemOp)
  /-- VLDS (R403). Strided vector load. -/
  | vlds (o : MemOp)
  /-- VLDX (R403). Indexed vector gather. -/
  | vldx (o : MemOp)
  /-- VLD_CH (R129). Chained scratchpad load that waits group by group for copy arrival. -/
  | vldCh (o : MemOp)
  /-- VST (R410). Unit-stride vector store. -/
  | vst (o : MemOp)
  /-- VSTS (R410). Strided vector store. -/
  | vsts (o : MemOp)
  /-- VSTX (R410). Indexed vector scatter. -/
  | vstx (o : MemOp)
  /-- VSPILL (R399). Stores one vector register in compressed spill format. -/
  | vspill (o : SpillOp)
  /-- VFILL (R400). Restores one vector register from a spill record. -/
  | vfill (o : SpillOp)
  /-- AMOADD_W (R314). Atomic 32-bit add. -/
  | amoaddW (o : AmoOp)
  /-- AMOAND_W (R314). Atomic 32-bit AND. -/
  | amoandW (o : AmoOp)
  /-- AMOOR_W (R314). Atomic 32-bit OR. -/
  | amoorW (o : AmoOp)
  /-- AMOXOR_W (R314). Atomic 32-bit XOR. -/
  | amoxorW (o : AmoOp)
  /-- AMOSWAP_W (R314). Atomic 32-bit swap. -/
  | amoswapW (o : AmoOp)
  /-- AMOMIN_W (R314). Atomic 32-bit signed minimum. -/
  | amominW (o : AmoOp)
  /-- AMOMAX_W (R314). Atomic 32-bit signed maximum. -/
  | amomaxW (o : AmoOp)
  /-- AMOMINU_W (R314). Atomic 32-bit unsigned minimum. -/
  | amominuW (o : AmoOp)
  /-- AMOMAXU_W (R314). Atomic 32-bit unsigned maximum. -/
  | amomaxuW (o : AmoOp)
  /-- AMOCAS_W (R314). Atomic 32-bit compare and swap. -/
  | amocasW (o : AmoOp)
  /-- AMOADD_D (R314). Atomic 64-bit add. -/
  | amoaddD (o : AmoOp)
  /-- AMOAND_D (R314). Atomic 64-bit AND. -/
  | amoandD (o : AmoOp)
  /-- AMOOR_D (R314). Atomic 64-bit OR. -/
  | amoorD (o : AmoOp)
  /-- AMOXOR_D (R314). Atomic 64-bit XOR. -/
  | amoxorD (o : AmoOp)
  /-- AMOSWAP_D (R314). Atomic 64-bit swap. -/
  | amoswapD (o : AmoOp)
  /-- AMOMIN_D (R314). Atomic 64-bit signed minimum. -/
  | amominD (o : AmoOp)
  /-- AMOMAX_D (R314). Atomic 64-bit signed maximum. -/
  | amomaxD (o : AmoOp)
  /-- AMOMINU_D (R314). Atomic 64-bit unsigned minimum. -/
  | amominuD (o : AmoOp)
  /-- AMOMAXU_D (R314). Atomic 64-bit unsigned maximum. -/
  | amomaxuD (o : AmoOp)
  /-- AMOCAS_D (R314). Atomic 64-bit compare and swap. -/
  | amocasD (o : AmoOp)
  /-- VAMOADD_W (R383). Per-element atomic 32-bit add. -/
  | vamoaddW (o : VAmoOp)
  /-- VAMOAND_W (R383). Per-element atomic 32-bit AND. -/
  | vamoandW (o : VAmoOp)
  /-- VAMOOR_W (R383). Per-element atomic 32-bit OR. -/
  | vamoorW (o : VAmoOp)
  /-- VAMOXOR_W (R383). Per-element atomic 32-bit XOR. -/
  | vamoxorW (o : VAmoOp)
  /-- VAMOSWAP_W (R383). Per-element atomic 32-bit swap. -/
  | vamoswapW (o : VAmoOp)
  /-- VAMOMIN_W (R383). Per-element atomic 32-bit signed minimum. -/
  | vamominW (o : VAmoOp)
  /-- VAMOMAX_W (R383). Per-element atomic 32-bit signed maximum. -/
  | vamomaxW (o : VAmoOp)
  /-- VAMOMINU_W (R383). Per-element atomic 32-bit unsigned minimum. -/
  | vamominuW (o : VAmoOp)
  /-- VAMOMAXU_W (R383). Per-element atomic 32-bit unsigned maximum. -/
  | vamomaxuW (o : VAmoOp)
  /-- VAMOCAS_W (R383). Per-element atomic 32-bit compare and swap. -/
  | vamocasW (o : VAmoOp)
  /-- VAMOADD_D (R383). Per-element atomic 64-bit add. -/
  | vamoaddD (o : VAmoOp)
  /-- VAMOAND_D (R383). Per-element atomic 64-bit AND. -/
  | vamoandD (o : VAmoOp)
  /-- VAMOOR_D (R383). Per-element atomic 64-bit OR. -/
  | vamoorD (o : VAmoOp)
  /-- VAMOXOR_D (R383). Per-element atomic 64-bit XOR. -/
  | vamoxorD (o : VAmoOp)
  /-- VAMOSWAP_D (R383). Per-element atomic 64-bit swap. -/
  | vamoswapD (o : VAmoOp)
  /-- VAMOMIN_D (R383). Per-element atomic 64-bit signed minimum. -/
  | vamominD (o : VAmoOp)
  /-- VAMOMAX_D (R383). Per-element atomic 64-bit signed maximum. -/
  | vamomaxD (o : VAmoOp)
  /-- VAMOMINU_D (R383). Per-element atomic 64-bit unsigned minimum. -/
  | vamominuD (o : VAmoOp)
  /-- VAMOMAXU_D (R383). Per-element atomic 64-bit unsigned maximum. -/
  | vamomaxuD (o : VAmoOp)
  /-- VAMOCAS_D (R383). Per-element atomic 64-bit compare and swap. -/
  | vamocasD (o : VAmoOp)
  /-- VADD (R381). Element-wise integer add. -/
  | vadd (o : VecOp)
  /-- VSUB (R381). Element-wise integer subtract. -/
  | vsub (o : VecOp)
  /-- VMUL (R381). Element-wise low product. -/
  | vmul (o : VecOp)
  /-- VMULH (R381). Element-wise signed high product. -/
  | vmulh (o : VecOp)
  /-- VMULHU (R381). Element-wise unsigned high product. -/
  | vmulhu (o : VecOp)
  /-- VDIV (R381). Element-wise signed quotient. -/
  | vdiv (o : VecOp)
  /-- VDIVU (R381). Element-wise unsigned quotient. -/
  | vdivu (o : VecOp)
  /-- VREM (R381). Element-wise signed remainder. -/
  | vrem (o : VecOp)
  /-- VREMU (R381). Element-wise unsigned remainder. -/
  | vremu (o : VecOp)
  /-- VMIN (R381). Element-wise signed minimum. -/
  | vmin (o : VecOp)
  /-- VMINU (R381). Element-wise unsigned minimum. -/
  | vminu (o : VecOp)
  /-- VMAX (R381). Element-wise signed maximum. -/
  | vmax (o : VecOp)
  /-- VMAXU (R381). Element-wise unsigned maximum. -/
  | vmaxu (o : VecOp)
  /-- VAND (R381). Element-wise AND. -/
  | vand (o : VecOp)
  /-- VOR (R381). Element-wise OR. -/
  | vor (o : VecOp)
  /-- VXOR (R381). Element-wise XOR. -/
  | vxor (o : VecOp)
  /-- VSLL (R381). Element-wise shift left. -/
  | vsll (o : VecOp)
  /-- VSRL (R381). Element-wise logical shift right. -/
  | vsrl (o : VecOp)
  /-- VSRA (R381). Element-wise arithmetic shift right. -/
  | vsra (o : VecOp)
  /-- VSADD (R381). Element-wise signed saturating add. -/
  | vsadd (o : VecOp)
  /-- VSADDU (R381). Element-wise unsigned saturating add. -/
  | vsaddu (o : VecOp)
  /-- VSSUB (R381). Element-wise signed saturating subtract. -/
  | vssub (o : VecOp)
  /-- VSSUBU (R381). Element-wise unsigned saturating subtract. -/
  | vssubu (o : VecOp)
  /-- VMV (R381). Element-wise move of the operand b. -/
  | vmv (o : VecOp)
  /-- VCMP_EQ (R387). Sets k bits where elements are equal. -/
  | vcmpEq (o : VecOp)
  /-- VCMP_NE (R387). Sets k bits where elements differ. -/
  | vcmpNe (o : VecOp)
  /-- VCMP_LT (R387). Signed less-than compare into a k register. -/
  | vcmpLt (o : VecOp)
  /-- VCMP_LE (R387). Signed less-or-equal compare into a k register. -/
  | vcmpLe (o : VecOp)
  /-- VCMP_GT (R387). Signed greater-than compare into a k register. -/
  | vcmpGt (o : VecOp)
  /-- VCMP_GE (R387). Signed greater-or-equal compare into a k register. -/
  | vcmpGe (o : VecOp)
  /-- VCMP_LTU (R387). Unsigned less-than compare into a k register. -/
  | vcmpLtu (o : VecOp)
  /-- VCMP_LEU (R387). Unsigned less-or-equal compare into a k register. -/
  | vcmpLeu (o : VecOp)
  /-- VCMP_GTU (R387). Unsigned greater-than compare into a k register. -/
  | vcmpGtu (o : VecOp)
  /-- VCMP_GEU (R387). Unsigned greater-or-equal compare into a k register. -/
  | vcmpGeu (o : VecOp)
  /-- VPERM (R407). Permutes elements by an index vector. -/
  | vperm (o : VecOp)
  /-- VSLIDE_UP (R409). Slides elements up by a distance. -/
  | vslideUp (o : VecOp)
  /-- VSLIDE_DN (R409). Slides elements down by a distance. -/
  | vslideDn (o : VecOp)
  /-- VBCAST (R385). Broadcasts a scalar to every active element. -/
  | vbcast (o : VecOp)
  /-- VMVXS (R406). Moves one vector element into an x register. -/
  | vmvxs (o : VecOp)
  /-- VRED_ADD (R408). Integer sum reduction into element 0. -/
  | vredAdd (o : VecUn)
  /-- VRED_MIN (R408). Signed minimum reduction. -/
  | vredMin (o : VecUn)
  /-- VRED_MAX (R408). Signed maximum reduction. -/
  | vredMax (o : VecUn)
  /-- VRED_MINU (R408). Unsigned minimum reduction. -/
  | vredMinu (o : VecUn)
  /-- VRED_MAXU (R408). Unsigned maximum reduction. -/
  | vredMaxu (o : VecUn)
  /-- VRED_AND (R408). AND reduction. -/
  | vredAnd (o : VecUn)
  /-- VRED_OR (R408). OR reduction. -/
  | vredOr (o : VecUn)
  /-- VRED_XOR (R408). XOR reduction. -/
  | vredXor (o : VecUn)
  /-- VSCAN_ADD (R408). Inclusive integer sum scan. -/
  | vscanAdd (o : VecUn)
  /-- VSCAN_MIN (R408). Inclusive signed minimum scan. -/
  | vscanMin (o : VecUn)
  /-- VSCAN_MAX (R408). Inclusive signed maximum scan. -/
  | vscanMax (o : VecUn)
  /-- VSCAN_MINU (R408). Inclusive unsigned minimum scan. -/
  | vscanMinu (o : VecUn)
  /-- VSCAN_MAXU (R408). Inclusive unsigned maximum scan. -/
  | vscanMaxu (o : VecUn)
  /-- VCMPRS (R388). Packs active elements to the low positions. -/
  | vcmprs (o : VecUn)
  /-- VPOPC (R401). Counts set active bits of a k register. -/
  | vpopc (o : VecUn)
  /-- VFIRST (R401). Finds the lowest set active bit of a k register. -/
  | vfirst (o : VecUn)
  /-- VFADD (R392). Element-wise floating-point add. -/
  | vfadd (o : FltOp)
  /-- VFSUB (R392). Element-wise floating-point subtract. -/
  | vfsub (o : FltOp)
  /-- VFMUL (R392). Element-wise floating-point multiply. -/
  | vfmul (o : FltOp)
  /-- VFDIV (R392). Element-wise floating-point divide. -/
  | vfdiv (o : FltOp)
  /-- VFMA (R392). Fused a times b plus c. -/
  | vfma (o : FltOp)
  /-- VFMS (R392). Fused a times b minus c. -/
  | vfms (o : FltOp)
  /-- VFNMA (R392). Fused negated product minus c. -/
  | vfnma (o : FltOp)
  /-- VFNMS (R392). Fused negated product plus c. -/
  | vfnms (o : FltOp)
  /-- VFMIN (R392). Element-wise floating-point minimum. -/
  | vfmin (o : FltOp)
  /-- VFMAX (R392). Element-wise floating-point maximum. -/
  | vfmax (o : FltOp)
  /-- VFSQRT (R392). Element-wise square root. -/
  | vfsqrt (o : FltUn)
  /-- VFSGNJ (R392). Sign injection from b. -/
  | vfsgnj (o : FltOp)
  /-- VFSGNJN (R392). Negated sign injection from b. -/
  | vfsgnjn (o : FltOp)
  /-- VFSGNJX (R392). XOR sign injection. -/
  | vfsgnjx (o : FltOp)
  /-- VFRCP (R396). Approximate reciprocal. -/
  | vfrcp (o : FltUn)
  /-- VFRSQ (R396). Approximate reciprocal square root. -/
  | vfrsq (o : FltUn)
  /-- VFEXP2 (R396). Approximate base-2 exponential. -/
  | vfexp2 (o : FltUn)
  /-- VFLOG2 (R396). Approximate base-2 logarithm. -/
  | vflog2 (o : FltUn)
  /-- VFSIN (R396). Approximate sine. -/
  | vfsin (o : FltUn)
  /-- VFCOS (R396). Approximate cosine. -/
  | vfcos (o : FltUn)
  /-- VFCMP_EQ (R395). Floating-point equal compare into a k register. -/
  | vfcmpEq (o : FltOp)
  /-- VFCMP_NE (R395). Floating-point not-equal compare. -/
  | vfcmpNe (o : FltOp)
  /-- VFCMP_LT (R395). Floating-point less-than compare. -/
  | vfcmpLt (o : FltOp)
  /-- VFCMP_LE (R395). Floating-point less-or-equal compare. -/
  | vfcmpLe (o : FltOp)
  /-- VFCMP_GT (R395). Floating-point greater-than compare. -/
  | vfcmpGt (o : FltOp)
  /-- VFCMP_GE (R395). Floating-point greater-or-equal compare. -/
  | vfcmpGe (o : FltOp)
  /-- VFCLASS (R394). Classifies each element into a one-hot class. -/
  | vfclass (o : FltUn)
  /-- VCVT (R390). Converts elements to a destination type, including block formats. -/
  | vcvt (o : CvtOp)
  /-- VFRED_SUM (R402). Tree sum reduction in fixed order. -/
  | vfredSum (o : FltUn)
  /-- VFRED_MIN (R402). Floating-point minimum reduction. -/
  | vfredMin (o : FltUn)
  /-- VFRED_MAX (R402). Floating-point maximum reduction. -/
  | vfredMax (o : FltUn)
  /-- VFSCAN_SUM (R402). Ascending running sum scan. -/
  | vfscanSum (o : FltUn)
  /-- FETCH_FAULT (R54). A fetch from an unmapped, non-executable, procedural or local-window page traps with PAGE or PERM at the fetched address. -/
  | fetchFault (cause detail : Nat) (straddle : Bool)
  /-- CONTEXT_WAKE (R30). A waiting or stalled context resumes once its awaited condition holds or a notice arrives. -/
  | contextWake (core part : Nat) (tail : Bool)
  /-- TASK_DISPATCH (R173). Dispatch fills a free partition with a parked, deque, segment or stolen task. -/
  | taskDispatch (core part : Nat)
  /-- MESSAGE_DELIVER (R189). The command FIFO hands a message to its inbox, which checks capability and target. -/
  | messageDeliver (core part : Nat)
  /-- COPY (R192). Copy engine copies LEN bytes from source to destination and completes. -/
  | copy (cluster : Nat)
  /-- COPY_FILL (R191). Copy engine fills LEN destination bytes with a repeated 64-bit pattern. -/
  | copyFill (cluster : Nat)
  /-- TRAP_RECORD_POST (R269). Posts a trap record to a supervisor ring and enqueues the handler, waiting while full. -/
  | trapRecordPost (task : Nat)
  /-- ECALL (R325). Traps precisely with cause ECALL and parks the task. -/
  | ecall
  /-- EBREAK (R325). Traps precisely with cause EBREAK and parks the task. -/
  | ebreak
  /-- FENCE_TSO (R328). Same as FENCE: a DEVICE-scope boundary of kind both. -/
  | fenceTso
  /-- FENCE_I (R329). Orders the context's own fetch after its prior stores. -/
  | fenceI
  /-- MINV (R49). Replaces Top by its parent AND NOT Top. -/
  | minv
  /-- MPOP (R49). Pops the mask stack. -/
  | mpop
  /-- FRJOIN (R61). Waits for the tail to end, joins the frame and releases. -/
  | frjoin
  /-- TDONE (R366). Ends the context; the task becomes done, tail-pending or commits. -/
  | tdone
  /-- COMPLETION_RECORD_WRITE (R196). Claims a completion ring slot, writes the record and SEQ, and releases, stalling while full. -/
  | completionRecordWrite
  /-- TEAM_ARRIVE (R181). A receiving die places a migrated team in its least occupied home segment. -/
  | teamArrive
  /-- PREFILL (R258). Fill unit touches a block as a waiting requester and completes on FILLED or SPOILED. -/
  | prefill
  /-- TIME_UNSYNC (R289). Servo error beyond ±40 ns makes the device unsynchronised and drops leased lines. -/
  | timeUnsync
  /-- TIME_SYNC_LOCK (R301). IEEE 1588 locks and UNSYNC clears. -/
  | timeSyncLock
  /-- LAUNCH_RECORD_READ (R299). The launch unit reads the record at LRHEAD with a SYSTEM acquire. -/
  | launchRecordRead
  /-- LAUNCH_ACCEPT (R166). Acceptance checks a launch's structures and enters its handles, stalling for room. -/
  | launchAccept
  /-- STAGE (R302). Verifies a staged firmware image for a live update. -/
  | stage
  /-- ATTEST (R303). Writes a signed attestation report at FWADDR. -/
  | attest
  /-- FIRMWARE_SWITCH (R302). At a quiet bell time the management cores start the staged image. -/
  | firmwareSwitch
  /-- FIRMWARE_HEALTHY (R302). The new image reports healthy; it is written to flash and the counter raised. -/
  | firmwareHealthy
  /-- FIRMWARE_HEALTH_TIMEOUT (R302). Without a healthy report in 100 ms the old image is restored. -/
  | firmwareHealthTimeout
  /-- DM_READ (R292). DMCMD READ copies a directory entry into DMDATA. -/
  | dmRead
  /-- RECLAIM (R292). DMCMD RECLAIM clears OLOST and ROWN and leaves the line poisoned. -/
  | reclaim
  /-- DM_BAD_COMMAND (R292). An unassigned DMCMD code sets ERR 1. -/
  | dmBadCommand
  /-- BRING_UP (R301). Power-on or function-level reset verifies firmware, trains memory, self-tests and sets READY. -/
  | bringUp
  /-- THERMAL_HALT (R307). A junction above 105 °C stops dispatch and then the clock. -/
  | thermalHalt
  /-- COOLANT_THROTTLE (R307). Hot inlet or low flow selects PSTATE 10. -/
  | coolantThrottle
  /-- MODULE_REMOVAL (R306). The module leaves service and peers see owner loss. -/
  | moduleRemoval
  /-- ILLEGAL_ENCODING (R81). A fetched word with an illegal length, major opcode or F64 field traps with ILLEGAL at decode. -/
  | illegalEncoding
  /-- THERMAL_THROTTLE (R307). A thermal throttle reduces the clock to PSTATE 01 and sets THROT. -/
  | thermalThrottle
  /-- THROTTLE_RELEASE (R307). When temperature, coolant inlet or flow return within limits, the device leaves a reduced or halted power state. -/
  | throttleRelease
  /-- POWER_LOSS (R302). Loss of supply stops the device, and can interrupt a flash write so that the next start-up enters recovery. -/
  | powerLoss
  /-- TRAP_LOG_POST (R423). Posts an S-mode trap record to the lowest free trap-log slot, waiting while none is free. -/
  | trapLogPost (task : Nat)
  /-- BACKOFF_EXPIRY (R249). After 4 µs a requester parked in back-off is dispatched to retry. -/
  | backoffExpiry (task : Nat)
  /-- ATOMIC_ABORT (R33). A published write hitting a running atomic task's read signature aborts it to queued. -/
  | atomicAbort (task : Nat)
  /-- STEAL_PROBE (R180). An idle core probes a victim deque every 20 cc and takes half its matching entries. -/
  | stealProbe (core victim : Nat)
  /-- TEAM_MIGRATE (R181). An overloaded die packs teams and sends them to an advertising die. -/
  | teamMigrate (src dst colour : Nat)
  /-- ROLL_CALL (R37). When every named partition is free, all tasks of a gang are dispatched together. -/
  | rollCall (launch : Nat)
  /-- RESERVATION_LAPSE (R182). Gang partition reservations lapse at the record's WEND. -/
  | reservationLapse (die rec : Nat)
  /-- RING_SHIFT (R205). When every ring member holds MC = SC + 1, latches move to successors and SC advances. -/
  | ringShift (gang ring : Nat)
  /-- BELL (R272). At a colour's window end dispatch of that colour stops and the grace period starts. -/
  | bell (die rec : Nat)
  /-- BELL_DEADLINE (R272). After 20 µs grace, remaining tasks are hard-stopped, packets fall out and state is saved. -/
  | bellDeadline (die rec : Nat)
  /-- COLOUR_SWITCH_COMPLETE (R272). Once router counters are zero and saves finish, the incoming colour is restored and dispatched. -/
  | colourSwitchComplete (die rec : Nat)
  /-- RAST (R217). Intersection unit descends a triangle over a region and writes coverage records. -/
  | rast (cluster : Nat)
  /-- TRACE (R221). Intersection unit traverses a hierarchy for NRAY rays and writes hit records. -/
  | trace (cluster : Nat)
  /-- SAMPLE (R231). Texture bulk path filters COUNT entries into a destination. -/
  | sample (cluster : Nat)
  /-- GENERATOR_QUEUE (R251). Fill unit builds a generator header in a free slot and queues it, waiting for a slot. -/
  | generatorQueue (range block : Nat)
  /-- TILE_OFFER (R235). Commit unit accepts, holds, waits or refuses a tile commit offer and blends in ticket order. -/
  | tileOffer (o : TileOffer)
  /-- TILE_STALL_FAULT (R238). After 1 ms with NEXT missing the commit unit posts a TILEFAULT record. -/
  | tileStallFault (hdr : Nat)
  /-- L2_LINE_WRITE (R138). A write reaching the L2 re-encodes the line and evicts as needed. -/
  | l2LineWrite (line : Nat)
  /-- SLICE_UNPIN (R140). A slice no longer named in SEGMAP frees its pinned storage once its segment is empty. -/
  | sliceUnpin (slice : Nat)
  /-- ARRAY_ERROR (R147). An array ECC error is corrected and counted, or poisons or refetches affected data. -/
  | arrayError (kind : ArrayErr) (loc : Nat)
  /-- HOST_WRITE (R284). A host write lands at its home slice, makes a check value and sends invalidation notices. -/
  | hostWrite (place : Nat) (data : List Byte)
  /-- HOST_READ (R284). A host read is served at the home slice from published data. -/
  | hostRead (place n : Nat)
  /-- FABRIC_WRITE (R290). A peer device's write arrives at this home and enters the line's order. -/
  | fabricWrite (dev offset : Nat) (data : List Byte)
  /-- REMOTE_READ (R287). A home serves a remote CACHE 00 read and grants a lease. -/
  | remoteRead (dev line : Nat)
  /-- REMOTE_OWNERSHIP (R290). A home grants exclusive ownership to another device after invalidations and recalls. -/
  | remoteOwnership (dev line : Nat)
  /-- LEASE_RECALL (R288). A recalled device drops the line and returns its lease. -/
  | leaseRecall (line : Nat)
  /-- LEASE_RETURN (R288). A home decrements NLEASE on a returned lease and may let a write proceed. -/
  | leaseReturn (dev line : Nat)
  /-- LEASE_DROP (R287). At EXP − 40 ns a reader drops a leased line and dependent TLB entries. -/
  | leaseDrop (line : Nat)
  /-- LEASE_EXPIRY (R287). At EXP + 40 ns the home treats a lease as expired. -/
  | leaseExpiry (line : Nat)
  /-- OWNER_LOST (R291). A snoop unanswered for 200 µs poisons the line, sets OLOST and logs it. -/
  | ownerLost (line : Nat)
  /-- LATE_SNOOP_ANSWER (R291). A snoop answer after the timeout is refused and the late owner drops the line. -/
  | lateSnoopAnswer (dev line : Nat)
  /-- LAUNCH_DOORBELL (R299). A write to LRTAIL rings the doorbell or is ignored with LROVF. -/
  | launchDoorbell (v : Word)
  /-- LAUNCH_RELEASE (R167). When a launch's handle waits are over, its tasks are enqueued. -/
  | launchRelease (launch : Nat)
  /-- GRAPH_EXPAND (R169). The Timetabler allocates predecessor counters and the node map for a graph launch. -/
  | graphExpand (launch : Nat)
  /-- LAUNCH_DONE (R166). A launch whose tasks are done writes its completion record. -/
  | launchDone (launch : Nat)
  /-- BIND_RECORD_WRITE (R172). Whole bind record write, refused on invalid fields or conflicts. -/
  | bindRecordWrite (die idx : Nat) (v : BitVec 512)
  /-- SUPERVISOR_QUEUE_WRITE (R268). Whole supervisor queue entry write, clear or refused. -/
  | supervisorQueueWrite (die idx : Nat) (v : BitVec 512)
  /-- RANGE_TABLE_WRITE (R241). Range table entry write deregisters and registers a range, or is refused. -/
  | rangeTableWrite (idx : Nat) (v : BitVec 512)
  /-- IMAGE_TABLE_WRITE (R420). Image table entry write, refused on invalid or overlapping ranges. -/
  | imageTableWrite (idx : Nat) (v : BitVec 256)
  /-- RING_DESCRIPTOR_WRITE (R178). Whole ring-mode descriptor write for a home segment. -/
  | ringDescriptorWrite (slice : Nat) (v : BitVec 256)
  /-- RING_MODE_CONTROL (R178). Switches a die's empty home segments into or out of ring mode. -/
  | ringModeControl (die : Nat) (v : Word)
  /-- SEGMAP_WRITE (R174). Changes segment routing and which slices pin queue storage. -/
  | segmapWrite (idx : Nat) (v : Word)
  /-- POWER_CAP_WRITE (R307). The host cap selects or releases PSTATE 01. -/
  | powerCapWrite (v : Word)
  /-- REGISTER_WRITE (R298). Write of an 8-byte unit of a register or table without behaviour of its own. -/
  | registerWrite (bar : BitVec 3) (offset : Nat) (v : Word)
  /-- STL_RESUME (R423). STLCMD resume acts as TRESUME on a trap-log slot and frees it. -/
  | stlResume (slot : BitVec 6)
  /-- STL_KILL (R423). STLCMD kill acts as TKILL on a trap-log slot and frees it. -/
  | stlKill (slot : BitVec 6)
  /-- READBACK_L2_TAG (R297). RBSEL kind 0 copies an L2 tag and its stored image into RBDATA. -/
  | readbackL2Tag (slice : Nat) (sel : Word)
  /-- READBACK_QUEUE_ENTRY (R297). RBSEL kind 1 copies a queue-segment entry into RBDATA. -/
  | readbackQueueEntry (slice : Nat) (sel : Word)
  /-- READBACK_DIRECTORY (R297). RBSEL kind 2 copies a directory entry into RBDATA. -/
  | readbackDirectory (slice : Nat) (sel : Word)
  /-- READBACK_BAD_KIND (R297). RBSEL write of a reserved kind or bad index copies nothing and sets RBSTAT bit 1. -/
  | readbackBadKind (slice : Nat) (sel : Word)
  /-- FORGET (R292). DMCMD FORGET removes a device from a line's leases. -/
  | forget (dev : BitVec 14)
  /-- CLUSTER_REPAIR (R306). At a bell a cluster's state moves to a spare cluster. -/
  | clusterRepair (cluster : Nat)
  /-- L2_WAY_REPAIR (R306). A spare way replaces a failed L2 way after write-back. -/
  | l2WayRepair (slice set way : Nat)
  /-- GDDR_DEVICE_RETIRE (R306). A failing GDDR 7 device's regions are reported and retired. -/
  | gddrDeviceRetire (region : Nat)
  /-- HOST_SNOOP (R286). A host CXL.cache snoop on a KIND 10 line reaches the L1D holders through the proxy slice's directory entry. -/
  | hostSnoop (line : Nat) (write : Bool)
  /-- BACK_INVALIDATION_ANSWER (R284). The host answers a back-invalidation snoop, and the device write waiting on a HOSTC line may then proceed. -/
  | backInvalidationAnswer (line : Nat)
  /-- OWNER_SNOOP (R290). A device that holds exclusive ownership of a remote line receives the home's snoop and returns its modified data. -/
  | ownerSnoop (line : Nat)
  /-- SNOOP_ANSWER (R290). An owner's answer to a snoop reaches the home within 200 µs, and the home grants the waiting request. -/
  | snoopAnswer (line : Nat) (data : List Byte)
  /-- UNSYNC_LEASE_TIMEOUT (R289). An unsynchronised home treats outstanding leases as gone after LEASE plus 1 µs on its local free-running counter. -/
  | unsyncLeaseTimeout (line : Nat)
  /-- ROW_REPAIR (R306). A failing GDDR 7 row is replaced by row repair while the device is in service. -/
  | rowRepair (row : Nat)
  /-- FABRIC_LANE_REPAIR (R306). A failing fabric lane is replaced by its port's spare lane. -/
  | fabricLaneRepair (port : Nat)
  deriving DecidableEq, Repr

end Sys2Proof
end

