-- ==== Sys2Proof/Machine/State.lean ====
section
/-! DEFINITION. The state of a Dremor DM4 module as spec/ gives it, as plain data, and its state after
reset. A step of the machine is taken by a context (the one that `turn` names) or, where `agenda` lists
one, by an event of the device or of the world outside it. -/

namespace Sys2Proof.Machine

/-- Why the machine stops. -/
inductive Fault where
  /-- Raised by step while the supply is off (R302, POWER_LOSS: loss of supply stops the device). Safe: a
  device without supply takes no step. -/
  | powerOff
  deriving DecidableEq, Repr

/-- Why the model has no meaning for a step. -/
inductive Refusal where
  /-- Raised by exec for a row of the table that has no meaning yet. Safe: nothing is claimed of it. -/
  | notModelled (mnemonic : String)
  deriving DecidableEq, Repr

/-- One context slot: core of the device, partition of the core, main or tail (R21, R24). -/
structure CtxId where
  core : Nat
  part : Nat
  tail : Bool
  deriving DecidableEq, Repr

/-- What a context waits for (R30), and the stalls in which it is running but issues nothing. -/
inductive Wait where
  | barrier (slot : Nat)                    -- WAITB (R414)
  | pipe (n : Nat) (send : Bool)            -- PSEND, PRECV (R350, R351)
  | word (loc : Nat) (noticed : Bool)       -- MWAIT: a notice for the word has come, or not (R197)
  | fifo (chain : Bool)                     -- XPUSH; chain: it also needs a chain tracker (R190)
  | tailSlot                                -- FRJOIN, HBACK (R57, R61)
  | ring (entry : BitVec 256)               -- MLDB, MMR, MCONV with the table entry that they read (R118, R203)
  | tile (offer : TileOffer) (answer : Option (Nat × Nat))
                                            -- TCOMMIT: its offer, and a refusal's DETAIL with NEXT at that time
                                            -- (R234, R235)
  | chain (read : List Nat) (places : List (Nat × Nat)) (missing : List (Nat × Nat))
                                            -- VLD.CH: elements of groups already read, the places that the group which
                                            -- is awaited reads, and places that a failed copy never wrote (R129, R130, R405)
  | lines                                   -- a release of writes to lines that another device or the host holds (R162)
  | held (line : Nat)                       -- an AMO or a park that writes such a line (R162, R283, R284)
  | snoop (line : Nat) (entry : Option (BitVec 256) := none)
                                            -- a read of a line that another device owns (R290); a matrix form keeps the
                                            -- table entry that it has read (R118)
  | queueRoom (header : BitVec 512)         -- ENQ: a stall, running and not waiting (R177)
  deriving DecidableEq, Repr

/-- The state held per context (R24, R46, R84 to R88, R265). -/
structure Ctx where
  valid : Bool                -- the slot holds a context
  pc    : Word
  x     : Table Word          -- x1 to x31; x0 is never listed (R11)
  v     : Table VReg
  k     : Table Mask
  mstk  : List Mask           -- mask stack, newest entry first; MSTK is its length (R46)
  vl    : Nat
  vty   : Word                -- R85
  vfcsr : Word                -- R87
  fmask : Mask                -- the faulted-element mask that FMASK summarises (R88, R265)
  pend  : Table Byte          -- plain stores not yet published, by place in memory (R152); an atomic
                              -- task's tentative stores (R32)
  wait  : Option Wait
  woken : Bool := false       -- the awaited condition has come to hold, or a notice has come (CONTEXT_WAKE)
  deriving DecidableEq, Repr

/-- A slot without a context: every register 0, VTY.ILL = 1 (R29). -/
def Ctx.empty : Ctx :=
  { valid := false, pc := 0, x := [], v := [], k := [], mstk := [], vl := 0,
    vty := 0x8000000000000000#64, vfcsr := 0, fmask := 0, pend := [], wait := none }

/-- The tail frame guard (R59): BASE and LIMIT are bits [56:4] of an address. -/
structure Tfg where
  armed : Bool
  live  : Bool
  base  : BitVec 53
  limit : BitVec 53
  deriving DecidableEq, Repr

/-- TFG after reset (R59). -/
def Tfg.zero : Tfg := { armed := false, live := false, base := 0, limit := 0 }

/-- A fill's place: range table entry and block index (R244). -/
structure BlockId where
  range : Nat
  block : Nat
  deriving DecidableEq, Repr

/-- The states of a procedural block (R244). -/
inductive FillState where
  | blank | turning | filled | spoiled
  deriving DecidableEq, Repr

/-- What a touch of a procedural block comes to (R245, R246, R255). -/
inductive Touch where
  | served
  | parks
  | fails (detail : Nat) (code : BitVec 16)
  deriving DecidableEq, Repr

/-- A translation held by a TLB (R276). -/
structure TlbEntry where
  colour : Nat
  page   : Nat                -- first virtual address of the page, 57 bits
  size   : Nat                -- bytes
  leaf   : Word
  leased : List Nat           -- leased lines that its walk read (R293)
  read   : List Nat := []     -- lines that a fresh walk has read, for the L2; empty once a TLB keeps the entry
  deriving DecidableEq, Repr

/-- The cause codes of R261. -/
inductive Cause where
  | illegal | misaligned | bounds | page | perm | poison | fillfail | mstkovf | frameinuse | amotype
  | contain | tilefault | atomirrev | ecall | ebreak
  deriving DecidableEq, Repr

/-- What a trap record tells of a trap (R262, R263). -/
structure Trap where
  cause    : Cause
  detail   : Nat
  elem     : Nat
  addr     : Word
  straddle : Bool
  aux      : BitVec 256
  span     : Nat := 1         -- bytes from addr on that the access reads: what is verified of them (R146)
  deriving DecidableEq, Repr

/-- Why an instruction does not complete: it traps, it parks on procedural blocks (R246), or it waits
(R30). -/
inductive Halt where
  | trap (t : Trap)
  | park (blocks : List BlockId)
  | wait (w : Wait)
  deriving DecidableEq, Repr

/-- Whose memory a place is (R121, R278). -/
inductive Home where
  | scratch (core : Nat) | local | peer (dev : Nat) | hostCoherent | hostPosted
  deriving DecidableEq, Repr

/-- A place in memory that an address reaches, with the attributes of the path to it (R95, R135, R274). -/
structure Target where
  loc    : Nat                -- place of the first byte
  home   : Home
  cache  : BitVec 2
  grain  : Nat                -- bytes
  fill   : Option BlockId     -- the procedural block that holds it
  tlb    : Option TlbEntry    -- the translation that a walk found, to be kept in the TLBs
  deriving DecidableEq, Repr

/-- The classes of an access (R60, R245, R262). -/
inductive AccKind where
  | load | store | amo | fetch | spill
  deriving DecidableEq, Repr

/-- One access of an instruction or of an engine: its effective address, its width in bytes, its class,
and what its form says of the checks. -/
structure Acc where
  ea      : Word
  width   : Nat
  kind    : AccKind
  elem    : Nat               -- index of its element (R263)
  mis     : Bool              -- MISALIGNED by its form's rule
  bounds  : Bool              -- it passes BOUNDS of its selector or record
  access  : BitVec 2          -- ACCESS of the record; 11 without one
  cacheBy : Option (BitVec 2) -- CACHE of the record
  grainBy : Nat               -- GRAIN of the record in bytes; 0: the page's
  scalar  : Bool              -- a scalar store or AMO, which may write a barrier slot (R124)
  guarded : Bool              -- a store-class access that R60 names
  mwait   : Bool := false     -- MWAIT's load, which uncached memory and a KIND 11 window cannot serve (R197)
  deriving DecidableEq, Repr

/-- What a memory operand names (R12, R71): its selector and, for a buffer record, the record's fields
(R94). len is none where no record limits the access. -/
structure Via where
  sel    : Nat
  base   : Word
  len    : Option Nat
  access : BitVec 2
  cache  : Option (BitVec 2)
  grain  : Nat
  deriving DecidableEq, Repr

/-- Who makes an access: a context of a task, or an engine for a task. -/
structure Who where
  core   : Nat                -- the core whose window it is
  colour : Nat
  smode  : Bool
  atomic : Bool
  task   : Nat
  pool   : Word
  poolCnt : Nat
  frame  : Option Tfg         -- the guard that its stores meet (R60)
  pend   : Table Byte         -- its own unpublished writes
  key    : Option (BitVec 16) -- the capability of a message, checked at each scratchpad byte (R192)
  deriving DecidableEq, Repr

/-- A message of four doublewords with the CAP that the core stamped, and who sent it (R185, R187). -/
structure Msg where
  w0 : Word
  w1 : Word
  w2 : Word
  w3 : Word
  core : Nat
  part : Nat
  task : Nat
  colour : Nat
  tracker : Option Nat        -- the chain tracker it holds (R128)
  done : Nat                  -- bytes, rays, records or entries already done: a request set aside or stopped
                              -- at a bell resumes there (R250, R272)
  fcode : Nat                 -- cause code of the lowest-numbered ray that has failed; 0 for none (R224)
  pend  : Table Byte := []    -- what the request has written, published by its completion (R152, R160)
  seq   : Nat := 0            -- its place among the messages of its hart (R189)
  kept  : List Byte := []     -- what a RAST request has read of the entry that waits, from its first byte on (R250)
  deriving DecidableEq, Repr

/-- A request that waits for blocks (R250), or that must try again after back-off (R249). -/
structure Aside where
  msg     : Msg
  blocks  : List BlockId
  retryAt : Option Nat
  backOff : List BlockId := []  -- the blocks for which it backs off
  deriving DecidableEq, Repr

/-- A diverted message's trap record that is still to be posted (R187, R269). unit: the engine whose inbox
takes no further message meanwhile, 4 × cluster + ENG, or 768 for the fill unit. -/
structure Divert where
  unit   : Nat
  die    : Nat
  recNo  : Nat
  colour : Nat
  record : BitVec 1024
  deriving DecidableEq, Repr

/-- A chain tracker (R128): the destination range and how many of its bytes have landed, in ascending
order; arrival pointer b of R128 is the number of landed words of bank b. -/
structure Tracker where
  id     : Nat
  base   : Nat
  len    : Nat
  landed : Nat
  failed : Bool
  deriving DecidableEq, Repr

/-- A lane partition (R21, R24, R128, R189). -/
structure Part where
  task     : Option Nat       -- TASKID of the task it holds
  tfg      : Tfg
  fifo     : List Msg         -- the hart's command FIFO, oldest first; 16 messages at most
  trackers : List Tracker     -- 4 at most
  reserved : Option Nat       -- the pending gang launch it is reserved for (R182)
  sent     : Nat := 0         -- messages that its harts have sent: the order that R189 keeps
  deriving DecidableEq, Repr

def Part.empty : Part := { task := none, tfg := Tfg.zero, fifo := [], trackers := [], reserved := none }

/-- Where a header goes: a core's deque or a segment (R174, R179). core: the core that issues it. -/
inductive Route where
  | deque (core : Nat)
  | segment (slice : Nat)
  | spread (slice : Nat)   -- a header of R174 that no core issues: the routing count goes up
  deriving DecidableEq, Repr

/-- The states of a task (R30). -/
inductive TaskState where
  | queued | dispatched | running | waiting | parked | tailPending | done
  deriving DecidableEq, Repr

/-- The completion status of a task that is done (R30, R195). -/
inductive Ending where
  | good | faulted | killed
  deriving DecidableEq, Repr

/-- Where a task's queue copy lies (R174, R176). -/
inductive Origin where
  | segment (slice : Nat) | deque (core : Nat) | ring | gang | none
  deriving DecidableEq, Repr

/-- A task (R26 to R35, R84, R90, R248, R251). -/
structure Task where
  header  : BitVec 512
  colour  : Nat
  gang    : Nat               -- GANGID; 0 outside a gang (R29)
  role    : Nat               -- 0 loader, 1 worker, 2 storer (R40)
  launch  : Nat               -- the launch that created it, 0 for none (R166)
  state   : TaskState
  ending  : Ending
  core    : Nat               -- device core index where it runs or parked
  part    : Nat
  die     : Nat               -- bind record under which it was dispatched (R173)
  recNo   : Nat
  split   : Nat               -- HCFG.SPLIT at dispatch (R267)
  pkey    : BitVec 16         -- PKEY of the record (R187)
  pool    : Word              -- address of its buffer-record pool (R420)
  poolCnt : Nat
  pcsel   : Table Word        -- PCSEL0 to PCSEL7 (R90)
  pcnt    : Table Word        -- PCNT0 to PCNT7 (R90)
  waitsOn : List BlockId      -- blocks it is parked on (R248)
  retryAt : Option Nat        -- TIME of a dispatch after back-off (R249)
  retryOn : List BlockId := []  -- the blocks for which it backs off (R241, R249)
  pending : Option (BitVec 1024)  -- a trap record that could not be posted yet (R269)
  trapOpen : Bool             -- a record awaits TRESUME or TKILL
  spad    : Bool              -- a scratchpad access since task start (R266)
  touchTail : Bool            -- the context whose instruction parked it (R248)
  wasTailPending : Bool       -- it parked while tail-pending (R273)
  inPlace : Bool × Bool       -- main, tail parked in place (R266)
  reads   : List Nat          -- read signature of an atomic task, as sectors (R32)
  writes  : List Nat          -- write signature
  others  : List Nat          -- sectors that other agents published or committed since its start (R33)
  held    : List (BitVec 512) -- ENQs held to the commit, oldest first (R34)
  gen     : Option BlockId    -- the block whose fill the fill unit dispatched it for (R245)
  origin  : Origin
  endDue  : Bool              -- it is done but for its completion record, whose ring is full (R196)
  deriving DecidableEq, Repr

def Task.empty : Task :=
  { header := 0, colour := 0, gang := 0, role := 0, launch := 0, state := .done, ending := .good, core := 0,
    part := 0, die := 0, recNo := 0, split := 0, pkey := 0, pool := 0, poolCnt := 0, pcsel := [], pcnt := [],
    waitsOn := [], retryAt := none, pending := none, trapOpen := false, spad := false, touchTail := false, wasTailPending := false,
    inPlace := (false, false), reads := [], writes := [], others := [], held := [], gen := none,
    origin := .none, endDue := false }

/-- A queue entry: the copy of a header in a segment or a deque (R175, R176, R179). -/
structure QEntry where
  header : BitVec 512
  colour : Nat
  arrival : Nat               -- arrival number within its priority at this segment
  run    : Bool               -- its task is dispatched and not done: it takes no part in dispatch
  task   : Option Nat         -- the task that the copy belongs to, once dispatched
  gen    : Option BlockId
  launch : Nat
  withheld : List BlockId     -- an atomic task's touch: not eligible until these have left TURNING (R35)
  deriving DecidableEq, Repr

/-- A queue segment (R174 to R176, R178). -/
structure Seg where
  entries : List QEntry       -- by storage position
  next    : Table Nat         -- arrivals so far, per priority
  sinceOldest : Nat           -- dispatches since the last 16th dispatch (R175)
  deriving DecidableEq, Repr

def Seg.empty : Seg := { entries := [], next := [], sinceOldest := 0 }

/-- The B latch and its counts (R198). -/
structure Latch where
  full : Bool
  nl   : Nat
  kt   : Nat
  fmt  : BitVec 5
  sew  : BitVec 3
  blen : BitVec 2
  codes  : Table (BitVec 1536)  -- by column: 192 bytes of codes
  scales : Table (BitVec 192)   -- by column: up to 24 scale bytes
  deriving DecidableEq, Repr

def Latch.empty : Latch :=
  { full := false, nl := 0, kt := 0, fmt := 0, sew := 0, blen := 0, codes := [], scales := [] }

/-- A named pipe of a gang's place on a core (R38, R348). -/
structure Pipe where
  head : Nat                  -- the oldest full slot
  full : Nat                  -- full slots, 0 to 16
  data : Table (BitVec 512)
  deriving DecidableEq, Repr

def Pipe.empty : Pipe := { head := 0, full := 0, data := [] }

/-- The part of a gang that one core holds (R36, R41). -/
structure GangHere where
  id    : Nat
  roles : BitVec 3
  pipes : BitVec 8
  pmap  : BitVec 32
  done  : BitVec 3            -- roles whose task is done (R38)
  pipe  : Table Pipe
  deriving DecidableEq, Repr

/-- The coherence states of a grain in an L1D (R132). -/
inductive Mesi where
  | invalid | shared | exclusive | modified
  deriving DecidableEq, Repr

/-- An L1D tag: a 512-byte region, its grain, a state per grain and a valid bit per sector (R132). -/
structure L1Tag where
  region : Nat
  grain  : Nat
  states : Table Mesi
  valid  : BitVec 16
  marked : BitVec 16          -- grains marked by a notice of a host write (R284)
  fabric : BitVec 16          -- grains marked by a notice of a fabric write
  deriving DecidableEq, Repr

/-- A core (R21, R23, R115, R120, R132, R179, R198, R276). -/
structure Core where
  split  : Nat                -- HCFG.SPLIT
  colour : Option Nat         -- the colour it holds
  pkey   : BitVec 16
  die    : Nat                -- the bind record under which it holds its colour
  recNo  : Nat
  tid    : Table (BitVec 256) -- tensor identifier table
  latch  : Latch
  mc     : Nat                -- MMR steps done in its ring
  sc     : Nat                -- ring shifts
  ringSize : Nat              -- 0 none, 4 or 8
  ringPos  : Nat
  ringNo   : Nat              -- which ring of its gang
  deque  : List QEntry        -- oldest first
  copies : List QEntry        -- copies of dispatched deque entries, outside the 32 (R174)
  takes  : Nat                -- takes so far: every eighth comes from the oldest end (R179)
  probes : Nat                -- empty steal probes since it last found work (R180)
  gang   : Option GangHere
  l1d    : List L1Tag
  l1i    : List (Nat × List Byte)  -- lines of instructions with their bytes, most recently used first (R120, R134)
  tlb    : List TlbEntry
  filtered : Nat              -- probes that the partition filter answered (R282)
  issued : Table Nat          -- which context of each partition issued last (R25)
  deriving DecidableEq, Repr

def Core.empty : Core :=
  { split := 0, colour := none, pkey := 0, die := 0, recNo := 0, tid := [], latch := Latch.empty, mc := 0,
    sc := 0, ringSize := 0, ringPos := 0, ringNo := 0, deque := [], copies := [], takes := 0, probes := 0,
    gang := none, l1d := [], l1i := [], tlb := [], filtered := 0, issued := [] }

/-- A gang that a launch created (R37, R41, R182, R202). -/
structure Gang where
  launch : Nat
  cores  : List Nat
  tasks  : List Nat
  ring   : Nat
  discarded : Nat             -- pipe slots discarded (R37)
  deriving DecidableEq, Repr

def Gang.empty : Gang := { launch := 0, cores := [], tasks := [], ring := 0, discarded := 0 }

/-- A node of a graph that is ready: its counter, and how many of its headers the graph unit has read (R170). -/
structure ReadyNode where
  counter : Nat               -- die × 2^14 + entry
  next    : Nat
  deriving DecidableEq, Repr

/-- A launch: its record and how far it has come (R165, R166). -/
structure Launch where
  addr    : Nat               -- PA of the launch record
  record  : BitVec 512
  waits   : List Nat          -- launches it waits for (R167)
  headers : List (BitVec 512) -- staging copies of a KIND 01 launch; of a KIND 11 launch its descriptor and headers
  released : Bool             -- its waits are over and its work is enqueued
  left    : Nat               -- tasks and graph nodes not yet done
  bad     : Bool              -- it will complete with STATUS 4
  map     : Option Nat        -- node map of a graph launch (R169)
  gang    : Option Nat        -- its gang, once roll call has passed
  deriving DecidableEq, Repr

def Launch.empty : Launch :=
  { addr := 0, record := 0, waits := [], headers := [], released := false, left := 0, bad := false,
    map := none, gang := none }

/-- An entry of the buffer-handle table (R167). -/
structure Handle where
  writer  : Option Nat
  readers : List Nat
  deriving DecidableEq, Repr

/-- Beside the header in a ring slot: the colour, launch and generated block that its task belongs to (R166, R178, R251). -/
structure RingSlot where
  colour : Nat
  launch : Nat
  gen    : Option BlockId
  deriving DecidableEq, Repr

/-- The tables of a compute die (R169, R171, R178, R268, R298). -/
structure Die where
  bind : Table (BitVec 512)
  supq : Table (BitVec 512)
  cnt  : Table (BitVec 128)   -- predecessor counters
  ringMode : Bool             -- R178
  ringDesc : Table (BitVec 256)
  ringInfo : Table RingSlot := []   -- what the controller knows of the entry at a position of a ring, by ringKey
  status : Word               -- write status of its tables
  bellAt : Table Nat          -- TIME of the bell in progress, by bind record (R272)
  deriving DecidableEq, Repr

/-- A die's tables after reset: empty, with write status 10 (R298). -/
def Die.empty : Die :=
  { bind := [], supq := [], cnt := [], ringMode := false, ringDesc := [], status := 2, bellAt := [] }

/-- An L2 tag (R136, R421): the place in memory of its line, its encoding code, its dirty bit and the
sectors stored; its poison bits are those of its sectors. The tags of a set stand most recently used first. -/
structure L2Tag where
  line   : Nat
  code   : BitVec 3
  dirty  : Bool
  sectors : Nat
  deriving DecidableEq, Repr

/-- A directory entry (R280): what it records of other devices and of the host. Its record of local holders is read
from the L1D tags themselves. -/
structure DirEntry where
  exp    : Nat
  rdev0  : Option Nat         -- first recorded leaseholder, or the owner
  rdev1  : Option Nat
  nlease : Nat
  rown   : Bool
  olost  : Bool
  hostc  : Bool
  snoopAt : Option Nat        -- TIME of an unanswered snoop to the owner (R291)
  waiting : List Nat          -- devices whose ownership request waits (R290)
  deriving DecidableEq, Repr

def DirEntry.empty : DirEntry :=
  { exp := 0, rdev0 := none, rdev1 := none, nlease := 0, rown := false, olost := false,
    hostc := false, snoopAt := none, waiting := [] }

/-- A commit that a slice holds (R235). -/
structure Held where
  offer : TileOffer
  since : Nat                 -- TIME of its acceptance
  colour : Nat
  die   : Nat                 -- supervisor queue of the partition that issued it
  recNo : Nat
  deriving DecidableEq, Repr

/-- How long a tile has been stalled (R238): since that TIME while the colour of its oldest held commit is
switched in; nanoseconds counted so far while it is not. -/
structure Stall where
  since  : Nat
  frozen : Bool
  deriving DecidableEq, Repr

/-- An L2 slice (R136, R140, R141, R235, R281, R297). -/
structure Slice where
  sets    : Table (List L2Tag)
  count   : Table Nat         -- the counters of R141 in the order of R297
  pinned  : Bool
  held    : List Held
  stalled : Table Stall       -- by tile header: since the last blend or the first held acceptance
  raised  : List Nat          -- tile headers whose stall has been reported (R238)
  dir     : Table DirEntry    -- by line
  dirEvictions : Nat
  rbsel   : Word
  rbstat  : Word
  rbdata  : BitVec 2048
  deriving DecidableEq, Repr

/-- A slice after reset: empty sets, and pinned queue storage, since SEGMAP is the identity (R140). -/
def Slice.empty : Slice :=
  { sets := [], count := [], pinned := true, held := [], stalled := [], raised := [], dir := [],
    dirEvictions := 0, rbsel := 0, rbstat := 0, rbdata := 0 }

/-- Who waits for a block (R244, R250). -/
inductive Waiter where
  | task (id : Nat)
  | engine (unit core part : Nat)      -- a request of an engine, by the hart that issued it
  | prefill (m : Msg)
  deriving DecidableEq, Repr

/-- A fill entry: a TURNING block (R244). -/
structure Fill where
  blk     : BlockId
  gen     : Option Nat        -- TASKID of the generator, once dispatched
  slot    : Option Nat        -- its generator slot; none while the fill waits for one (R251)
  depth   : Nat
  parent  : Option BlockId    -- the requester's block, where the requester is a generator (R255)
  waiters : List Waiter
  deriving DecidableEq, Repr

/-- The fill unit (R240, R241, R244, R249, R256). -/
structure FillUnit where
  ranges  : Table (BitVec 512)
  status  : Word              -- range table write status (R298)
  fills   : List Fill
  slots   : List (Nat × Nat × Nat)  -- range, slot, TASKID (0 while the generator is queued)
  filled  : List BlockId      -- FILLED blocks in the order they were filled, oldest first
  exempt  : List (Waiter × BlockId) -- resumed waiters that have not re-executed (R248)
  codes   : List (Nat × BlockId × BitVec 16)  -- task, block and code of a fill that failed (R254)
  retries : Nat
  evictions : Table Nat       -- by range
  inbox   : List Msg
  waits   : List Aside        -- PREFILL requests that wait for their block (R258)
  owed    : List (BlockId × FillState) := []  -- states whose byte of the table waits for its line (R288), oldest first
  deriving DecidableEq, Repr

def FillUnit.empty : FillUnit :=
  { ranges := [], status := 2, fills := [], slots := [], filled := [], exempt := [], codes := [], retries := 0,
    evictions := [], inbox := [], waits := [] }

/-- A cluster's engines: inboxes of the copy engine, the intersection unit and the texture unit, each
of 64 messages (R184), requests set aside (R250), and the cluster TLB (R276). -/
structure Cluster where
  inbox : Table (List Msg)
  aside : List Aside
  tlb   : List TlbEntry
  deriving DecidableEq, Repr

def Cluster.empty : Cluster := { inbox := [], aside := [], tlb := [] }

/-- A completion record that waits for room in its ring (R196). -/
structure DueRecord where
  ring   : Word
  body   : BitVec 256         -- the record with SEQ 0
  colour : Nat
  scope  : BitVec 3
  task   : Option Nat
  unit   : Option Nat         -- the engine that takes no further message until the record is written
  tracker : Option (Nat × Nat × Nat)  -- core, partition and number of the chain tracker that it releases (R128)
  failed : Bool := false      -- its request has failed: what its copy did not land never will
  pend   : Table Byte := []   -- what its request has written, published with it (R160)
  hart   : Option (Nat × Nat) := none  -- core and partition of the hart whose request it ends
  deriving DecidableEq, Repr

/-- A team of entries that migrates between dies (R181). -/
structure Team where
  src    : Nat
  dst    : Nat
  colour : Nat
  entries : List QEntry
  deriving DecidableEq, Repr

/-- Launch unit, graph unit and routing (R166 to R170, R174, R177, R181, R195, R196). -/
structure Sched where
  segs     : Table Seg
  segmap   : Table Nat        -- entries that differ from the identity (R174)
  spread   : Nat              -- headers of R174 that no core issued, placed so far
  launches : Table Launch
  nextLaunch : Nat
  accepting : Option Nat      -- the launch record that has been read and not yet accepted
  handles  : Table Handle
  maps     : Table (List Nat) -- node maps: entry of each node (R169)
  errors   : Nat              -- scheduler error counter (R170, R196)
  due      : List DueRecord
  diverts  : List Divert
  teams    : List Team
  gangs    : Table Gang
  graphQ   : List (BitVec 512 × Nat × Nat)  -- headers (with colour and launch) of KIND 01 launches that are still to
                              -- be queued (R174)
  readyNodes : List ReadyNode := []   -- nodes whose headers are being queued, in the order in which they became ready
  readyQ   : List Nat         -- parked tasks that have become ready, in that order (R173)
  rr       : Table Nat        -- last home segment served, by die and priority (R175)
  nextTask : Nat
  imageTab : Table (BitVec 256)
  imageStatus : Word
  deriving DecidableEq, Repr

def Sched.empty : Sched :=
  { segs := [], segmap := [], spread := 0, launches := [], nextLaunch := 1, accepting := none, handles := [],
    maps := [], errors := 0, due := [], diverts := [], teams := [], gangs := [], graphQ := [], readyQ := [],
    rr := [], nextTask := 1, imageTab := [],
    imageStatus := 2 }

/-- The host registers of BAR0 (R299, R300). -/
structure Bar0 where
  temp   : BitVec 8
  pstate : BitVec 2
  throt  : Bool
  lrovf  : Bool
  unsync : Bool
  repair : Bool
  fwstate : BitVec 3
  lrrd   : Bool
  ready  : Bool
  lrbase : Word
  lrsize : Word
  lrhead : Word
  lrtail : Word
  lrerr  : Word
  fwcmd  : Word
  fwaddr : Word
  fwlen  : Word
  fwstat : Word
  nonce  : BitVec 256
  deriving DecidableEq, Repr

/-- BAR0 after reset: UNSYNC is 1 and every other field 0 (R299, R300). -/
def Bar0.reset : Bar0 :=
  { temp := 0, pstate := 0, throt := false, lrovf := false, unsync := true, repair := false, fwstate := 0,
    lrrd := false, ready := false, lrbase := 0, lrsize := 0, lrhead := 0, lrtail := 0, lrerr := 0, fwcmd := 0,
    fwaddr := 0, fwlen := 0, fwstat := 0, nonce := 0 }

/-- Translation, coherence and domain registers of the management window (R274, R278, R287, R292, R297). -/
structure Mgmt where
  roots   : Table Word        -- page-table root of each colour
  homemap : Table (BitVec 32)
  lease   : Word              -- LEASE in microseconds
  devid   : Word
  dmaddr  : Word
  dmcmd   : Word
  dmstat  : Word
  dmdata  : BitVec 256
  olcount : Word
  ollog   : Table Word
  refused : Nat               -- late snoop answers refused (R291)
  unsyncs : Nat               -- times the device became unsynchronised (R289)
  leased  : Table Nat         -- lines that this device holds under a lease: expiry (R287)
  owned   : List Nat          -- remote lines that this device owns (R290)
  hostPending : List Nat      -- lines whose device write waits for the host's answer (R284)
  inletT  : Word
  outletT : Word
  flow    : Word
  cap     : Word
  stlCount : Word
  stlCmd  : Word
  stlStat : Word
  stl     : Table (BitVec 1024)  -- S-mode trap log (R423)
  halves  : Table Word        -- doublewords of an entry written before its highest (R298), by BAR2 offset
  stopped : Bool              -- dispatch stops at a junction above 105 degrees (R307)
  inService : Bool            -- false once the module is removed (R306)
  retired : List Nat          -- retired 2 MiB regions of device memory (R306)
  repairs : List (Nat × Nat)  -- repairs made: resource kind and number (R306)
  softErrs  : Table Nat := [] -- soft errors corrected in each array (R147)
  badErrs   : Table Nat := [] -- uncorrectable errors of each array
  repairing : List Nat        -- clusters whose repair waits for the bells of the colours on them (R306)
  deriving DecidableEq, Repr

/-- The management registers after reset: LEASE is 16 microseconds (R287), everything else 0. -/
def Mgmt.reset : Mgmt :=
  { roots := [], homemap := [], lease := 16, devid := 0, dmaddr := 0, dmcmd := 0, dmstat := 0, dmdata := 0,
    olcount := 0, ollog := [], refused := 0, unsyncs := 0, leased := [], owned := [], hostPending := [],
    inletT := 0, outletT := 0, flow := 0, cap := 0, stlCount := 0, stlCmd := 0, stlStat := 0, stl := [],
    halves := [], stopped := false, inService := true, retired := [], repairs := [], repairing := [] }

/-- The firmware (R301 to R303): digests stand for images, which the spec does not give. -/
structure Firmware where
  running : Nat               -- digest of the running image
  flash   : Option Nat        -- digest of the image in flash; none once a write was interrupted
  staged  : Option Nat
  version : Word              -- version of the running image
  stagedVersion : Word
  rollback : Word             -- fused rollback counter
  switchAt : Option Nat       -- TIME at which the new image was started
  deriving DecidableEq, Repr

def Firmware.reset : Firmware :=
  { running := 0, flash := some 0, staged := none, version := 0, stagedVersion := 0, rollback := 0,
    switchAt := none }

/-- What a bell saved for a colour that is switched out (R272). The save area's layout is not given, so
its contents are held as what they are. -/
structure Saved where
  die    : Nat
  recNo  : Nat
  colour : Nat
  cores  : Table Core
  parts  : Table Part         -- with the messages in their FIFOs
  ctxs   : Table Ctx          -- contexts parked in place
  spads  : Memory             -- scratchpads of its cores
  packets : List Msg          -- messages and requests that engines held, in their per-source order
  teams  : List Team
  entries : Table (List QEntry)   -- its queue-segment entries
  diverts : List Divert := []     -- trap records of its diverted messages that are still to be posted
  due     : List DueRecord := []  -- completion records that wait for room in their rings
  deriving DecidableEq, Repr

/-- What an access of a line asks of its L2 slice: a read, a write with the line's encoding then (R138), or, after a write at
memory past every cache, that the slice holds the line no more (R135). -/
inductive L2Op where
  | read
  | write (code : BitVec 3) (sectors : Nat)
  | drop
  deriving DecidableEq, Repr

/-- The whole machine. -/
structure State where
  time    : Nat               -- TIME in nanoseconds (R84)
  power   : Bool
  agenda  : List Instr        -- the MODEL's own: events due before the next instruction, oldest first
  turn    : CtxId             -- the context that issues next (R25)
  freeCnt : Nat               -- the MODEL's own: how many free values have been drawn
  mem     : Memory            -- every byte of memory, by place
  poison  : List Nat          -- poisoned 32-byte sectors (R146)
  l2Due   : List (Nat × L2Op)  -- accesses on their way to the L2, by line, oldest first
  badCheck : List Nat         -- sectors whose stored check value does not match their bytes (R145)
  uncached : List Nat         -- lines whose latest store was through a CACHE 10 path (R135)
  dirUse  : List Nat          -- places whose directory entries are in use, most recently used first (R281)
  dirDue  : List Nat := []    -- places whose entries are needed next, oldest first
  narrow  : Table (Table Nat) := []  -- by core, the lines of which its L1D keeps writes that it has published at a narrow
                              -- scope only, with that scope (R157)
  ctxs    : Table Ctx
  parts   : Table Part
  cores   : Table Core
  tasks   : Table Task
  dies    : Table Die
  slices  : Table Slice
  clusters : Table Cluster
  sched   : Sched
  fill    : FillUnit
  bar0    : Bar0
  mgmt    : Mgmt
  fw      : Firmware
  saved   : List Saved
  blends  : Table (Table Byte) := []  -- by the place of a tile's header, what the commit unit has written to the tile and
                              -- no retire event has published (R152)
  deriving DecidableEq, Repr

/-- The machine right after reset. Supply is on and nothing has run: no context is live, every table
is empty, memory lists nothing. -/
def State.reset : State :=
  { time := 0, power := true, agenda := [], turn := { core := 0, part := 0, tail := false }, freeCnt := 0,
    mem := [], poison := [], l2Due := [], badCheck := [], uncached := [], dirUse := [], ctxs := [], parts := [], cores := [], tasks := [], dies := [],
    slices := [], clusters := [], sched := Sched.empty, fill := FillUnit.empty, bar0 := Bar0.reset,
    mgmt := Mgmt.reset, fw := Firmware.reset, saved := [] }

end Sys2Proof.Machine
end

