-- ==== Sys2Proof/Machine/Regs.lean ====
section
/-! DEFINITION. Reading and writing the state by name: contexts, partitions, cores, tasks, the registers of
the context that acts (`turn`), and the lane geometry of its hart (R21, R22). -/

namespace Sys2Proof.Machine

/-! ### Slots and tables -/

/-- The number of a context slot. -/
def CtxId.key (c : CtxId) : Nat := c.core * 16 + c.part * 2 + (if c.tail then 1 else 0)
/-- The number of a partition. -/
def CtxId.partKey (c : CtxId) : Nat := c.core * 8 + c.part
/-- The slot with a number. -/
def CtxId.ofKey (n : Nat) : CtxId := { core := n / 16, part := n / 2 % 8, tail := n % 2 = 1 }
/-- The other context slot of the partition. -/
def CtxId.other (c : CtxId) : CtxId := { c with tail := !c.tail }

namespace State

def ctx (s : State) (c : CtxId) : Ctx := Table.get Ctx.empty s.ctxs c.key
def setCtx (s : State) (c : CtxId) (k : Ctx) : State := { s with ctxs := Table.set s.ctxs c.key k }
def partAt (s : State) (core part : Nat) : Part := Table.get Part.empty s.parts (core * 8 + part)
def setPartAt (s : State) (core part : Nat) (p : Part) : State :=
  { s with parts := Table.set s.parts (core * 8 + part) p }
def core (s : State) (n : Nat) : Core := Table.get Core.empty s.cores n
def setCore (s : State) (n : Nat) (c : Core) : State := { s with cores := Table.set s.cores n c }
def taskAt (s : State) (id : Nat) : Task := Table.get Task.empty s.tasks id
def setTask (s : State) (id : Nat) (t : Task) : State := { s with tasks := Table.set s.tasks id t }
def die (s : State) (n : Nat) : Die := Table.get Die.empty s.dies n
def setDie (s : State) (n : Nat) (d : Die) : State := { s with dies := Table.set s.dies n d }
def slice (s : State) (n : Nat) : Slice := Table.get Slice.empty s.slices n
def setSlice (s : State) (n : Nat) (d : Slice) : State := { s with slices := Table.set s.slices n d }
def cluster (s : State) (n : Nat) : Cluster := Table.get Cluster.empty s.clusters n
def setCluster (s : State) (n : Nat) (d : Cluster) : State := { s with clusters := Table.set s.clusters n d }
def seg (s : State) (n : Nat) : Seg := Table.get Seg.empty s.sched.segs n
def setSeg (s : State) (n : Nat) (g : Seg) : State :=
  { s with sched := { s.sched with segs := Table.set s.sched.segs n g } }

/-! ### The acting context -/

/-- The context that acts. -/
def me (s : State) : Ctx := s.ctx s.turn
def setMe (s : State) (k : Ctx) : State := s.setCtx s.turn k
/-- Its partition. -/
def part (s : State) : Part := s.partAt s.turn.core s.turn.part
def setPart (s : State) (p : Part) : State := s.setPartAt s.turn.core s.turn.part p
/-- Its core. -/
def myCore (s : State) : Core := s.core s.turn.core
def setMyCore (s : State) (c : Core) : State := s.setCore s.turn.core c
/-- TASKID of its task; 0 where it has none. -/
def taskId (s : State) : Nat := s.part.task.getD 0
/-- Its task. -/
def task (s : State) : Task := match s.part.task with
  | some id => s.taskAt id
  | none => Task.empty
def setMyTask (s : State) (t : Task) : State := match s.part.task with
  | some id => s.setTask id t
  | none => s

/-- x register r; x0 reads 0 (R11). -/
def x (s : State) (r : Reg) : Word := if r = 0 then 0 else Table.get 0 s.me.x r.toNat
/-- Write x register r; a write to x0 is discarded (R11). -/
def setX (s : State) (r : Reg) (v : Word) : State :=
  if r = 0 then s else s.setMe { s.me with x := Table.set s.me.x r.toNat v }
def pc (s : State) : Word := s.me.pc
def setPc (s : State) (a : Word) : State := s.setMe { s.me with pc := a }
/-- The next instruction in program order, n bytes on. -/
def advance (s : State) (n : Nat) : State := s.setPc (s.pc + BitVec.ofNat 64 n)
def v (s : State) (r : Nat) : VReg := Table.get 0 s.me.v r
def setV (s : State) (r : Nat) (w : VReg) : State := s.setMe { s.me with v := Table.set s.me.v r w }
def k (s : State) (r : Nat) : Mask := Table.get 0 s.me.k r
def setK (s : State) (r : Nat) (w : Mask) : State := s.setMe { s.me with k := Table.set s.me.k r w }
def vl (s : State) : Nat := s.me.vl

/-- A free value, and the state that has drawn it. -/
def draw (s : State) : Nat × State := (Config.freeBits s.freeCnt, { s with freeCnt := s.freeCnt + 1 })

end State

/-! ### Task header fields (R26) -/

/-- Bits h to l of a task's header. -/
def Task.hdr (t : Task) (h l : Nat) : Nat := bitsOf t.header h l
/-- ATOM: the task is one atomic chunk (R32). -/
def Task.atomic (t : Task) : Bool := bitOf t.header 205
/-- SUP: the task runs in S-mode (R29). -/
def Task.smode (t : Task) : Bool := bitOf t.header 204
def Task.cscope (t : Task) : Nat := t.hdr 202 200
def Task.ckind (t : Task) : Nat := t.hdr 319 318
def Task.ctgt (t : Task) : Nat := t.hdr 312 256
def Task.spill (t : Task) : Nat := t.hdr 191 128
def Task.live (t : Task) : Bool :=
  t.state = .running || t.state = .waiting || t.state = .tailPending || t.state = .dispatched

/-- The top of a mask stack: every bit set when it is empty (R46). -/
def Ctx.top (c : Ctx) : Mask := match c.mstk with
  | [] => BitVec.allOnes 65536
  | m :: _ => m

/-! ### Lane geometry -/

/-- Harts per core of a SPLIT code, which has two bits (R89). -/
def hartsOf (split : Nat) : Nat := 2 ^ (split % 4)
/-- L, the lanes of each partition (R21). -/
def lanesOf (split : Nat) : Nat := 32 / hartsOf split
/-- VLEN in bits (R22). -/
def vlenOf (split : Nat) : Nat := lanesOf split * 512
/-- S, the bytes of a spill area (R28). -/
def spillBytes (split : Nat) : Nat := 2 * (32 * (vlenOf split / 8) + 1024)

/-- L of the acting hart. -/
def State.lanes (s : State) : Nat := lanesOf s.myCore.split
def State.vlen (s : State) : Nat := vlenOf s.myCore.split

/-- HCFG (R89). -/
def State.hcfg (s : State) : Word := BitVec.ofNat 64 (s.turn.part * 4 + s.myCore.split)

/-! ### VTY fields (R85) -/

def vtyIll (t : Word) : Bool := bitOf t 63
def vtyBlen (t : Word) : Nat := bitsOf t 14 13
def vtyMa (t : Word) : Bool := bitOf t 12
def vtyTa (t : Word) : Bool := bitOf t 11
/-- GF as a count of rows. -/
def vtyGf (t : Word) : Nat := 2 ^ bitsOf t 10 8
def vtyFmt (t : Word) : Nat := bitsOf t 7 3
/-- SEW in bits. -/
def sewOf (code : Nat) : Nat := 4 * 2 ^ code
def vtySew (t : Word) : Nat := sewOf (bitsOf t 2 0)
/-- B, the block length of a BLEN code; 0 where there is none (R85). -/
def blenOf (code : Nat) : Nat := if code = 0 then 0 else 8 * 2 ^ code

/-- A valid combination of FMT, SEW code and BLEN (R86). -/
def typeOk (fmt sew blen : Nat) : Bool :=
  match fmt, sew, blen with
  | 0, 1, 0 | 0, 2, 0 | 0, 3, 0 | 0, 4, 0 => true
  | 1, 4, 0 | 2, 3, 0 | 3, 2, 0 | 4, 2, 0 | 5, 1, 0 | 6, 1, 0 => true
  | 8, 1, 2 | 9, 1, 2 | 10, 0, 2 => true
  | 12, 0, 1 | 12, 0, 2 | 12, 0, 3 => true
  | _, _, _ => false

/-- VLMAX (R22). -/
def vlmax (lanes sew gf : Nat) : Nat := lanes * 512 / sew * gf

/-! ### The faulted-element mask (R88, R265) -/

/-- The indexes of set bits below n, ascending. -/
def setBits (m : Mask) (n : Nat) : List Nat := (upTo n).filter (fun i => m.getLsbD i)

/-- The FMASK summary of a mask (R88). -/
def fmaskWord (m : Mask) : Word :=
  if m = 0 then 0
  else
    let l := setBits m 65536
    BitVec.ofNat 64 (2 ^ 63 + l.length * 2 ^ 32 + l.head?.getD 0)

/-- A mask with exactly the listed bits. -/
def maskOf (l : List Nat) : Mask := BitVec.ofNat 65536 (l.foldl (fun acc i => acc ||| 2 ^ i) 0)

/-! ### TFG (R59) -/

/-- TFG as 128 bits. -/
def Tfg.word (t : Tfg) : BitVec 128 :=
  BitVec.ofNat 128
    (t.limit.toNat * 2 ^ 68 + t.base.toNat * 2 ^ 4 + (if t.live then 2 else 0) + (if t.armed then 1 else 0))

/-- TFG from its 128 bits. -/
def Tfg.ofWord (w : BitVec 128) : Tfg :=
  { armed := bitOf w 0, live := bitOf w 1, base := BitVec.ofNat 53 (bitsOf w 56 4),
    limit := BitVec.ofNat 53 (bitsOf w 120 68) }

/-! ### Causes (R261) -/

def Cause.code : Cause → Nat
  | .illegal => 1 | .misaligned => 2 | .bounds => 3 | .page => 4 | .perm => 5 | .poison => 6 | .fillfail => 7
  | .mstkovf => 8 | .frameinuse => 9 | .amotype => 10 | .contain => 11 | .tilefault => 12 | .atomirrev => 13
  | .ecall => 14 | .ebreak => 15

/-- A trap without an element or an address. -/
def trapOf (c : Cause) (detail : Nat) : Trap :=
  { cause := c, detail := detail, elem := 0, addr := 0, straddle := false, aux := 0 }
/-- A trap of an access. -/
def trapAt (c : Cause) (detail elem : Nat) (addr : Word) : Trap :=
  { cause := c, detail := detail, elem := elem, addr := addr, straddle := false, aux := 0 }

/-- Continue where c does not hold; trap where it does. -/
def trapIf (c : Bool) (t : Trap) : Except Halt Unit := if c then .error (.trap t) else .ok ()
/-- ILLEGAL at execution (R82). -/
def illegalIf (c : Bool) : Except Halt Unit := trapIf c (trapOf .illegal 1)

end Sys2Proof.Machine
end

