-- ==== Sys2Proof/Machine/Space.lean ====
section
/-! DEFINITION. Address spaces: the local window (R121), physical windows and the home map (R278), and
translation (R274 to R276, R293). -/

namespace Sys2Proof.Machine

/-! ### Places in memory -/

/-- The place of a scratchpad byte. Device memory offsets, scratchpads, host memory and other devices'
memory have places of their own in one numbering. -/
def scratchLoc (core o : Nat) : Nat := 2 ^ 40 + core * 2 ^ 20 + o
def hostLoc (h : Nat) : Nat := 2 ^ 56 + h
def peerLoc (dev o : Nat) : Nat := 2 ^ 60 + dev * 2 ^ 40 + o

/-- Whose memory a place is. -/
def homeOfLoc (l : Nat) : Home :=
  if l < 2 ^ 40 then .local
  else if l < 2 ^ 56 then .scratch ((l - 2 ^ 40) / 2 ^ 20)
  else if l < 2 ^ 60 then .hostCoherent
  else .peer ((l - 2 ^ 60) / 2 ^ 40)

/-- The 32-byte sector of a place. -/
def sectorOf (l : Nat) : Nat := l / 32
/-- The 128-byte line of a place. -/
def lineOf (l : Nat) : Nat := l / 128

/-- The home slice, or the proxy slice, of a place (R279). -/
def sliceOf (l : Nat) : Nat :=
  (l / 2 ^ 7 % 256) ^^^ (l / 2 ^ 15 % 256) ^^^ (l / 2 ^ 23 % 256) ^^^ (l / 2 ^ 31 % 256)

/-! ### Effective addresses -/

/-- Bits [56:0] of an address, sign-extended from bit 56 (R12). -/
def gva (a : Word) : Word := signWord a.toNat 57

/-- First byte of the local window (R121). -/
def windowBase : Nat := 0xFFFFFF0000000000
/-- The address lies in the local window. -/
def inWindow (a : Word) : Bool := decide (windowBase ≤ a.toNat) && decide (a.toNat < windowBase + 2 ^ 32)

/-- The core and the scratchpad offset that bytes of the window reach, for an access of `core`; none where
any byte lies outside the listed ranges (R121). -/
def windowPlace (core : Nat) (a : Word) (width : Nat) : Option (Nat × Nat) :=
  let off := a.toNat - windowBase
  if off + width ≤ Config.scratchBytes then some (core, off)
  else
    let c := off / 2 ^ 20
    let o := off % 2 ^ 20
    if 1 ≤ c ∧ c ≤ 4 ∧ o + width ≤ Config.scratchBytes then some (core / 4 * 4 + (c - 1), o) else none

/-- The window address of an offset through ls(s) or psC(s), and whether the bytes stay below 0x6_0000
(R12, R121). A psC that names the own position behaves as ls. -/
def selectorAddr (core : Nat) (sel : Nat) (o : Word) (width : Nat) : Word × Bool :=
  let own := sel = 1 ∨ sel - 2 = core % 4
  let area := if own then 0 else (sel - 1) * 2 ^ 20
  (BitVec.ofNat 64 (windowBase + area) + o,
   decide (o.toNat + width ≤ Config.scratchBytes))

/-- Any byte lies in the barrier-slot area (R121). -/
def touchesSlots (o width : Nat) : Bool := decide (Config.barrierBase < o + width) && decide (o < Config.scratchBytes)

/-! ### Physical addresses -/

/-- The memory that a physical address reaches by the home map; none where the access faults with PAGE
(R278). A retired region is memory no longer (R306). -/
def physical (s : State) (pa : Nat) : Option (Home × Nat) :=
  let e := Table.get 0 s.mgmt.homemap (pa / 2 ^ 38)
  let off := pa % 2 ^ 38
  match bitsOf e 31 30 with
  | 1 =>
    if bitsOf e 13 0 ≠ 0 then none
    else if bitOf e 14 ∧ 2 ^ 37 ≤ off then none
    else
      let o := (if bitOf e 14 then 2 ^ 38 else 0) + off
      if bitOf e 29 ∨ bitsOf e 28 15 = bitsOf s.mgmt.devid 13 0 then
        (if s.mgmt.retired.contains (o / 2 ^ 21) then none else some (.local, o))
      else some (.peer (bitsOf e 28 15), peerLoc (bitsOf e 28 15) o)
  | 2 => some (.hostCoherent, hostLoc (bitsOf e 13 0 * 2 ^ 38 + off))
  | 3 => some (.hostPosted, hostLoc (bitsOf e 13 0 * 2 ^ 38 + off))
  | _ => none

/-- A sector that reads as poisoned: its poison bit is set or its check value does not match (R146). -/
def State.sectorBad (s : State) (sector : Nat) : Bool := s.poison.contains sector || s.badCheck.contains sector

/-- n published bytes from a place, as a number (R5). -/
def State.pub (s : State) (loc n : Nat) : Nat := ofBytes (s.mem.read loc n)

/-! ### The walk -/

/-- V of a page-table entry and its other fields (R274). -/
def pteV (e : Word) : Bool := bitOf e 0
def pteTbl (e : Word) : Bool := bitOf e 63
def pteCont (e : Word) : Nat := bitsOf e 11 10
def ptePpn (e : Word) : Nat := bitsOf e 51 12
def pteCache (e : Word) : BitVec 2 := BitVec.ofNat 2 (bitsOf e 5 4)
/-- The page's grain in bytes: 00 counts as 512 (R274). -/
def grainBytes (code : Nat) : Nat := match code with
  | 1 => 32
  | 2 => 128
  | _ => 512

/-- A leaf is legal at the level: none says PAGE (R274). The answer is the size of the translation. -/
def leafSize (e : Word) (level : Nat) : Option Nat :=
  if bitsOf e 62 52 ≠ 0 ∨ bitsOf e 5 4 = 3 then none
  else match level, pteCont e with
    | 0, 0 => some (2 ^ 12)
    | 0, 1 => some (2 ^ 16)
    | 1, 0 => if ptePpn e % 512 = 0 then some (2 ^ 21) else none
    | 1, 1 => if ptePpn e % 512 = 0 then some (2 ^ 25) else none
    | 1, 2 => if ptePpn e % 512 = 0 then some (2 ^ 29) else none
    | _, _ => none

/-- The directory entry of a line (R280). -/
def dirOf (s : State) (line : Nat) : Option DirEntry := Table.find (s.slice (sliceOf (line * 128))).dir line

/-- Another device owns the line and can still answer a snoop (R290). -/
def ownedAway (s : State) (line : Nat) : Bool := match dirOf s line with
  | some d => d.rown && !d.olost
  | none => false

/-- Why a translation has no answer: PAGE, POISON of an entry, or an entry in a line that another device owns. -/
inductive WalkStop where
  | page | poison | owned (line : Nat)
  deriving DecidableEq, Repr

/-- The walk from the table at pa, level 4 down to 0, each entry read as a global load is (R274, R293): a line that
another device owns must come back first. leased: the lines of other devices that it has read so far; an unsynchronised
device takes no lease (R289). read: every line that it has read so far. -/
def walk (s : State) (colour va : Nat) : Nat → Nat → List Nat → List Nat → Except WalkStop TlbEntry
  | level, table, leased, read =>
    let at' := table + 8 * (va / 2 ^ (12 + 9 * level) % 512)
    match physical s at' with
    | none => .error .page
    | some (home, loc) =>
      if ownedAway s (lineOf loc) then .error (.owned (lineOf loc))
      else if s.sectorBad (sectorOf loc) then .error .poison
      else
        let e : Word := BitVec.ofNat 64 (s.pub loc 8)
        let leased' := match home with
          | .peer _ => if s.bar0.unsync then leased else lineOf loc :: leased
          | _ => leased
        let read' := lineOf loc :: read
        if !pteV e then .error .page
        else if pteTbl e then
          match level with
          | 0 => .error .page
          | l + 1 =>
            if bitsOf e 62 52 ≠ 0 ∨ bitsOf e 11 1 ≠ 0 then .error .page
            else walk s colour va l (ptePpn e * 4096) leased' read'
        else match leafSize e level with
          | none => .error .page
          | some size =>
            let base := (ptePpn e * 4096 + 2 ^ 52 - va / 2 ^ (12 + 9 * level) * 2 ^ (12 + 9 * level) % size) % 2 ^ 52
            .ok { colour := colour, page := va / size * size, size := size,
                  leaf := putBits e 51 12 (base / 4096), leased := leased', read := read' }

/-- The places of the entries that a walk reads, as far as it comes. -/
def walkPlaces (s : State) (va : Nat) : Nat → Nat → List Nat
  | level, table =>
    match physical s (table + 8 * (va / 2 ^ (12 + 9 * level) % 512)) with
    | none => []
    | some (_, loc) =>
      if ownedAway s (lineOf loc) then []
      else
        let e : Word := BitVec.ofNat 64 (s.pub loc 8)
        loc :: (match level with
          | 0 => []
          | l + 1 => if s.sectorBad (sectorOf loc) || !pteV e || !pteTbl e || decide (bitsOf e 62 52 ≠ 0) || decide (bitsOf e 11 1 ≠ 0) then []
                     else walkPlaces s va l (ptePpn e * 4096))

/-- An entry translates the address for the colour. -/
def TlbEntry.hits (e : TlbEntry) (colour va : Nat) : Bool :=
  decide (e.colour = colour) && decide (e.page ≤ va) && decide (va < e.page + e.size)

/-- The translation that a TLB of a core or of its cluster holds (R276); fresh says that it is to be kept in the core's. -/
def tlbHit (s : State) (core colour va : Nat) : Option (TlbEntry × Bool) :=
  match (s.core core).tlb.find? (·.hits colour va) with
  | some e => some (e, false)
  | none => ((s.cluster (core / 4)).tlb.find? (·.hits colour va)).map (fun e => (e, true))

/-- The page-table root of a colour. -/
def rootOf (s : State) (colour : Nat) : Word := Table.get 0 s.mgmt.roots colour

/-- The translation of a virtual address (R276): the core's TLB, then its cluster's, then a walk. -/
def translate (s : State) (core colour : Nat) (a : Word) : Except WalkStop (TlbEntry × Bool) :=
  let va := a.toNat % 2 ^ 57
  match tlbHit s core colour va with
  | some r => .ok r
  | none =>
    let root := rootOf s colour
    if !bitOf root 0 then .error .page
    else match walk s colour va 4 (bitsOf root 51 12 * 4096) [] [] with
      | .ok e => .ok (e, true)
      | .error c => .error c

/-- The places of the page-table entries that the translation of an address reads. -/
def walked (s : State) (core colour : Nat) (a : Word) : List Nat :=
  let va := a.toNat % 2 ^ 57
  if (tlbHit s core colour va).isSome || !bitOf (rootOf s colour) 0 then []
  else walkPlaces s va 4 (bitsOf (rootOf s colour) 51 12 * 4096)

/-- The physical address under a translation. -/
def TlbEntry.pa (e : TlbEntry) (a : Word) : Nat := ptePpn e.leaf * 4096 + (a.toNat % 2 ^ 57 - e.page)

/-- This device takes a lease on a line of another device, or goes on holding it (R287). -/
def State.takeLease (s : State) (line : Nat) : State :=
  if s.bar0.unsync || (Table.find s.mgmt.leased line).isSome then s
  else { s with mgmt := { s.mgmt with leased := Table.set s.mgmt.leased line (s.time + 1000 * s.mgmt.lease.toNat) } }

/-! ### Encodings (R137) -/

/-- The 32 words of a line. -/
def lineWords (s : State) (line : Nat) : List Nat := (upTo 32).map (fun i => s.pub (line * 128 + 4 * i) 4)

/-- Some sector of the line is poisoned, so it is RAW (R138). -/
def linePoisoned (s : State) (line : Nat) : Bool := (upTo 4).any (fun i => s.poison.contains (line * 4 + i))

/-- The differences of the words 1 to 31 from word 0. -/
def lineDeltas (ws : List Nat) : List Int := (ws.drop 1).map (fun w => signNat (w + 2 ^ 32 - ws.headD 0) 32)

/-- Words of a line that are not 0. -/
def nonzero (ws : List Nat) : Nat := (ws.filter (fun w => w ≠ 0)).length

/-- The encodings that a line may take, with their sectors, in the order in which ties go (R138). -/
def encodings (ws : List Nat) : List (BitVec 3 × Nat) :=
  let ds := lineDeltas ws
  let within := fun (b : Int) => ds.all (fun d => decide (-b ≤ d) && decide (d < b))
  (if nonzero ws = 0 then [(0, 0)] else []) ++ (if ws.all (fun w => w = ws.headD 0) then [(1, 1)] else [])
    ++ (if within 128 then [(3, 2)] else []) ++ (if nonzero ws ≤ 31 then [(2, (4 + 4 * nonzero ws + 31) / 32)] else [])
    ++ (if within 32768 then [(4, 3)] else []) ++ [(7, 4)]

/-- The first of the encodings with the fewest sectors. -/
def fewest : List (BitVec 3 × Nat) → BitVec 3 × Nat
  | [] => (7, 4)
  | [e] => e
  | e :: es => let r := fewest es; if r.2 < e.2 then r else e

/-- The encoding of a line. -/
def encodeLine (s : State) (line : Nat) : BitVec 3 × Nat :=
  if linePoisoned s line then (7, 4) else fewest (encodings (lineWords s line))

/-! ### What accesses leave behind -/

/-- Drop a line from its L2 slice without writing it back (R256). -/
def l2Discard (s : State) (line : Nat) : State :=
  if s.slices.isEmpty then s
  else
    let n := sliceOf (line * 128)
    let d := s.slice n
    s.setSlice n { d with sets := d.sets.map (fun (e : Nat × List L2Tag) => (e.1, e.2.filter (fun t => t.line ≠ line))) }

/-- A line of another device. -/
def peerLine (line : Nat) : Bool := match homeOfLoc (line * 128) with
  | .peer _ => true
  | _ => false

/-- The L2 serves an access of a line: no scratchpad has lines there, and an unsynchronised device caches nothing that it
reads of another device's memory (R289). -/
def l2Serves (s : State) (write : Bool) (line : Nat) : Bool := match homeOfLoc (line * 128) with
  | .scratch _ => false
  | .peer _ => write || !s.bar0.unsync
  | _ => true

/-- Accesses of lines go to the L2 (R136), a write with the encoding of the line as it is then (R138). A write through a
CACHE 10 path is performed at memory: its line is held in no cache (R135). -/
def toL2 (s : State) (lines : List Nat) (write : Bool) : State :=
  let ls := (lines.filter (l2Serves s write)).eraseDups
  let op := fun (l : Nat) => if !write then L2Op.read else if s.uncached.contains l then .drop
    else let e := encodeLine s l; .write e.1 e.2
  if ls.isEmpty then s else { s with l2Due := s.l2Due ++ ls.map (fun l => (l, op l)) }

/-- Keep a translation in the TLBs of a core and of its cluster, newest first, with the leases that its walk took, but
for one from leased lines while the device is unsynchronised (R289). A full TLB of 256 or 4,096 entries drops its oldest
(R276; DESIGN CHOICE log 12). -/
def State.keepTlb (s : State) (core : Nat) : Option TlbEntry → State
  | none => s
  | some e0 =>
    let e := { e0 with read := [] }
    let s0 := toL2 s e0.read false
    if s.bar0.unsync && e0.read.any (fun l => match homeOfLoc (l * 128) with | .peer _ => true | _ => false) then s0
    else
      let c := s0.core core
      let u := s0.cluster (core / 4)
      let s1 := e.leased.foldl State.takeLease (s0.setCore core { c with tlb := (e :: c.tlb).take 256 })
      if u.tlb.contains e then s1 else s1.setCluster (core / 4) { u with tlb := (e :: u.tlb).take 4096 }

/-- What a device's own access at a virtual address of a colour reaches, with the attributes of its page. -/
def deviceTarget (s : State) (core colour : Nat) (a : Word) : Option Target :=
  match translate s core colour a with
  | .ok (e, _) => (physical s (e.pa a)).map (fun p =>
      { loc := p.2, home := p.1, cache := if p.1 = .hostPosted then 2 else pteCache e.leaf, grain := grainBytes (bitsOf e.leaf 7 6),
        fill := none, tlb := none })
  | .error _ => none

/-- The place of a device's own read or write at a virtual address of a colour: translation and home map,
no permission (R244, R268). -/
def devicePlace (s : State) (core colour : Nat) (a : Word) : Option Nat :=
  match translate s core colour a with
  | .ok (e, _) => (physical s (e.pa a)).map (·.2)
  | .error _ => none

end Sys2Proof.Machine
end

