-- ==== Sys2Proof/Machine/L1.lean ====
section
/-! DEFINITION. The L1D tags of a core (R132, R133), its instruction cache (R120, R134, R329), the notices that end an
MWAIT (R197), the use of directory entries (R280 to R282), and the L2 lines that are discarded with a block (R256). -/

namespace Sys2Proof.Machine

/-! ### L1D tags (R132, R133) -/

def Mesi.has : Mesi → Bool
  | .invalid => false
  | _ => true

/-- The 512-byte region of a place. -/
def regionOf (l : Nat) : Nat := l / 512

/-- A tag without copies. -/
def l1Fresh (region grain : Nat) : L1Tag :=
  { region := region, grain := grain, states := [], valid := 0, marked := 0, fabric := 0 }

/-- A tag holds a copy of the grain of a place. -/
def l1Holds (t : L1Tag) (l : Nat) : Bool :=
  decide (t.region = regionOf l) && (Table.get Mesi.invalid t.states (l % 512 / t.grain)).has

/-- The sectors of a 512-byte region from byte lo up to, but not including, byte hi, as a set. -/
def sectorSet (lo hi : Nat) : BitVec 16 :=
  BitVec.ofNat 16 (((upTo 16).filter (fun i => decide (lo / 32 ≤ i) && decide (32 * i < hi))).foldl (fun a i => a + 2 ^ i) 0)

/-- The sectors of grain g of a tag. -/
def grainSectors (grain g : Nat) : BitVec 16 := sectorSet (g * grain) (g * grain + grain)

/-- The bytes from a place on, in pieces that lie in one grain each. -/
def grainPieces (grain : Nat) : Nat → Nat → Nat → List (Nat × Nat)
  | 0, _, _ => []
  | fuel + 1, l, n =>
    if n = 0 then []
    else
      let w := min n (grain - l % grain)
      (l, w) :: grainPieces grain fuel (l + w) (n - w)

/-- A grain that a store or an AMO may write (R132). -/
def Mesi.writable : Mesi → Bool
  | .exclusive | .modified => true
  | _ => false

/-- Serve an access within one grain of a core's L1D: the new tags, most recently used first, whether it missed, and
the regions that leave: those beyond the set's 8 ways, and the region itself where it was held at another grain (R133).
A load needs a copy of its grain, a store an exclusive or modified one (R132). Set and way choice: DESIGN CHOICE
log 13. -/
def l1Touch (tags : List L1Tag) (l width grain : Nat) (store : Bool) : List L1Tag × Bool × List Nat :=
  let r := regionOf l
  let o := l % 512
  let old := tags.find? (fun t => t.region = r ∧ t.grain = grain)
  let t := old.getD (l1Fresh r grain)
  let g := o / grain
  let want := sectorSet o (o + width)
  let had := Table.get Mesi.invalid t.states g
  let held := had.has && decide (t.valid &&& want = want)
  let hit := held && (!store || had.writable)
  let line := sectorSet (max (o / 128 * 128) (g * grain)) (min (o / 128 * 128 + 128) (g * grain + grain))
  let st := if store then Mesi.modified else if had.has then had else Mesi.shared
  let t' := { t with states := Table.set t.states g st, valid := t.valid ||| want ||| (if held then 0 else line) }
  let rest := tags.filter (fun u => !decide (u.region = r))
  let inSet := rest.filter (fun u => u.region % 32 = r % 32)
  let gone := (inSet.drop 7).map (·.region)
  (t' :: rest.filter (fun u => !gone.contains u.region), !hit,
   gone ++ (if old.isNone && tags.any (fun u => u.region = r) then [r] else []))

/-- A tag without its copy of grain g: the grain's sectors are no longer valid. -/
def L1Tag.dropGrain (t : L1Tag) (g : Nat) : L1Tag :=
  let bit : BitVec 16 := BitVec.ofNat 16 (2 ^ g)
  { t with states := Table.set t.states g Mesi.invalid, valid := t.valid &&& ~~~(grainSectors t.grain g),
           marked := t.marked &&& ~~~bit, fabric := t.fabric &&& ~~~bit }

/-- Drop the copy of the grain of a place. -/
def l1Drop (tags : List L1Tag) (l : Nat) : List L1Tag :=
  tags.map (fun t => if t.region = regionOf l then t.dropGrain (l % 512 / t.grain) else t)

/-- An exclusive or modified copy of the grain of a place is shared from now on. -/
def l1Share (tags : List L1Tag) (l : Nat) : List L1Tag :=
  tags.map (fun t => if t.region = regionOf l then
    (if (Table.get Mesi.invalid t.states (l % 512 / t.grain)).writable then { t with states := Table.set t.states (l % 512 / t.grain) Mesi.shared } else t)
    else t)

/-- Mark the copy of the grain of a place after a host write, or a fabric write, where a tag holds one (R284). -/
def l1Mark (tags : List L1Tag) (l : Nat) (fabric : Bool) : List L1Tag :=
  tags.map (fun t => if l1Holds t l then
    let b : BitVec 16 := BitVec.ofNat 16 (2 ^ (l % 512 / t.grain))
    if fabric then { t with fabric := t.fabric ||| b } else { t with marked := t.marked ||| b } else t)

/-- The marked grains that an acquire drops (R161, R284). -/
def L1Tag.due (t : L1Tag) (scope : Nat) : List Nat :=
  let m := (if 5 ≤ scope then t.marked else 0) ||| (if 4 ≤ scope then t.fabric else 0)
  (upTo 16).filter (fun g => m.getLsbD g)

/-- An acquire drops the marked grains that its scope covers. -/
def l1Acquire (tags : List L1Tag) (scope : Nat) : List L1Tag :=
  tags.map (fun t => (t.due scope).foldl L1Tag.dropGrain t)

/-! ### The instruction cache (R120, R134, R329): 512 lines of 128 bytes; the least recently used goes (DESIGN CHOICE
log 13) -/

/-- The bytes of a place that the cache holds; none where it does not hold its line. -/
def l1iBytes (c : List (Nat × List Byte)) (l n : Nat) : Option (List Byte) :=
  (c.find? (fun e => e.1 = lineOf l)).map (fun e => (e.2.drop (l % 128)).take n)

/-- The cache after a fetch from a line whose bytes are those. -/
def l1iTouch (c : List (Nat × List Byte)) (line : Nat) (bytes : List Byte) : List (Nat × List Byte) :=
  match c.find? (fun e => e.1 = line) with
  | some e => e :: c.filter (fun x => x.1 ≠ line)
  | none => ((line, bytes) :: c).take 512

/-- A core's instruction cache loses some lines. -/
def l1iDrop (s : State) (core : Nat) (lines : List Nat) : State :=
  let c := s.core core
  if c.l1i.isEmpty then s else s.setCore core { c with l1i := c.l1i.filter (fun e => !lines.contains e.1) }

/-- Every instruction cache loses a line: a leased or owned line that the device gives back. -/
def l1iDropAll (s : State) (line : Nat) : State := (s.cores.map (·.1)).foldl (fun s c => l1iDrop s c [line]) s

/-! ### Notices (R197) -/

/-- Lines of a core are no longer recorded as narrow: their writes have been forced out or written back, or their copies
have gone (R157). -/
def widen (s : State) (core : Nat) (gone : Nat → Bool) : State :=
  if s.narrow.isEmpty then s
  else { s with narrow := s.narrow.map (fun e => if e.1 = core then (e.1, e.2.filter (fun x => !gone x.1)) else e) }

/-- Give a notice to every context that waits at an MWAIT on a word that p names. -/
def notify (s : State) (p : CtxId → Nat → Bool) : State :=
  { s with ctxs := s.ctxs.map (fun e => match e.2.wait with
      | some (.word w false) => if p (CtxId.ofKey e.1) w then (e.1, { e.2 with wait := some (.word w true) }) else e
      | _ => e) }

/-- A core loses its copies of the grains of some places, and the waits on words in them end. -/
def l1Lose (s : State) (core : Nat) (ls : List Nat) : State :=
  let tags := (s.core core).l1d
  if tags.isEmpty then s
  else
    let hit := fun (w : Nat) => ls.any (fun l => tags.any (fun t => l1Holds t l && l1Holds t w
      && decide (l % 512 / t.grain = w % 512 / t.grain) && decide (regionOf l = regionOf w)))
    let s1 := widen (notify s (fun c w => decide (c.core = core) && hit w)) core (ls.map lineOf).contains
    s1.setCore core { s1.core core with l1d := ls.foldl l1Drop tags }

/-- Every core but one loses its copies. -/
def l1LoseOthers (s : State) (keep : Option Nat) (ls : List Nat) : State :=
  (s.cores.map (·.1)).foldl (fun s c => if keep = some c then s else l1Lose s c ls) s

/-! ### The directory's record of local holders (R280, R282) -/

/-- The cores whose L1D holds the grain of a place. -/
def l1Holders (s : State) (l : Nat) : List Nat := (s.cores.filter (fun c => c.2.l1d.any (fun t => l1Holds t l))).map (·.1)

/-- A probe for the grain of a place by a requester of a colour, on the core `keep` where it is one. A precise entry, of
up to three holders, is probed core by core. A coarse one is probed in every core of the marked groups: there the
partition filter answers for each core that does not hold the colour, without touching it, and counts the answer
(R282). -/
def l1Probe (s : State) (colour keep : Option Nat) (l : Nat) : State :=
  let hs := l1Holders s l
  match colour with
  | none => l1LoseOthers s keep [l]
  | some k =>
    if hs.length ≤ 3 then l1LoseOthers s keep [l]
    else (((hs.map (· / 32)).eraseDups).flatMap (fun g => (upTo 32).map (fun i => 32 * g + i))).foldl (fun s c =>
      let d := s.core c
      if keep = some c then s
      else if d.colour = some k then l1Lose s c [l]
      else s.setCore c { d with filtered := d.filtered + 1 }) s

/-- Probes for the grains of some places. -/
def l1Probes (s : State) (colour keep : Option Nat) (ls : List Nat) : State := ls.foldl (fun s l => l1Probe s colour keep l) s

/-- Every other core that holds the grain of a place exclusive or modified shares it from now on: a load needs no more,
and it gets the modified data (R132, R134). -/
def l1ShareOthers (s : State) (keep : Option Nat) (l : Nat) : State :=
  let s1 := (s.cores.map (·.1)).foldl (fun s c => if keep = some c then s else widen s c (fun x => decide (x = lineOf l))) s
  { s1 with cores := s.cores.map (fun c => if keep = some c.1 then c else (c.1, { c.2 with l1d := l1Share c.2.l1d l })) }

/-! ### Entries in use (R281): 12,288 sets of 16 ways in a slice; a line lies in set floor(o / 32,768) mod 12,288, as
R136 has it for the L2 (DESIGN CHOICE log 25) -/

/-- Two places have entries in one set of one slice. -/
def sameDirSet (p q : Nat) : Bool := decide (sliceOf p = sliceOf q) && decide (p / 32768 % 12288 = q / 32768 % 12288)

/-- A line's L2 slice holds it. -/
def inL2 (s : State) (line : Nat) : Bool :=
  !s.slices.isEmpty && (s.slice (sliceOf (line * 128))).sets.any (fun e => e.2.any (fun t => decide (t.line = line)))

/-- A line of another device or of the host is held here, under a lease, as its owner or in the proxy's L2 (R280). -/
def proxyHeld (s : State) (line : Nat) : Bool :=
  decide (homeOfLoc (line * 128) ≠ .local)
    && ((Table.find s.mgmt.leased line).isSome || s.mgmt.owned.contains line || inL2 s line)

/-- The entry of a place still records something: a local holder, another device or the host, or at a proxy slice that this
device holds the line. -/
def dirLive (s : State) (p : Nat) : Bool :=
  s.cores.any (fun c => c.2.l1d.any (fun t => l1Holds t p))
    || (decide (p % 128 = 0) && ((match dirOf s (lineOf p) with | some d => decide (d ≠ DirEntry.empty) | none => false) || proxyHeld s (lineOf p)))

/-- The entries of some places are needed: each is made, or made the most recently used, in turn. -/
def dirTake (s : State) (ps : List Nat) : State := { s with dirDue := s.dirDue ++ ps }

/-- The entry that goes to make room for one of a place: the least recently used of its set, where 16 others are in use. -/
def dirOver (s : State) (p : Nat) : Option Nat :=
  if s.dirUse.length < 16 then none
  else
    let others := s.dirUse.filter (fun q => decide (q ≠ p) && sameDirSet p q && dirLive s q)
    if others.length < 16 then none else others.getLast?

/-- The places under which the directory knows the grain of a place: its sector at grain 32, its line at grain 128, and
its four lines at grain 512, whose entries stay in step (R280). -/
def dirPlaces (l grain : Nat) : List Nat :=
  if grain = 32 then [l / 32 * 32] else if grain = 128 then [l / 128 * 128] else (upTo 4).map (fun i => l / 512 * 512 + 128 * i)

/-! ### Writes published at a narrow scope only (R157, R280) -/

/-- Writes to lines are published at a scope by a core, whose L1D keeps those of a narrow scope. -/
def noteScope (s : State) (core scope : Nat) (lines : List Nat) : State :=
  if 3 ≤ scope then widen s core lines.contains
  else
    let mine := lines.eraseDups.filter (fun l => (s.core core).l1d.any (fun t => (upTo 4).any (fun i => l1Holds t (l * 128 + 32 * i))))
    let old := Table.get [] s.narrow core
    { s with narrow := Table.set s.narrow core (mine.foldl (fun n l => Table.set n l (max scope (Table.get 0 n l))) old) }

/-- Cores a and b lie in one unit of a scope (R149). -/
def oneUnit (scope a b : Nat) : Bool := match scope with
  | 0 => decide (a = b)
  | 1 => decide (a / 4 = b / 4)
  | 2 => decide (a / Config.coresPerDie = b / Config.coresPerDie)
  | _ => true

/-- An acquire by a core, or by a unit of the device that lies in no core's unit, forces out what holders outside its own
unit keep at a narrower scope: which of these releases it synchronises with is not held, so it forces out all of them
(DESIGN CHOICE log 4). -/
def forceOut (s : State) (core : Option Nat) : State :=
  if s.narrow.isEmpty then s
  else { s with narrow := s.narrow.map (fun e => (e.1, e.2.filter (fun x => match core with
    | some c => oneUnit x.2 e.1 c
    | none => false))) }

/-- NSCOPE of a line: the widest of the narrow scopes at which holders keep writes of it; none where no holder does. -/
def narrowScope (s : State) (line : Nat) : Option Nat :=
  s.narrow.foldl (fun w e => match Table.find e.2 line with
    | some n => some (max n (w.getD 0))
    | none => w) none

/-! ### Copies that are dropped -/

/-- The copies of n bytes from a place are dropped from every L1D and from the L2. -/
def dropCopies (s : State) (l n : Nat) : State :=
  let s1 := l1LoseOthers s none ((upTo (n / 32)).map (fun i => l + 32 * i))
  if s1.slices.isEmpty then s1 else ((upTo (n / 128)).map (fun i => l / 128 + i)).foldl l2Discard s1

end Sys2Proof.Machine
end

