-- ==== Sys2Proof/Machine/Fill.lean ====
section
/-! DEFINITION. Procedural ranges: the range table, blocks and their fill states as the device reads them, and what a touch
comes to (R240 to R249, R255). -/

namespace Sys2Proof.Machine

/-! ### Range table entries (R241) -/

def rangeBase (e : BitVec 512) : Nat := bitsOf e 63 0
def rangeLen (e : BitVec 512) : Nat := bitsOf e 127 64
def rangeV (e : BitVec 512) : Bool := bitOf e 133
def rangeBlock (e : BitVec 512) : Nat := 4096 * 4 ^ bitsOf e 135 134
def rangeColour (e : BitVec 512) : Nat := bitsOf e 159 144
def rangeBudget (e : BitVec 512) : Nat := bitsOf e 191 160
def rangeFstab (e : BitVec 512) : Nat := bitsOf e 255 192
def rangeSlotSize (e : BitVec 512) : Nat := bitsOf e 287 256
def rangeSlots (e : BitVec 512) : Nat := bitsOf e 319 304
def rangePool (e : BitVec 512) : Nat := bitsOf e 383 320
def rangeEntry (e : BitVec 512) : Nat := bitsOf e 447 384
def rangeArg (e : BitVec 512) : Nat := bitsOf e 511 448

def State.range (s : State) (n : Nat) : BitVec 512 := Table.get 0 s.fill.ranges n

/-- The entry is a registered range that holds the address. -/
def rangeHolds (e : BitVec 512) (a : Word) : Bool :=
  rangeV e && decide (rangeBase e ≤ a.toNat) && decide (a.toNat < rangeBase e + rangeLen e)

/-- The procedural block that holds an address (R240); any byte of a block names it. -/
def blockAt (s : State) (a : Word) : Option BlockId :=
  (s.fill.ranges.find? (fun r => rangeHolds r.2 a)).map fun r =>
    { range := r.1, block := (a.toNat - rangeBase r.2) / rangeBlock r.2 }

/-- First byte of a block. -/
def blockBase (s : State) (b : BlockId) : Nat :=
  rangeBase (s.range b.range) + b.block * rangeBlock (s.range b.range)

/-! ### Fill states (R244) -/

def FillState.code : FillState → Nat
  | .blank => 0 | .turning => 1 | .filled => 2 | .spoiled => 3
def FillState.ofCode : Nat → FillState
  | 1 => .turning | 2 => .filled | 3 => .spoiled | _ => .blank

/-- The place of the FSTAB byte that holds a block's state, translated in the range's colour. -/
def fstabPlace (s : State) (b : BlockId) : Option Nat :=
  let e := s.range b.range
  devicePlace s 0 (rangeColour e) (BitVec.ofNat 64 (rangeFstab e + b.block / 4))

/-- The fill entry of a TURNING block (R244). -/
def fillOf (s : State) (b : BlockId) : Option Fill := s.fill.fills.find? (fun f => f.blk = b)
/-- The state that the table holds; none where its byte cannot be translated, or lies in a poisoned sector (R146). -/
def tableState (s : State) (b : BlockId) : Option FillState :=
  match fstabPlace s b with
  | some l => if s.sectorBad (sectorOf l) then none
              else some (FillState.ofCode (bitsOf (s.mem.get l) (2 * (b.block % 4) + 1) (2 * (b.block % 4))))
  | none => none

/-- A block's state: one whose byte is still to be written, or that of the table. Where the table cannot be read a block
counts as TURNING while it has a fill entry, and as BLANK else (DESIGN CHOICE log 14). -/
def fillState (s : State) (b : BlockId) : FillState :=
  match s.fill.owed.find? (fun w => w.1 = b) with
  | some w => w.2
  | none => (tableState s b).getD (if (fillOf s b).isSome then .turning else .blank)

/-- The block that a task is the generator of (R254): a task has one at most. -/
def genBlock (s : State) (task : Nat) : Option BlockId :=
  (s.fill.fills.find? (fun f => f.gen = some task)).map (·.blk)
/-- The task is the block's generator and the block is TURNING. -/
def isGenOf (s : State) (task : Nat) (b : BlockId) : Bool :=
  genBlock s task = some b && fillState s b = .turning

/-- The fill chain of a block: itself, its requester's block, and so on up (R255). Depth is at most 3. -/
def fillChain (s : State) : Nat → BlockId → List BlockId
  | 0, b => [b]
  | n + 1, b => b :: (match fillOf s b with
    | some f => (match f.parent with | some p => fillChain s n p | none => [])
    | none => [])

/-- The depth of the fill that a touch by this task would start (R251). -/
def touchDepth (s : State) (task : Nat) : Nat :=
  match genBlock s task with
  | some g => (match fillOf s g with | some f => f.depth + 1 | none => 0)
  | none => 0

/-- The code that a waiter's FILLFAIL record carries; 0 for a later touch (R254). -/
def failCode (s : State) (task : Nat) (b : BlockId) : BitVec 16 :=
  match s.fill.codes.find? (fun c => c.1 = task ∧ c.2.1 = b) with
  | some c => c.2.2
  | none => 0

/-- A load-class access by a task to a block (R245, R246, R255). -/
def touch (s : State) (task : Nat) (b : BlockId) : Touch :=
  match fillState s b with
  | .filled => .served
  | .spoiled => .fails 0 (failCode s task b)
  | .blank => if 4 ≤ touchDepth s task then .fails 1 0 else .parks
  | .turning =>
    if genBlock s task = some b then .served
    else match genBlock s task with
      | some g => if (fillChain s 4 g).contains b then .fails 2 0 else .parks
      | none => .parks

/-! ### Starting fills -/

/-- Blocks of a range that are TURNING or FILLED. -/
def blocksHeld (s : State) (range : Nat) : Nat :=
  (s.fill.fills.filter (fun f => f.blk.range = range)).length
    + (s.fill.filled.filter (fun b => b.range = range)).length

/-- A block that a resumed waiter has still to re-execute against is exempt from eviction (R248). -/
def evictable (s : State) (b : BlockId) : Bool := !(s.fill.exempt.any (fun x => x.2 = b))

/-- The places of a block's pages, translated in its range's colour. -/
def blockPages (s : State) (b : BlockId) : List Nat :=
  (upTo (rangeBlock (s.range b.range) / 4096)).filterMap (fun i =>
    devicePlace s 0 (rangeColour (s.range b.range)) (BitVec.ofNat 64 (blockBase s b + 4096 * i)))

end Sys2Proof.Machine
end

