-- ==== Sys2Proof/Machine/Queue.lean ====
section
/-! DEFINITION. Task headers, the queue segments, the deques, and how a header is routed and queued (R26,
R27, R174 to R179). -/

namespace Sys2Proof.Machine

/-! ### Header fields (R26) -/

abbrev Header := BitVec 512

def hEntry (h : Header) : Nat := bitsOf h 63 0
def hFtop (h : Header) : Nat := bitsOf h 127 64
def hSpill (h : Header) : Nat := bitsOf h 191 128
def hCscope (h : Header) : Nat := bitsOf h 202 200
def hSup (h : Header) : Bool := bitOf h 204
def hAtom (h : Header) : Bool := bitOf h 205
def hPrio (h : Header) : Nat := bitsOf h 207 206
def hAff (h : Header) : Nat := bitsOf h 223 208
def hSkey (h : Header) : Nat := bitsOf h 255 224
def hCtgt (h : Header) : Nat := bitsOf h 312 256
def hCkind (h : Header) : Nat := bitsOf h 319 318
def hArg (h : Header) (i : Nat) : Nat := bitsOf h (383 + 64 * i) (320 + 64 * i)

/-- An address that is sign-extended from bit 56. -/
def canonical (a : Nat) : Bool := decide (gva (BitVec.ofNat 64 a) = BitVec.ofNat 64 a)

/-- A malformed header (R27). -/
def malformed (h : Header) : Bool :=
  decide (bitsOf h 317 313 ≠ 0) || bitOf h 203 || decide (bitsOf h 199 192 ≠ 0)
  || (match hCkind h with
      | 0 => decide (hCtgt h ≠ 0)
      | 1 => decide (bitsOf h 312 273 ≠ 0)
      | 2 => decide (hCtgt h % 32 ≠ 0)
      | _ => true)
  || decide (6 ≤ hCscope h)
  || decide (hEntry h % 4 ≠ 0) || decide (hFtop h % 16 ≠ 0) || decide (hSpill h % 256 ≠ 0)
  || !canonical (hEntry h) || !canonical (hFtop h) || !canonical (hSpill h)

/-! ### Routing -/

/-- SEGMAP, the identity after reset (R174). -/
def segmap (s : State) (n : Nat) : Nat := Table.get n s.sched.segmap n % 256

/-- The compute die to which a slice is home (R174). -/
def homeDie (slice : Nat) : Nat := slice / 32
/-- The compute die of a core (R1). -/
def dieOf (core : Nat) : Nat := core / Config.coresPerDie

/-- Where a header goes (R174, R179). core: the core that issues it, none where no core does. -/
def route (s : State) (h : Header) (core : Option Nat) : Route :=
  if hAff h = 0xFFFF ∧ hPrio h < 3 then
    match core with
    | some c =>
      if (s.core c).deque.length < 32 then .deque c
      else .segment (segmap s (32 * dieOf c + c % Config.coresPerDie % 32))
    | none => .spread (segmap s (s.sched.spread % 256))
  else .segment (segmap s ((hAff h / 256) ^^^ (hAff h % 256)))

/-! ### Segments -/

/-- Room for a header of a priority in a segment's storage (R176). -/
def segRoom (g : Seg) (prio : Nat) : Bool :=
  decide (g.entries.length < 6144)
  && (decide (prio = 3) || decide ((g.entries.filter (fun e => hPrio e.header < 3)).length < 5760))

/-- A new arrival at a segment (R175). -/
def segPush (g : Seg) (h : Header) (colour launch : Nat) (gen : Option BlockId) (withheld : List BlockId) : Seg :=
  let p := hPrio h
  let n := Table.get 0 g.next p
  { g with entries := g.entries ++ [{ header := h, colour := colour, arrival := n, run := false, task := none,
                                      gen := gen, launch := launch, withheld := withheld }],
           next := Table.set g.next p (n + 1) }

/-! ### Ring mode (R178) -/

def ringBase (d : BitVec 256) : Nat := bitsOf d 63 0
def ringLog (d : BitVec 256) : Nat := bitsOf d 71 64
def ringHead (d : BitVec 256) : Nat := bitsOf d 159 128
def ringTail (d : BitVec 256) : Nat := bitsOf d 191 160
/-- Entries in a ring: TAIL − HEAD modulo 2^32. -/
def ringCount (d : BitVec 256) : Nat := (ringTail d + 2 ^ 32 - ringHead d) % 2 ^ 32

/-- The ring descriptor of a home segment. -/
def ringDesc (s : State) (slice : Nat) : BitVec 256 := Table.get 0 (s.die (homeDie slice)).ringDesc (slice % 32)
/-- The segment's die runs in ring mode. -/
def inRingMode (s : State) (slice : Nat) : Bool := (s.die (homeDie slice)).ringMode

/-- Room in a ring: all of it for priority 3, N − N/16 for the others. -/
def ringRoom (d : BitVec 256) (prio : Nat) : Bool :=
  let n := 2 ^ ringLog d
  decide (ringCount d < (if prio = 3 then n else n - n / 16))

/-! ### Copies of headers -/

/-- Change the copy that belongs to a task, wherever it lies (R174, R176). -/
def onCopy (s : State) (task : Nat) (f : QEntry → QEntry) : State :=
  let one := fun (e : QEntry) => if e.task = some task then f e else e
  match (s.taskAt task).origin with
  | .segment n => s.setSeg n { s.seg n with entries := (s.seg n).entries.map one }
  | .deque c => s.setCore c { s.core c with deque := (s.core c).deque.map one, copies := (s.core c).copies.map one }
  | _ => s

/-- The copy of a task that goes on lies outside the 32 of its deque while it is dispatched (R174). -/
def takeOut (s : State) (task : Nat) : State :=
  match (s.taskAt task).origin with
  | .deque c =>
    let k := s.core c
    let mine := fun (e : QEntry) => decide (e.task = some task)
    s.setCore c { k with deque := k.deque.filter (fun e => !mine e), copies := k.copies ++ k.deque.filter mine }
  | _ => s

/-- Drop the copy of a task that is done (R176). -/
def dropCopy (s : State) (task : Nat) : State :=
  let keep := fun (e : QEntry) => !decide (e.task = some task)
  match (s.taskAt task).origin with
  | .segment n => s.setSeg n { s.seg n with entries := (s.seg n).entries.filter keep }
  | .deque c =>
    s.setCore c { s.core c with deque := (s.core c).deque.filter keep, copies := (s.core c).copies.filter keep }
  | _ => s

/-- Return a copy to dispatch: in its segment it competes from its old place, and to the oldest end of the
deque that it was taken from (R174, R176). A deque that has filled meanwhile takes it as well and then holds more than
32 entries (DESIGN CHOICE log 71). run: its task is still bound to it and parked (R173). -/
def returnCopy (s : State) (task : Nat) (run : Bool) (withheld : List BlockId) : State :=
  let back := fun (e : QEntry) => { e with run := run, withheld := withheld }
  match (s.taskAt task).origin with
  | .segment _ => onCopy s task back
  | .deque c =>
    let k := s.core c
    let mine := (k.copies.filter (fun e => e.task = some task)).map back
    s.setCore c { k with deque := mine ++ k.deque, copies := k.copies.filter (fun e => !decide (e.task = some task)) }
  | _ => s

end Sys2Proof.Machine
end

