-- ==== Sys2Proof/Machine/Mem.lean ====
section
/-! DEFINITION. How writes act on memory and on the agents that watch it: signatures and aborts of atomic
tasks (R32, R33), poison (R146), publication (R152) and boundaries (R148 to R150). -/

namespace Sys2Proof.Machine

/-! ### Counters -/

/-- Raise by n the counters of a task that select an event (R90). -/
def countEvent (s : State) (task ev n : Nat) : State :=
  if n = 0 then s
  else
    let t := s.taskAt task
    let up := fun (p : Table Word) (c : Nat × Word) =>
      if c.2.toNat % 256 = ev then Table.set p c.1 (Table.get 0 p c.1 + BitVec.ofNat 64 n) else p
    s.setTask task { t with pcnt := t.pcsel.foldl up t.pcnt }

/-! ### Leaving a partition -/

/-- Empty both context slots of a partition; it holds no task (R24). -/
def releasePartition (s : State) (core part : Nat) : State :=
  let s1 := (s.setCtx { core := core, part := part, tail := false } Ctx.empty).setCtx
    { core := core, part := part, tail := true } Ctx.empty
  s1.setPartAt core part { s1.partAt core part with task := none, tfg := Tfg.zero }

/-- An atomic task returns to queued from its unchanged header; its registers and tentative stores are
discarded (R33, R35). withheld: blocks that must leave TURNING first. -/
def abortTask (s : State) (id : Nat) (withheld : List BlockId) : State :=
  let t := s.taskAt id
  let s1 := releasePartition s t.core t.part
  let s2 := s1.setTask id { t with state := .queued, reads := [], writes := [], others := [], held := [], waitsOn := withheld }
  returnCopy s2 id false withheld

/-- Sectors that a signature covers: what the task touched, and what a false match reports (R32). -/
def sigHit (s : State) (sig : List Nat) (sectors : List Nat) : Bool :=
  sectors.any (fun x => sig.contains x || Config.sigFalse x s.freeCnt)

/-- A running atomic task, other than the writer's. -/
def isVictim (writer : Nat) (e : Nat × Task) : Bool :=
  e.2.atomic && e.2.live && !decide (e.1 = writer)

/-- Published writes of some sectors meet the running atomic tasks of other writers (R33). -/
def meetAtomics (s : State) (writer : Nat) (sectors : List Nat) : State :=
  let victims := s.tasks.filter (isVictim writer)
  if victims.isEmpty then s
  else
    let s1 := victims.foldl (fun s e => s.setTask e.1 { s.taskAt e.1 with others := (s.taskAt e.1).others ++ sectors }) s
    victims.foldl (fun s e => if sigHit s e.2.reads sectors then abortTask s e.1 [] else s) s1

/-! ### Writes that take effect in memory -/

/-- Bytes that a set of writes gives to one sector. -/
def bytesIn (bytes : Table Byte) (sector : Nat) : Nat := (bytes.filter (fun b => sectorOf b.1 = sector)).length

/-- The line's owner was lost: every request for it fails until it is reclaimed (R291). -/
def ownerGone (s : State) (line : Nat) : Bool := match dirOf s line with
  | some d => d.olost
  | none => false

/-- The writes that poison lets through: those of a whole sector, and those of sectors that are not
poisoned (R146). -/
def admitted (s : State) (bytes : Table Byte) : Table Byte :=
  bytes.filter (fun b => (!s.sectorBad (sectorOf b.1) || decide (bytesIn bytes (sectorOf b.1) = 32)) && !ownerGone s (lineOf b.1))

/-- The distinct sectors of some writes. -/
def sectorsOf (bytes : Table Byte) : List Nat := (bytes.map (fun b => sectorOf b.1)).eraseDups

/-! ### Events that a slice counts (R141) -/

/-! The event counters of a slice by their numbers in the order of R297, after lines by code and sectors in use. -/
def counterTag : Nat := 7
def counterSector : Nat := 8
def counterExpansion : Nat := 9
def counterSoft : Nat := 10
def counterPoisoned : Nat := 11
def counterRefused : Nat := 12

/-- Raise an event counter of a slice. -/
def Slice.bump (d : Slice) (i n : Nat) : Slice :=
  if n = 0 then d else { d with count := Table.set d.count i (Table.get 0 d.count i + n) }

/-- Count an event at the slice of a line. -/
def countAt (s : State) (line i n : Nat) : State :=
  let k := sliceOf (line * 128)
  if n = 0 then s else s.setSlice k ((s.slice k).bump i n)

/-- Poison sectors of a line, which its slice stores RAW from then on; they are counted (R138, R147). The slice takes that as
a write access of the line, which allocates it and leaves it dirty (DESIGN CHOICE log 20). -/
def poisonSectors (s : State) (line : Nat) (sectors : List Nat) : State :=
  let new := sectors.filter (fun x => !s.poison.contains x)
  let s1 := { s with poison := s.poison ++ new, badCheck := s.badCheck.filter (fun x => !sectors.contains x) }
  match homeOfLoc (line * 128) with
  | .scratch _ => s1
  | _ => toL2 (countAt s1 line counterPoisoned new.length) [line] true

/-- A check value is verified at a place: a mismatch sets the sector's poison bit (R146). -/
def verifyAt (s : State) (l : Nat) : State :=
  if s.badCheck.contains (sectorOf l) then poisonSectors s (lineOf l) [sectorOf l] else s

/-- Whether a line's latest store was through a CACHE 10 path (R135). -/
def notePathAt (s : State) (cache : BitVec 2) (lines : List Nat) : State :=
  if cache = 2 then { s with uncached := s.uncached ++ lines.eraseDups.filter (fun l => !s.uncached.contains l) }
  else if s.uncached.isEmpty then s
  else { s with uncached := s.uncached.filter (fun l => !lines.contains l) }

/-- The home is another device. -/
def isPeer : Home → Bool
  | .peer _ => true
  | _ => false

/-- This device owns lines of another device (R290). -/
def takeLines (s : State) (lines : List Nat) : State :=
  let new := (lines.filter (fun l => !s.mgmt.owned.contains l)).eraseDups
  if new.isEmpty then s
  else { s with mgmt := { s.mgmt with owned := s.mgmt.owned ++ new, leased := s.mgmt.leased.filter (fun e => !new.contains e.1) } }

/-- A read of a CACHE 00 line of another device takes a lease (R287); a store or AMO takes the line in exclusive ownership
(R290). An unsynchronised device caches no remote line that it reads (R289). -/
def noteRemote (s : State) (t : Target) (store : Bool) (line : Nat) : State :=
  if !isPeer t.home || decide (t.cache ≠ 0) || s.mgmt.owned.contains line then s
  else if !store then s.takeLease line
  else takeLines s [line]

/-- The lines that n bytes from a place touch. -/
def linesOf (l n : Nat) : List Nat := (upTo (lineOf (l + n - 1) + 1 - lineOf l)).map (· + lineOf l)

/-- CACHE of the path of a store, as the slices here see it: a store to another device that does not take its line goes to
that home past every cache of this device (R135, R290). -/
def pathOf (t : Target) : BitVec 2 := if isPeer t.home && decide (t.cache ≠ 0) then 2 else t.cache

/-- What an access of n bytes leaves behind at the home and the proxy slices: the path of a store (R135), and leases and
ownership of lines of another device. -/
def noteLines (s : State) (t : Target) (n : Nat) (store : Bool) : State :=
  let ls := linesOf t.loc n
  ls.foldl (fun s line => noteRemote s t store line) (if store then notePathAt s (pathOf t) ls else s)

/-- The page-table entries that a walk for an address reads are verified (R146, R293), and their lines fetched under
leases. -/
def noteWalk (s : State) (core colour : Nat) (a : Word) : State :=
  let ls := walked s core colour a
  if ls.isEmpty then s
  else
    let s1 := ls.foldl verifyAt s
    toL2 (ls.foldl (fun s l => if peerLine (lineOf l) then s.takeLease (lineOf l) else s) s1) (ls.map lineOf) false

/-- What a write of n bytes in one page by a unit of the device leaves behind beside the bytes: its walk, its path, and
ownership of lines of another device. -/
def noteStore (s : State) (core colour : Nat) (a : Word) (n : Nat) : State :=
  if inWindow a then s
  else
    let s1 := noteWalk s core colour a
    match deviceTarget s1 core colour a with
    | some t => noteLines s1 t n true
    | none => s1

/-- What the commit unit has written and not published, after other writes of some of its bytes, which come later in their
coherence orders. -/
def overBlends (t : Table (Table Byte)) (bytes : Table Byte) : Table (Table Byte) :=
  if t.isEmpty then [] else t.map (fun e => (e.1, e.2.filter (fun b => !bytes.any (fun w => decide (w.1 = b.1)))))

/-- Writes of one agent take effect and are published: memory changes, whole sectors lose their poison, a
partial write of a poisoned sector is refused and counted, other copies are invalidated, waits end, and
atomic tasks that have read the sectors abort. Lines of another device that have been given up since are owned again
(R290), and the core's instruction cache keeps no older code than its own stores (R329). colour: that of the requester, which the partition filter sees (R282);
core: the core whose L1D made the writes; writer: the TASKID, 0 for an agent that is no task. -/
def land (s : State) (colour core : Option Nat) (writer : Nat) (bytes : Table Byte) : State :=
  let ok := admitted s bytes
  let ss := sectorsOf ok
  let s0 := takeLines s ((ss.map (· / 4)).filter (fun l => peerLine l && !s.uncached.contains l))
  let s1 := { s0 with mem := ok.foldl (fun m b => m.set b.1 b.2) s0.mem,
                      poison := s0.poison.filter (fun p => !ss.contains p),
                      badCheck := s0.badCheck.filter (fun p => !ss.contains p), blends := overBlends s0.blends ok }
  let s2 := l1Probes (match core with | some c => l1iDrop s1 c (ss.map (· / 4)) | none => s1) colour core (ss.map (· * 32))
  let s3 := notify s2 (fun _ w => ok.any (fun b => decide (w ≤ b.1) && decide (b.1 < w + 4)))
  meetAtomics (toL2 s3 (ss.map (· / 4)) true) writer ss

/-- The writes of n bytes at a place. -/
def tableAt (l : Nat) : List Byte → Table Byte
  | [] => []
  | b :: bs => (l, b) :: tableAt (l + 1) bs

/-- Writes laid over earlier writes. -/
def overlay (t : Table Byte) (new : Table Byte) : Table Byte := new.foldl (fun t b => Table.set t b.1 b.2) t

/-! ### Reads -/

/-- A byte as an agent sees it: its own unpublished write, or the newest published value. The spec lets a
read return an older value in places; the model's never does (DESIGN CHOICE log 4). -/
def seenByte (s : State) (pend : Table Byte) (l : Nat) : Byte := (Table.find pend l).getD (s.mem.get l)

/-- n bytes from a place as an agent sees them. -/
def seen (s : State) (pend : Table Byte) (l : Nat) : Nat → List Byte
  | 0 => []
  | n + 1 => seenByte s pend l :: seen s pend (l + 1) n

/-- Sectors of a set of writes of which the write is refused, since they are poisoned and only part of them is written, are
counted at their slices (R141, R146). -/
def countRefusals (s : State) (bytes : Table Byte) : State :=
  ((sectorsOf bytes).filter (fun x => s.sectorBad x && decide (bytesIn bytes x ≠ 32) && !ownerGone s (x / 4))).foldl
    (fun s x => match homeOfLoc (x * 32) with
      | .scratch _ => s
      | _ => countAt s (x / 4) counterRefused 1) s

/-! ### Boundaries (R148 to R150) -/

/-- A line that a write must wait for: another device holds it under a lease or owns it, or the host caches
it (R162, R284, R290). -/
def lineHeld (s : State) (line : Nat) : Bool :=
  match dirOf s line with
  | some d => decide (0 < d.nlease) || (d.rown && !d.olost) || d.hostc
  | none => false

/-- The home asks those who hold a line: an owner is snooped, and the host gets a back-invalidation snoop (R284,
R290). -/
def askHolders (s : State) (line : Nat) : State :=
  match dirOf s line with
  | none => s
  | some d =>
    let n := sliceOf (line * 128)
    let s1 := if d.rown && d.snoopAt.isNone then
        s.setSlice n { s.slice n with dir := Table.set (s.slice n).dir line { d with snoopAt := some s.time } }
      else s
    if d.hostc && !s1.mgmt.hostPending.contains line then
      { s1 with mgmt := { s1.mgmt with hostPending := s1.mgmt.hostPending ++ [line] } }
    else s1

/-- Those who hold a line have all been asked for it. -/
def asked (s : State) (line : Nat) : Bool := match dirOf s line with
  | some d => (!d.rown || d.olost || d.snoopAt.isSome) && (!d.hostc || s.mgmt.hostPending.contains line)
  | none => true

/-- Some agent has made a write to a line that it has not published: a context, a request of an engine, one whose
completion is still to be written, or the commit unit (R152). -/
def unpublished (s : State) (line : Nat) : Bool :=
  let on := fun (p : Table Byte) => p.any (fun b => decide (lineOf b.1 = line))
  s.ctxs.any (fun e => on e.2.pend) || s.blends.any (fun e => on e.2) || s.sched.due.any (fun d => on d.pend)
    || s.clusters.any (fun u => u.2.aside.any (fun a => on a.msg.pend) || u.2.inbox.any (fun q => q.2.any (fun m => on m.pend)))

/-- The context has unpublished writes to such a line, so a release of it cannot complete yet. -/
def releaseHeld (s : State) (c : CtxId) : Bool :=
  !(s.slices.isEmpty) && !(match (s.partAt c.core c.part).task with | some id => (s.taskAt id).atomic | none => false)
    && (s.ctx c).pend.any (fun b => lineHeld s (lineOf b.1))

/-- The writes of a colour to the scratchpad of another core that has lost the colour since they were made fall out: they go
to what the bell has saved of that core (R272, R273). The state, and the other writes. -/
def fallOut (s : State) (colour core : Nat) (bytes : Table Byte) : State × Table Byte :=
  let away := fun (b : Nat × Byte) => match homeOfLoc b.1 with
    | .scratch c => decide (c ≠ core) && decide ((s.core c).colour ≠ some colour)
    | _ => false
  let out := bytes.filter away
  if out.isEmpty then (s, bytes)
  else
    let lay := fun (v : Saved) => (out.filter (fun b => match homeOfLoc b.1 with
      | .scratch c => (Table.find v.cores c).isSome
      | _ => false)).foldl (fun m b => Memory.set m b.1 b.2) v.spads
    ({ s with saved := s.saved.map (fun v => if v.colour = colour then { v with spads := lay v } else v) }, bytes.filter (fun b => !away b))

/-- A release by a context at a scope: its plain stores are published (R152), and the directory knows which of their
lines are published at a narrow scope only (R157). A store to part of a sector that has been poisoned since it was made is
refused and counted (R146; DESIGN CHOICE log 59). An atomic task's stores wait for its commit (R158). -/
def release (s : State) (c : CtxId) (scope : Nat := 3) : State :=
  let t := (s.partAt c.core c.part).task
  if (match t with | some id => (s.taskAt id).atomic | none => false) then s
  else
    let k := s.ctx c
    if k.pend.isEmpty then s
    else
      let colour := t.map (fun id => (s.taskAt id).colour)
      let s0 := s.setCtx c { k with pend := [] }
      let (s1, mine) := match colour with
        | some n => fallOut s0 n c.core k.pend
        | none => (s0, k.pend)
      noteScope (land (countRefusals s1 mine) colour (some c.core) (t.getD 0) mine) c.core scope (mine.map (fun b => lineOf b.1))

/-- An acquire by a context of a core at a scope (R161). What it obliges reads to return they return already. It drops
marked grains, which ends an MWAIT on a word of one (R197). -/
def acquire (s : State) (core scope : Nat) : State :=
  let s0 := forceOut s (some core)
  if scope < 4 then s0
  else
    let tags := (s0.core core).l1d
    let drops := fun (w : Nat) => tags.any (fun t => l1Holds t w && (t.due scope).contains (w % 512 / t.grain))
    let s1 := notify s0 (fun c w => decide (c.core = core) && drops w)
    s1.setCore core { s1.core core with l1d := l1Acquire tags scope }

/-- A release waits while it cannot complete: that stalls the context, which is running, not waiting (R346). It raises no
exception: a store that cannot be made has faulted itself. -/
def releaseReady (s : State) (c : CtxId) : Except Halt Unit := if releaseHeld s c then .error (.wait .lines) else .ok ()

end Sys2Proof.Machine
end

