-- ==== Sys2Proof/Machine/Turning.lean ====
section
/-! DEFINITION. The fill unit writes fill states, discards blocks and starts fills (R244, R245, R247, R249, R256). -/

namespace Sys2Proof.Machine

/-! ### Fill states are written (R244) -/

/-- The fill unit writes a block's state to its byte of the table, a write of an engine like any other: it leaves no copy in
an L1D, ends waits, meets atomic tasks, and is refused in a poisoned sector (R33, R134, R146, R197). -/
def writeFillState (s : State) (b : BlockId) (st : FillState) : State :=
  match fstabPlace s b with
  | none => s
  | some l =>
    let e := s.range b.range
    let s1 := verifyAt (noteStore s 0 (rangeColour e) (BitVec.ofNat 64 (rangeFstab e + b.block / 4)) 1) l
    let new : Table Byte := [(l, putBits (s.mem.get l) (2 * (b.block % 4) + 1) (2 * (b.block % 4)) st.code)]
    land (countRefusals s1 new) none none 0 new

/-- A block's state changes. The table follows at once, or where another device or the host holds the byte's line, once they
have given it back (R284, R288). -/
def setFillState (s : State) (b : BlockId) (st : FillState) : State :=
  let rest := s.fill.owed.filter (fun w => w.1 ≠ b)
  match fstabPlace s b with
  | some l =>
    if lineHeld s (lineOf l) then askHolders { s with fill := { s.fill with owed := rest ++ [(b, st)] } } (lineOf l)
    else writeFillState { s with fill := { s.fill with owed := rest } } b st
  | none => { s with fill := { s.fill with owed := rest } }

/-- A byte of a table that was owed and can be written now, or whose holders are to be asked. -/
def owedStep (s : State) : Option State := s.fill.owed.findSome? (fun w =>
  match fstabPlace s w.1 with
  | some l => if lineHeld s (lineOf l) && asked s (lineOf l) then none else some (setFillState s w.1 w.2)
  | none => some (setFillState s w.1 w.2))

/-! ### Blocks are discarded, and fills start -/

/-- Discard a block: its L1D copies and L2 lines go, and it is BLANK (R256). Its bytes are then undefined,
and no load returns them (R244). -/
def discardBlock (s : State) (b : BlockId) : State :=
  let s0 := (blockPages s b).foldl (fun s l => dropCopies s l 4096) s
  let s1 := setFillState s0 b .blank
  { s1 with fill := { s1.fill with filled := s1.fill.filled.filter (fun x => x ≠ b) } }

/-- Make a fill entry for a BLANK block, with its first waiter. -/
def makeFill (s : State) (b : BlockId) (w : Waiter) (depth : Nat) (parent : Option BlockId) : State :=
  let s1 := setFillState s b .turning
  { s1 with fill := { s1.fill with fills := s1.fill.fills ++
      [{ blk := b, gen := none, slot := none, depth := depth, parent := parent, waiters := [w] }] } }

/-- Join the waiter list of a TURNING block, one entry for each requester (R247). -/
def joinFill (s : State) (b : BlockId) (w : Waiter) : State :=
  { s with fill := { s.fill with fills := s.fill.fills.map (fun f =>
      if f.blk = b then (if f.waiters.contains w then f else { f with waiters := f.waiters ++ [w] }) else f) } }

/-- A parked requester's request for a block: it starts or joins the fill; none where it must retry after
back-off (R245, R249, R256). A block that has left TURNING meanwhile needs nothing. -/
def request (s : State) (b : BlockId) (w : Waiter) (task : Nat) : Option State :=
  match fillState s b with
  | .filled | .spoiled => some s
  | .turning =>
    match fillOf s b with
    | some f => if f.waiters.length < 64 ∨ f.waiters.contains w then some (joinFill s b w) else none
    | none => some s
  | .blank =>
    let budget := rangeBudget (s.range b.range)
    let startFill := fun (t : State) => makeFill t b w (touchDepth t task) (genBlock t task)
    if 4096 ≤ s.fill.fills.length then none
    else if budget = 0 ∨ blocksHeld s b.range < budget then some (startFill s)
    else match s.fill.filled.find? (fun x => x.range = b.range ∧ evictable s x) with
      | some victim =>
        let s1 := discardBlock s victim
        let ev := Table.set s1.fill.evictions b.range (Table.get 0 s1.fill.evictions b.range + 1)
        some (startFill { s1 with fill := { s1.fill with evictions := ev } })
      | none => none

end Sys2Proof.Machine
end

