-- ==== Sys2Proof/Machine/Ring.lean ====
section
/-! DEFINITION. Queueing a header: in a deque, in a segment, or in ring mode as a write to memory (R174, R176, R178,
R179). -/

namespace Sys2Proof.Machine

/-! ### Rings (R178) -/

/-- The position of a ring's entry among those of its die. -/
def ringKey (slice i : Nat) : Nat := slice % 32 * 2 ^ 32 + i % 2 ^ 32

/-- The address of a ring's slot at a position. -/
def ringAddr (d : BitVec 256) (i : Nat) : Word := BitVec.ofNat 64 (ringBase d + 64 * (i % 2 ^ ringLog d))

/-- The place of the slot at TAIL, translated in a colour (DESIGN CHOICE log 15); none where it cannot be translated, or
while another device or the host holds its line (R162). -/
def ringSlot (s : State) (slice colour : Nat) : Option Nat :=
  match devicePlace s 0 colour (ringAddr (ringDesc s slice) (ringTail (ringDesc s slice))) with
  | some l => if lineHeld s (lineOf l) then none else some l
  | none => none

/-- Claim the slot at TAIL and write the header there, as one step, as a unit of the device writes (R286, R290, R293). The controller keeps what belongs to the entry beside
the header: its colour, launch and generated block. -/
def ringPush (s : State) (slice : Nat) (h : Header) (colour launch : Nat) (gen : Option BlockId) : State :=
  match ringSlot s slice colour with
  | none => s
  | some l =>
    let i := ringTail (ringDesc s slice)
    let new := tableAt l (bytesOf 64 h.toNat)
    let s1 := land (countRefusals (noteStore s 0 colour (ringAddr (ringDesc s slice) i) 64) new) (some colour) none 0 new
    let die := s1.die (homeDie slice)
    s1.setDie (homeDie slice) { die with
      ringDesc := Table.set die.ringDesc (slice % 32) (putBits (ringDesc s1 slice) 191 160 (i + 1)),
      ringInfo := Table.set die.ringInfo (ringKey slice i) { colour := colour, launch := launch, gen := gen } }

/-! ### Queueing a header -/

/-- A segment has room for a header of a colour (R176, R178). -/
def sliceRoom (s : State) (slice prio colour : Nat) : Bool :=
  if inRingMode s slice then ringRoom (ringDesc s slice) prio && (ringSlot s slice colour).isSome else segRoom (s.seg slice) prio

/-- Place a header in a segment that has room. -/
def sliceEnqueue (s : State) (slice : Nat) (h : Header) (colour launch : Nat) (gen : Option BlockId) : State :=
  if inRingMode s slice then ringPush s slice h colour launch gen
  else s.setSeg slice (segPush (s.seg slice) h colour launch gen [])

/-- There is room where the header is routed (R176, R179). -/
def queueRoom (s : State) (h : Header) (colour : Nat) (core : Option Nat) : Bool :=
  match route s h core with
  | .deque _ => true
  | .segment n | .spread n => sliceRoom s n (hPrio h) colour

/-- Queue a header where it is routed; it must have room there. -/
def enqueue (s : State) (h : Header) (colour launch : Nat) (gen : Option BlockId) (core : Option Nat) : State :=
  match route s h core with
  | .deque c =>
    let k := s.core c
    s.setCore c { k with deque := k.deque ++ [{ header := h, colour := colour, arrival := 0, run := false,
                                                 task := none, gen := gen, launch := launch, withheld := [] }] }
  | .segment n => sliceEnqueue s n h colour launch gen
  | .spread n =>
    let s1 := sliceEnqueue s n h colour launch gen
    { s1 with sched := { s1.sched with spread := s1.sched.spread + 1 } }

/-- The line that keeps a ring slot from being written, where one does. -/
def ringHeldLine (s : State) (h : Header) (colour : Nat) (core : Option Nat) : Option Nat :=
  let line := fun (n : Nat) =>
    if !inRingMode s n then none
    else match devicePlace s 0 colour (ringAddr (ringDesc s n) (ringTail (ringDesc s n))) with
      | some l => if lineHeld s (lineOf l) then some (lineOf l) else none
      | none => none
  match route s h core with
  | .deque _ => none
  | .segment n | .spread n => line n

end Sys2Proof.Machine
end

