-- ==== Sys2Proof/Machine/Access.lean ====
section
/-! DEFINITION. One access: how its address is formed (R12, R95), its checks in the order of R264, and how a
context reads and writes the place that it reaches. -/

namespace Sys2Proof.Machine

/-! ### Who accesses -/

/-- The acting context as the maker of an access. Its stores meet the guard of its frame in the main
context while TFG.ARMED is 1 (R60). -/
def State.who (s : State) : Who :=
  let t := s.task
  { core := s.turn.core, colour := t.colour, smode := t.smode, atomic := t.atomic, task := s.taskId, pool := t.pool,
    poolCnt := t.poolCnt, frame := if !s.turn.tail && s.part.tfg.armed then some s.part.tfg else none,
    pend := s.me.pend, key := none }

/-! ### The checks of one access -/

def AccKind.isStore : AccKind → Bool
  | .store | .amo | .spill => true
  | _ => false

/-- DETAIL of PAGE and PERM by access class (R262). -/
def AccKind.detail : AccKind → Nat
  | .load => 0 | .store => 1 | .amo => 1 | .fetch => 2 | .spill => 3

/-- A fault of this access. -/
def Acc.fault (a : Acc) (c : Cause) (detail : Nat) : Halt := .trap (trapAt c detail a.elem a.ea)

/-- POISON of this access: all that it reads is verified. -/
def Acc.poisoned (a : Acc) (detail : Nat) : Halt := .trap { trapAt .poison detail a.elem a.ea with span := a.width }

/-- The access's class is one that the record's ACCESS permits (R95). -/
def Acc.permitted (a : Acc) : Bool :=
  match a.kind with
  | .load => a.access.getLsbD 0
  | .store => a.access.getLsbD 1
  | .amo => a.access.getLsbD 0 && a.access.getLsbD 1
  | _ => true

/-- Some byte of the access lies in the guarded frame, compared as signed 57-bit values: an empty frame has none (R60). -/
def Acc.meetsFrame (a : Acc) (t : Tfg) : Bool :=
  let lo := signNat a.ea.toNat 57
  let base := signNat (t.base.toNat * 16) 57
  let limit := signNat (t.limit.toNat * 16) 57
  decide (base < limit) && decide (base < lo + a.width) && decide (lo < limit)

/-- FRAMEINUSE applies. -/
def frameInUse (w : Who) (a : Acc) : Bool :=
  a.guarded && (match w.frame with | some t => a.meetsFrame t | none => false)

/-- A store-class access that may not write the barrier-slot area: all but the scalar stores and AMOs of 4
or 8 bytes, naturally aligned (R124). -/
def slotRefused (a : Acc) (o : Nat) : Bool :=
  a.kind.isStore && touchesSlots o a.width
    && !(a.scalar && (decide (a.width = 4) || decide (a.width = 8)) && decide (o % a.width = 0))

/-- The access's checks in the local window after BOUNDS and FRAMEINUSE: CONTAIN, PERM, ATOMIRREV (R122,
R124, R95, R187, R188, R311). -/
def checkWindow (s : State) (w : Who) (a : Acc) (core o : Nat) : Except Halt Target :=
  let k := s.core core
  if w.key.isNone && decide (core ≠ w.core) && decide (k.colour ≠ some w.colour) then .error (a.fault .contain 2)
  else if w.key.isSome && decide (k.colour ≠ some w.colour) then .error (a.fault .contain 1)
  else if (match w.key with | some key => decide (key ≠ k.pkey) | none => false) then .error (a.fault .contain 0)
  else if slotRefused a o then .error (a.fault .perm 6)
  else if !a.permitted || decide (a.cacheBy = some 3) then .error (a.fault .perm a.kind.detail)
  else if w.atomic then .error (a.fault .atomirrev 1)
  else .ok { loc := scratchLoc core o, home := .scratch core, cache := 0, grain := 512, fill := none, tlb := none }

/-- A store-class access reaches the task's own pool (R94, R420). -/
def inPool (w : Who) (a : Acc) : Bool :=
  a.kind.isStore && decide (0 < w.poolCnt) && decide (w.pool.toNat < a.ea.toNat + a.width)
    && decide (a.ea.toNat < w.pool.toNat + 32 * w.poolCnt)

/-- PERM on a leaf (R275, R95, R54): its DETAIL, or none where the access is permitted. -/
def leafPerm (w : Who) (a : Acc) (leaf : Word) : Option Nat :=
  if inPool w a then some 6
  else if a.kind.isStore && !bitOf leaf 1 then some a.kind.detail
  else if decide (a.kind = .fetch) && (!bitOf leaf 2 || bitOf leaf 8) then some 2
  else if !w.smode && !bitOf leaf 3 then some a.kind.detail
  else if !a.permitted || decide (a.cacheBy = some 3) then some a.kind.detail
  else if a.kind.isStore && bitOf leaf 9 then some a.kind.detail
  else none

/-- The procedural check (R245, R246). A procedural page that no registered range covers refuses every
access (DESIGN CHOICE log 11). -/
def checkFill (s : State) (w : Who) (a : Acc) (leaf : Word) : Except Halt (Option BlockId) :=
  if !bitOf leaf 8 then .ok none
  else match blockAt s a.ea with
    | none => .error (a.fault .perm 5)
    | some b =>
      if a.kind = .spill then .error (a.fault .perm 3)
      else if a.kind.isStore then (if isGenOf s w.task b then .ok (some b) else .error (a.fault .perm 5))
      else match touch s w.task b with
        | .served => .ok (some b)
        | .parks => .error (.park [b])
        | .fails d code =>
          .error (.trap { trapAt .fillfail d a.elem a.ea with aux := BitVec.ofNat 256 code.toNat })

/-- Sectors that an access of width bytes at a place touches. -/
def sectorsAt (l width : Nat) : List Nat := (upTo (sectorOf (l + width - 1) + 1 - sectorOf l)).map (· + sectorOf l)

/-- A sector reads as poisoned for an agent: not where its own unpublished writes cover all of it. -/
def badFor (s : State) (pend : Table Byte) (sector : Nat) : Bool :=
  s.sectorBad sector && !decide (bytesIn pend sector = 32)

/-- The bytes of an access cover all of a sector. -/
def covers (l width sector : Nat) : Bool := decide (l ≤ sector * 32) && decide (sector * 32 + 32 ≤ l + width)

/-- POISON (R146): DETAIL 0 for a read, 1 for a write of part of a poisoned sector. An AMO writes its own bytes alone at
the sector's home (R158), so the agent's other unpublished writes do not help it, but for an atomic task, whose AMO is a
load and a store of its own (R316; DEDUCED log 70). -/
def checkPoison (s : State) (w : Who) (a : Acc) (l : Nat) : Except Halt Unit :=
  if a.kind.isStore then
    let amo := decide (a.kind = .amo)
    (if (sectorsAt l a.width).any (fun x => if amo && !w.atomic then s.sectorBad x else badFor s w.pend x && !(covers l a.width x && !amo))
      then .error (a.poisoned 1) else .ok ())
  else if (sectorsAt l a.width).any (badFor s w.pend) then .error (a.poisoned 0)
  else .ok ()

/-- The tentative sectors of an atomic task stay within 1,024 (R34). -/
def checkCapacity (s : State) (w : Who) (a : Acc) (l : Nat) : Except Halt Unit :=
  if w.atomic && a.kind.isStore then
    let sig := (s.taskAt w.task).writes
    let new := (sectorsAt l a.width).filter (fun x => !sig.contains x)
    if 1024 < sig.length + new.length then .error (a.fault .atomirrev 2) else .ok ()
  else .ok ()

/-- The access must wait for the line, since another device owns it (R290): but for a fetch of a line that the core's
instruction cache holds (R134). -/
def awaits (s : State) (w : Who) (a : Acc) (line : Nat) : Bool :=
  ownedAway s line && !(decide (a.kind = .fetch) && (s.core w.core).l1i.any (fun e => decide (e.1 = line)))

/-- The checks of a translated access after BOUNDS and FRAMEINUSE, up to the procedural check. -/
def checkGlobal (s : State) (w : Who) (a : Acc) : Except Halt Target :=
  match translate s w.core w.colour a.ea with
  | .error .poison => .error (a.fault .poison 3)
  | .error .page => .error (a.fault .page a.kind.detail)
  | .error (.owned line) => .error (.wait (.snoop line))
  | .ok (e, fresh) =>
    match physical s (e.pa a.ea) with
    | none => .error (a.fault .page a.kind.detail)
    | some (home, l) =>
      match leafPerm w a e.leaf with
      | some d => .error (a.fault .perm d)
      | none =>
        if w.atomic && decide (home ≠ .local) then .error (a.fault .atomirrev 1)
        else if decide (a.kind = .amo) && decide (home = .hostPosted) then .error (a.fault .amotype 0)
        else if a.mwait && (decide (home = .hostPosted) || decide (pteCache e.leaf = 2)) then .error (a.fault .amotype 1)
        else
          match checkFill s w a e.leaf with
          | .error h => .error h
          | .ok fill =>
            let ls := linesOf l a.width
            if decide (a.kind ≠ .fetch) && ls.any (ownerGone s) then .error (a.fault .poison (if a.kind.isStore then 1 else 0))
            else match ls.find? (awaits s w a) with
            | some line => .error (.wait (.snoop line))
            | none =>
              .ok { loc := l, home := home,
                    cache := if home = .hostPosted then 2 else a.cacheBy.getD (pteCache e.leaf),
                    grain := if a.grainBy = 0 then grainBytes (bitsOf e.leaf 7 6) else a.grainBy,
                    fill := fill, tlb := if fresh then some e else none }

/-- All checks of one access in the order of R264; POISON and the atomic capacity only where `whole` says
that the access alone decides them (R378). The access lies in one page. -/
def checkAcc (s : State) (w : Who) (a : Acc) (whole : Bool) : Except Halt Target :=
  if a.mis then .error (a.fault .misaligned 0)
  else if !a.bounds then .error (a.fault .bounds 0)
  else if inWindow a.ea && decide (a.kind = .fetch) then .error (a.fault .perm 2)
  else if inWindow a.ea then
    match windowPlace w.core a.ea a.width with
    | none => .error (a.fault .bounds 0)
    | some (core, o) => if frameInUse w a then .error (a.fault .frameinuse 0) else checkWindow s w a core o
  else if frameInUse w a then .error (a.fault .frameinuse 0)
  else
    match checkGlobal s w a with
    | .error h => .error h
    | .ok t =>
      if !whole then .ok t
      else match checkPoison s w a t.loc with
        | .error h => .error h
        | .ok _ => match checkCapacity s w a t.loc with
          | .error h => .error h
          | .ok _ => .ok t

/-! ### Forming an address -/

/-- A plain global virtual access. -/
def accGv (a : Word) (width : Nat) (kind : AccKind) (mis : Bool) : Acc :=
  { ea := gva a, width := width, kind := kind, elem := 0, mis := mis, bounds := true, access := 3, cacheBy := none,
    grainBy := 0, scalar := false, guarded := false }

/-- GRAIN of a buffer record in bytes; 0: the page's (R94). -/
def recGrain (code : Nat) : Nat := match code with
  | 0 => 0
  | n => grainBytes n

/-- The device's read of buffer record n of a task's pool. -/
def poolAcc (w : Who) (n : BitVec 8) : Acc := accGv (w.pool + BitVec.ofNat 64 (32 * n.toNat)) 32 .load false

/-- What a memory operand names; a buffer record is read from the task's pool as a 32-byte global load that the device
makes for itself: the page's U bit does not matter to it, and it joins no atomic task's read signature (R12, R32, R94, R95;
DESIGN CHOICE log 10). -/
def via (s : State) (w : Who) (sel : BitVec 3) (n : BitVec 8) : Except Halt Via :=
  if sel = 6 then
    if w.poolCnt ≤ n.toNat then .error (.trap (trapOf .bounds 0))
    else
      match checkAcc s { w with smode := true, key := none } (poolAcc w n) true with
      | .error h => .error h
      | .ok t =>
        let r := ofBytes (s.mem.read t.loc 32)
        let b : BitVec 256 := BitVec.ofNat 256 r
        .ok { sel := 6, base := BitVec.ofNat 64 (bitsOf b 63 0), len := some (bitsOf b 127 64),
              access := BitVec.ofNat 2 (bitsOf b 133 132), cache := some (BitVec.ofNat 2 (bitsOf b 129 128)),
              grain := recGrain (bitsOf b 131 130) }
  else .ok { sel := sel.toNat, base := 0, len := none, access := 3, cache := none, grain := 0 }

/-- The access at offset o of what an operand names (R12, R95): effective address and BOUNDS. -/
def accVia (core : Nat) (m : Via) (o : Word) (width : Nat) (kind : AccKind) (elem : Nat) : Acc :=
  let p : Word × Bool :=
    if m.sel = 0 then (gva o, true)
    else if m.sel = 6 then
      (gva (m.base + o), match m.len with
        | some n => decide (o.toNat + width ≤ n)
        | none => true)
    else selectorAddr core m.sel o width
  { ea := p.1, width := width, kind := kind, elem := elem, mis := false, bounds := p.2, access := m.access,
    cacheBy := m.cache, grainBy := m.grain, scalar := false, guarded := false }

/-- Bytes that do not all lie in one 32-byte sector (R123). -/
def splitsSector (a : Word) (width : Nat) : Bool := decide (32 < a.toNat % 32 + width)
/-- Not naturally aligned. -/
def unaligned (a : Word) (width : Nat) : Bool := decide (a.toNat % width ≠ 0)

/-! ### An access takes place -/

/-- An access to a procedural block asks the slice that holds its state (R244). -/
def noteTouch (s : State) (t : Target) : State := match t.fill.bind (fstabPlace s) with
  | some l => toL2 s [lineOf l] false
  | none => s

/-- The acting core's L1D serves an access of n bytes within one grain and one line (R132, R133): a miss asks the directory, which
invalidates the other copies for a store, and downgrades an exclusive one for a load (R280, R282). -/
def l1Access (s : State) (grain : Nat) (store : Bool) (l n : Nat) : State :=
  let (tags, miss, gone) := l1Touch s.myCore.l1d l n grain store
  let s1 := if !miss then s else if store then l1Probe s (some s.task.colour) (some s.turn.core) l else l1ShareOthers s (some s.turn.core) l
  let s2 := s1.setMyCore { s1.myCore with l1d := tags }
  let s3 := if gone.isEmpty then s2
    else widen (notify s2 (fun d w => decide (d.core = s.turn.core) && gone.contains (regionOf w))) s.turn.core (fun x => gone.contains (x / 4))
  if miss then countEvent (dirTake (toL2 s3 [lineOf l] false) (dirPlaces l grain)) s3.taskId 6 1 else s3

/-- The acting context's access is noted: its translation is kept, its signature and its scratchpad bit are
updated (R32, R266), and the L1D serves it where it is cached there, grain by grain and line by line, since a miss fetches from one line
(R132, R135). CACHE 01 data of another device is held at that home only. -/
def noteAccess (s : State) (t : Target) (width : Nat) (store : Bool) : State :=
  let s1 := s.keepTlb s.turn.core t.tlb
  match t.home with
  | .scratch _ => s1.setMyTask { s1.task with spad := true }
  | home =>
    let k := s1.task
    let secs := sectorsAt t.loc width
    let s2 := if k.atomic then
        s1.setMyTask (if store then { k with writes := k.writes ++ secs.filter (fun x => !k.writes.contains x) }
                      else { k with reads := k.reads ++ secs.filter (fun x => !k.reads.contains x) })
      else s1
    let s3 := noteLines (noteTouch s2 t) t width store
    if t.cache = 1 then (if isPeer home then s3 else toL2 s3 (linesOf t.loc width) false)
    else if t.cache ≠ 0 ∨ (s.bar0.unsync && isPeer home && !store) then s3
    else (grainPieces (min t.grain 128) (width + 1) t.loc width).foldl (fun s p => l1Access s t.grain store p.1 p.2) s3

/-- A read of n bytes by a unit of the device, not by a core: it obtains modified data from the L1Ds (R134) and data from
the L2 (R136), and takes leases (R287). -/
def noteRead (s : State) (t : Target) (n : Nat) : State :=
  match t.home with
  | .scratch _ => s
  | home =>
    let s1 := noteLines (noteTouch s t) t n false
    if t.cache = 2 ∨ (isPeer home && (s.bar0.unsync || decide (t.cache ≠ 0))) then s1
    else toL2 ((sectorsAt t.loc n).foldl (fun s x => l1ShareOthers s none (x * 32)) s1) (linesOf t.loc n) false

/-- The device's read of a buffer record through an operand leaves behind what a load of global memory does: it takes no
part in the read signature of an atomic task (R32, R94; DESIGN CHOICE log 10). -/
def State.noteVia (s : State) (sel : BitVec 3) (n : BitVec 8) : State :=
  if sel ≠ 6 || decide (s.task.poolCnt ≤ n.toNat) then s
  else match checkAcc s { s.who with smode := true } (poolAcc s.who n) true with
    | .ok t => noteRead (s.keepTlb s.turn.core t.tlb) t 32
    | .error _ => s

/-- The bytes that a load of the acting context returns. -/
def loaded (s : State) (t : Target) (n : Nat) : Nat := ofBytes (seen s s.me.pend t.loc n)

/-- The place lies in the barrier-slot area of a scratchpad. -/
def inSlots (t : Target) (width : Nat) : Bool :=
  match t.home with
  | .scratch _ => touchesSlots (t.loc % 2 ^ 20) width
  | _ => false

/-- The acting context stores bytes: held until a release, but for a barrier slot, where they take effect
and are published at once (R124, R152). A wait of a hart of its core on a word that is written ends. -/
def storeAt (s : State) (t : Target) (bytes : List Byte) : State :=
  let s1 := noteAccess s t bytes.length true
  let ws := tableAt t.loc bytes
  if inSlots t bytes.length then land s1 (some s.task.colour) (some s.turn.core) s1.taskId ws
  else
    let s2 := s1.setMe { s1.me with pend := overlay s1.me.pend ws }
    notify s2 (fun d w => decide (d.core = s.turn.core) && decide (t.loc < w + 4) && decide (w < t.loc + bytes.length))

/-- The scratchpad bytes of barrier slot n of a core (R121, R193). -/
def slotLoc (core n : Nat) : Nat := scratchLoc core (Config.barrierBase + 16 * n)

end Sys2Proof.Machine
end

