-- ==== Sys2Proof/Machine/Spill.lean ====
section
/-! DEFINITION. Spill images and the spill area: the encodings of R142 to R144, the control block and the
images of a parked context (R266), and the context that they rebuild (R267). -/

namespace Sys2Proof.Machine

/-! ### Spill images (R142) -/

/-- n elements of 32 bits of a register, at the positions of R18. -/
def spillWords (n : Nat) (v : VReg) : List Nat := (upTo n).map (fun i => bitsOf v (32 * i + 31) (32 * i))

/-- The differences from element 0, read as signed 32-bit values. -/
def spillDeltas (ws : List Nat) : List Int :=
  let e0 := ws.headD 0
  ws.map (fun w => signNat (w + 2 ^ 32 - e0) 32)

/-- Units of 64 bytes that a mode stores for n elements. -/
def spillUnits (mode n : Nat) : Nat := match mode with
  | 3 => 1
  | 1 => (n + 3 + 63) / 64
  | 2 => (2 * n + 2 + 63) / 64
  | _ => n / 16

/-- The mode's condition. -/
def spillFits (mode : Nat) (ds : List Int) : Bool := match mode with
  | 3 => ds.all (fun d => d = 0)
  | 1 => ds.all (fun d => -128 ≤ d ∧ d ≤ 127)
  | 2 => ds.all (fun d => -32768 ≤ d ∧ d ≤ 32767)
  | _ => true

/-- The permitted mode with the fewest units, ties in the order 11, 01, 10, 00. -/
def spillMode (n : Nat) (ds : List Int) : Nat :=
  [3, 1, 2, 0].foldl
    (fun best m => if spillFits m ds && (decide (best = 4) || decide (spillUnits m n < spillUnits best n)) then m else best) 4

/-- Bytes padded with zeros to a length. -/
def padTo (n : Nat) (bs : List Byte) : List Byte := bs ++ List.replicate (n - bs.length) 0

/-- The stored layout of a mode. -/
def spillLayout (mode : Nat) (ws : List Nat) (ds : List Int) : List Byte := match mode with
  | 3 => bytesOf 4 (ws.headD 0)
  | 1 => bytesOf 4 (ws.headD 0) ++ (ds.drop 1).map (fun d => BitVec.ofInt 8 d)
  | 2 => bytesOf 4 (ws.headD 0) ++ (ds.drop 1).flatMap (fun d => bytesOf 2 (BitVec.ofInt 16 d).toNat)
  | _ => ws.flatMap (bytesOf 4)

/-- A register's image: format byte, and its units as bytes. -/
def spillImage (n : Nat) (v : VReg) : Byte × List Byte :=
  let ws := spillWords n v
  let ds := spillDeltas ws
  let mode := spillMode n ds
  let u := spillUnits mode n
  (BitVec.ofNat 8 (mode * 64 + u), padTo (64 * u) (spillLayout mode ws ds))

/-- A format byte is one that a hart with n elements may fill from (R144). -/
def spillFormatOk (n : Nat) (fmt : Byte) : Bool := decide (bitsOf fmt 5 0 = spillUnits (bitsOf fmt 7 6) n)

/-- The number at byte i of some bytes, w bytes wide. -/
def bytesAt (bs : List Byte) (i w : Nat) : Nat := ofBytes ((bs.drop i).take w)

/-- The register's words from its stored units (R144). -/
def spillElems (n mode : Nat) (bs : List Byte) : List Nat :=
  let e0 := bytesAt bs 0 4
  match mode with
  | 3 => List.replicate n e0
  | 1 => (upTo n).map (fun i => if i = 0 then e0 else (BitVec.ofInt 32 (e0 + signNat (bytesAt bs (3 + i) 1) 8)).toNat)
  | 2 => (upTo n).map (fun i =>
      if i = 0 then e0 else (BitVec.ofInt 32 (e0 + signNat (bytesAt bs (4 + 2 * (i - 1)) 2) 16)).toNat)
  | _ => (upTo n).map (fun i => bytesAt bs (4 * i) 4)

/-- The number whose 32-bit words are listed, lowest first. -/
def ofWords : List Nat → Nat
  | [] => 0
  | w :: ws => w + 2 ^ 32 * ofWords ws

/-- A register rebuilt from its stored units. -/
def spillRebuild (n mode : Nat) (bs : List Byte) : VReg := BitVec.ofNat 16384 (ofWords (spillElems n mode bs))

/-- A mask image: the 32-bit words from 0 up to the highest nonzero one (R266). -/
def maskWords (m : Mask) : Nat := if m = 0 then 0 else Nat.log2 m.toNat / 32 + 1

/-! ### A context in its spill area (R266) -/

/-- The 33 masks in the order of their images: k0 to k7, stack entries 1 to 24 bottom first, the
faulted-element mask. Entries above MSTK are zero. -/
def Ctx.masks (c : Ctx) : List Mask :=
  (upTo 8).map (Table.get 0 c.k) ++ (c.mstk.reverse ++ List.replicate (24 - c.mstk.length) 0) ++ [c.fmask]

/-- What a park puts into the two halves besides the context's registers. -/
structure SpillNote where
  pc      : Word
  taskId  : Nat
  tfg     : Tfg
  trap    : Bool
  spad    : Bool
  inPlace : Bool
  pcsel   : Table Word
  pcnt    : Table Word
  deriving DecidableEq, Repr

/-- The control block of a context's half; it is written as usual for a context in place. -/
def controlBlock (c : Ctx) (tail : Bool) (n : SpillNote) (formats : List Byte) : List Byte :=
  padTo 320
    (bytesOf 8 n.pc.toNat ++ (upTo 31).flatMap (fun i => bytesOf 8 (Table.get (0 : Word) c.x (i + 1)).toNat)
      ++ bytesOf 8 c.vl ++ bytesOf 8 c.vty.toNat ++ bytesOf 8 c.vfcsr.toNat ++ bytesOf 8 (fmaskWord c.fmask).toNat
      ++ bytesOf 1 c.mstk.length)
  ++ (if c.valid then formats else List.replicate 32 0)
  ++ padTo 80 (if !c.valid then [] else c.masks.flatMap (fun m => bytesOf 2 (maskWords m)))
  ++ (if tail then List.replicate 16 0 else bytesOf 16 n.tfg.word.toNat)
  ++ bytesOf 8 ((if c.valid then 1 else 0) + (if n.inPlace then 2 else 0) + (if n.trap then 4 else 0)
      + (if n.spad then 8 else 0))
  ++ bytesOf 8 n.taskId
  ++ padTo 496 (if tail then [] else (upTo 8).flatMap (fun i => bytesOf 8 (Table.get (0 : Word) n.pcsel i).toNat)
      ++ (upTo 8).flatMap (fun i => bytesOf 8 (Table.get (0 : Word) n.pcnt i).toNat))
  ++ List.replicate 64 0

/-- The context's image storage: register images, then mask images, and the format bytes. -/
def contextImages (vlen : Nat) (c : Ctx) : List Byte × List Byte :=
  let regs := (upTo 32).map (fun r => spillImage (vlen / 32) (Table.get 0 c.v r))
  (regs.map (·.1),
   regs.flatMap (·.2) ++ c.masks.flatMap (fun m => bytesOf (4 * maskWords m) m.toNat))

/-- The bytes that a park writes from the start of a context's half, in whole sectors, and whether the
context parks in place: its images exceed 32 × VLEN / 8 bytes. -/
def contextHalf (vlen : Nat) (c : Ctx) (tail : Bool) (n : SpillNote) : List Byte × Bool :=
  if !c.valid then (controlBlock c tail n [], false)
  else
    let (formats, images) := contextImages vlen c
    if 32 * (vlen / 8) < images.length then (controlBlock c tail { n with inPlace := true } formats, true)
    else (controlBlock c tail n formats ++ padTo ((images.length + 31) / 32 * 32) images, false)

/-! ### Rebuilding a context (R267) -/

/-- Byte offsets of the 32 register images, and the first byte after them. -/
def imageOffsets (formats : List Byte) : List Nat × Nat :=
  formats.foldl (fun acc f => (acc.1 ++ [acc.2], acc.2 + 64 * bitsOf f 5 0)) ([], 1024)

/-- The masks of a half, from their word counts. -/
def readMasks (half : List Byte) (from' : Nat) (counts : List Nat) : List Mask :=
  (counts.foldl (fun (acc : List Mask × Nat) w => (acc.1 ++ [BitVec.ofNat 65536 (bytesAt half acc.2 (4 * w))], acc.2 + 4 * w))
    ([], from')).1

/-- The context that a half describes; kept is what the slot still holds of a context parked in place. -/
def rebuild (vlen : Nat) (half : List Byte) (kept : Ctx) : Ctx :=
  let state := bytesAt half 448 8
  if state % 2 = 0 then Ctx.empty
  else
    let xs := (upTo 31).foldl (fun (t : Table Word) i => Table.set t (i + 1) (BitVec.ofNat 64 (bytesAt half (8 + 8 * i) 8))) []
    let base : Ctx := { kept with
      valid := true, pc := BitVec.ofNat 64 (bytesAt half 0 8), x := xs, vl := bytesAt half 256 8,
      vty := BitVec.ofNat 64 (bytesAt half 264 8), vfcsr := BitVec.ofNat 64 (bytesAt half 272 8), pend := [], wait := none }
    if state / 2 % 2 = 1 then base
    else
      let formats := (half.drop 320).take 32
      let (offs, after) := imageOffsets formats
      let vs := (upTo 32).foldl (fun (t : Table VReg) r =>
        let f := (formats.drop r).headD 0
        Table.set t r (spillRebuild (vlen / 32) (bitsOf f 7 6) ((half.drop ((offs.drop r).headD 0)).take (64 * bitsOf f 5 0)))) []
      let ms := readMasks half after ((upTo 33).map (fun i => bytesAt half (352 + 2 * i) 2))
      { base with
        v := vs,
        k := (upTo 8).foldl (fun (t : Table Mask) i => Table.set t i ((ms.drop i).headD 0)) [],
        mstk := ((ms.drop 8).take (bytesAt half 288 1)).reverse,
        fmask := (ms.drop 32).headD 0 }

end Sys2Proof.Machine
end

