-- ==== Sys2Proof/Machine/Ops.lean ====
section
/-! DEFINITION. The shared operations of the machine: how an instruction ends, boundaries, the device's own
reads and writes, what a task's end sets off, taking a trap (one operation for every cause) and, beside it,
the return from one. -/

namespace Sys2Proof.Machine

/-- What one step answers. -/
abbrev Out := Host.Outcome State Fault Refusal

/-! ### Completing and waiting -/

/-- The instruction completes: the PC moves past its n bytes. -/
def State.retire (s : State) (n : Nat) : State :=
  let k := s.me
  s.setMe { k with pc := k.pc + BitVec.ofNat 64 n, wait := none }

/-- The instruction completes with a jump. -/
def State.retireTo (s : State) (a : Word) : State := s.setMe { s.me with pc := a, wait := none }

/-- Waiting in the sense of R30; the other waits are stalls of a running context. -/
def Wait.counts : Wait → Bool
  | .lines | .held _ | .snoop _ _ | .queueRoom _ => false
  | _ => true

/-- A context that exists waits in the sense of R30; one that has been woken waits no longer. -/
def Ctx.waits (c : Ctx) : Bool := match c.wait with
  | some w => w.counts && !c.woken
  | none => false

/-- Those who hold the lines that a wait is for are asked for them. -/
def askFor (s : State) : Wait → State
  | .snoop line _ | .held line => askHolders s line
  | .queueRoom h => match ringHeldLine s h s.task.colour (some s.turn.core) with
    | some line => askHolders s line
    | none => s
  | .lines => (((s.me.pend ++ (s.ctx s.turn.other).pend).map (fun b => lineOf b.1)).eraseDups).foldl askHolders s
  | _ => s

/-- The acting context waits at its instruction; its task is waiting once every context of it waits. A
context that waits already keeps what its wait has gathered. -/
def waitOn (s0 : State) (w : Wait) : State :=
  let s := askFor s0 w
  let s1 := s.setMe { s.me with wait := some w, woken := false }
  let o := s1.ctx s1.turn.other
  if w.counts && (!o.valid || o.waits) && (s1.task.state = .running) then
    s1.setMyTask { s1.task with state := .waiting }
  else s1

/-! ### Boundaries of the acting context -/

/-- Boundary(RELEASE) at a scope. -/
def State.releaseMe (s : State) (scope : Nat := 3) : State := release s s.turn scope
/-- Boundary(ACQUIRE). -/
def State.acquireMe (s : State) (scope : Nat) : State := acquire s s.turn.core scope
/-- A release of the acting context can complete. -/
def State.readyToRelease (s : State) : Except Halt Unit := releaseReady s s.turn

/-! ### Reads and writes of the device's own -/

/-- A range of n bytes in pieces that no boundary of `size` bytes cuts. -/
def pieces (size : Nat) : Nat → Nat → Nat → List (Nat × Nat)
  | 0, _, _ => []
  | fuel + 1, a, n =>
    if n = 0 then []
    else
      let w := min n (size - a % size)
      (a, w) :: pieces size fuel (a + w) (n - w)

/-- A range in pieces of one page. -/
def pagePieces (a n : Nat) : List (Nat × Nat) := pieces 4096 (n / 4096 + 2) a n

/-- The launch unit, the graph unit, the fill unit or dispatch as the maker of an access for a colour. -/
def deviceWho (colour : Nat) : Who :=
  { core := 0, colour := colour, smode := true, atomic := false, task := 0, pool := 0, poolCnt := 0, frame := none,
    pend := [], key := none }

/-- The checks of a range, piece by piece; a device unit has no local window. -/
def checkPieces (s : State) (w : Who) (kind : AccKind) : List (Nat × Nat) → Except Halt (List Target)
  | [] => .ok []
  | (a, n) :: ps =>
    match checkAcc s w (accGv (BitVec.ofNat 64 a) n kind false) true with
    | .error h => .error h
    | .ok t => match checkPieces s w kind ps with
      | .error h => .error h
      | .ok ts => .ok (t :: ts)

/-- A range lies, in part, in the local window. -/
def meetsWindow (ps : List (Nat × Nat)) : Bool := ps.any (fun p => inWindow (gva (BitVec.ofNat 64 p.1)))

/-- The device reads a structure of n bytes at a virtual address of a colour; or why it cannot, or must wait. -/
def devRead (s : State) (colour : Nat) (a n : Nat) : Except Halt (List Byte) :=
  let ps := pagePieces a n
  if meetsWindow ps then .error (.trap (trapOf .bounds 0))
  else match checkPieces s (deviceWho colour) .load ps with
    | .ok ts => .ok ((ts.zip ps).flatMap (fun tp => s.mem.read tp.1.loc tp.2.2))
    | .error h => .error h

/-- The places of a range that a maker of accesses writes, or why it cannot. -/
def placesOf (s : State) (w : Who) (kind : AccKind) (ps : List (Nat × Nat)) : Except Halt (List (Nat × Nat)) :=
  match checkPieces s w kind ps with
  | .ok ts =>
    let ls := (ts.zip ps).map (fun tp => (tp.1.loc, tp.2.2))
    match (ls.flatMap (fun p => linesOf p.1 p.2)).find? (lineHeld s) with
    | some line => .error (.wait (.held line))
    | none => .ok ls
  | .error h => .error h

/-- The places of a range that the device writes, or why it cannot; a line that another device or the host holds must
come back first (R162, R284). -/
def devPlaces (s : State) (colour : Nat) (a n : Nat) : Except Halt (List (Nat × Nat)) :=
  let ps := pagePieces a n
  if meetsWindow ps then .error (.trap (trapOf .bounds 0)) else placesOf s (deviceWho colour) .store ps

/-- Bytes laid over a list of places and lengths. -/
def layBytes : List (Nat × Nat) → List Byte → Table Byte
  | [], _ => []
  | (l, n) :: ps, bs => tableAt l (bs.take n) ++ layBytes ps (bs.drop n)

/-- What a write to a range in pieces of one page leaves behind beside the bytes. -/
def noteStores (s : State) (core colour : Nat) (ps : List (Nat × Nat)) : State :=
  ps.foldl (fun s p => noteStore s core colour (gva (BitVec.ofNat 64 p.1)) p.2) s

/-- The device writes bytes at a virtual address of a colour, or why it cannot. -/
def devWrite (s : State) (colour : Nat) (a : Nat) (bs : List Byte) : Except Halt State :=
  match devPlaces s colour a bs.length with
  | .ok ps => .ok (land (noteStores s 0 colour (pagePieces a bs.length)) (some colour) none 0 (layBytes ps bs))
  | .error h => .error h

/-- The line for which an access waits. -/
def awaited {α : Type} : Except Halt α → Option Nat
  | .error (.wait (.snoop line _)) | .error (.wait (.held line)) => some line
  | _ => none

/-- What a read of a range leaves behind, as far as it comes: what it reads is verified, and its lines are fetched. -/
def noteRange (s : State) (w : Who) : List (Nat × Nat) → State
  | [] => s
  | (a, n) :: ps =>
    let acc := accGv (BitVec.ofNat 64 a) n .load false
    let s1 := noteWalk s w.core w.colour acc.ea
    match checkAcc s1 w acc true with
    | .ok t => noteRange (noteRead s1 t n) w ps
    | .error _ => match devicePlace s1 w.core w.colour acc.ea with
      | some l => (sectorsAt l n).foldl (fun s x => verifyAt s (x * 32)) s1
      | none => s1

/-- The device has read a structure, or has tried to. -/
def devNoted (s : State) (colour a n : Nat) : State :=
  let ps := pagePieces a n
  if meetsWindow ps then s else noteRange s (deviceWho colour) ps

/-- A write of part of a poisoned sector that was refused is counted at its slice (R141, R146). -/
def countPartial (s : State) (colour a n : Nat) : Except Halt State → State
  | .error (.trap t) =>
    if t.cause ≠ .poison then s
    else (pagePieces a n).foldl (fun s p => match devicePlace s 0 colour (gva (BitVec.ofNat 64 p.1)) with
      | some l => ((sectorsAt l p.2).filter (fun x => s.sectorBad x && !covers l p.2 x)).foldl (fun s x => countAt s (x / 4) counterRefused 1) s
      | none => s) s
  | _ => s

/-! ### Trap records (R263, R268, R269, R423) -/

/-- A trap record. spill is 0 unless parked. -/
def trapRecord (t : Trap) (pc : Word) (colour task : Nat) (spill : Nat) (tail smode final parked : Bool) : BitVec 1024 :=
  BitVec.ofNat 1024
    (t.aux.toNat * 2 ^ 384 + colour % 2 ^ 16 * 2 ^ 320 + t.elem % 2 ^ 16 * 2 ^ 304 + t.detail % 2 ^ 16 * 2 ^ 288
      + (if smode then 2 ^ 271 else 0) + (if final then 2 ^ 270 else 0) + (if parked then 2 ^ 269 else 0)
      + (if tail then 2 ^ 268 else 0) + (if t.straddle then 2 ^ 267 else 0) + t.cause.code * 2 ^ 256
      + task % 2 ^ 64 * 2 ^ 192 + (if parked then spill else 0) * 2 ^ 128 + t.addr.toNat * 2 ^ 64 + pc.toNat)

def recSmode (r : BitVec 1024) : Bool := bitOf r 271

/-! Supervisor queue entries (R268). -/
def supBase (e : BitVec 512) : Nat := bitsOf e 63 0
def supLog (e : BitVec 512) : Nat := bitsOf e 71 64
def supHead (e : BitVec 512) : Nat := bitsOf e 159 128
def supTail (e : BitVec 512) : Nat := bitsOf e 191 160
def supHandler (e : BitVec 512) : Nat := bitsOf e 319 256

/-- What comes of an attempt of a device unit: a new state, or none as yet. -/
inductive Try where
  | done (s : State)
  | noted (s : State)    -- it cannot be done as yet: a check value that it has read does not match (R146)
  | ask (line : Nat)     -- it waits for a line that another device or the host holds
  | no                   -- it waits for something else
  deriving DecidableEq, Repr

/-- The state after an attempt: those who hold an awaited line are asked for it once. -/
def Try.next (s : State) : Try → Option State
  | .done t | .noted t => some t
  | .ask line => if asked s line then none else some (askHolders s line)
  | .no => none

/-- What a halted access makes of an attempt. -/
def Try.halt (h : Halt) : Try := match awaited (.error h : Except Halt Unit) with
  | some line => .ask line
  | none => .no

/-- A read of the device that halts an attempt: a mismatch that it finds sets the sector's poison bit (R146). -/
def Try.read (s : State) (colour a n : Nat) (h : Halt) : Try :=
  let s1 := devNoted s colour a n
  if s1.badCheck = s.badCheck then .halt h else .noted s1

/-- Post a record to the supervisor queue of a die's record in a colour, and enqueue the handler; not while
that cannot be done: there is no queue, the ring is full, a structure cannot be reached, or the handler's
segment is full (R269; DESIGN CHOICE log 9 for the last two). -/
def postTo (s : State) (die rec colour : Nat) (record : BitVec 1024) : Try :=
  let e := Table.get 0 (s.die die).supq rec
  let n := 2 ^ supLog e
  if e = 0 ∨ (supTail e + 2 ^ 32 - supHead e) % 2 ^ 32 = n then .no
  else
    let a := supBase e + 128 * (supTail e % n)
    match devRead s colour (supHandler e) 64 with
    | .error h => .read s colour (supHandler e) 64 h
    | .ok hb =>
      let h : Header := putBits (BitVec.ofNat 512 (ofBytes hb)) 383 320 a
      if !queueRoom s h colour none then .no
      else match devWrite s colour a (bytesOf 128 record.toNat) with
        | .error h => .halt h
        | .ok s1 =>
          let d := s1.die die
          let s2 := s1.setDie die { d with supq := Table.set d.supq rec (putBits e 191 160 (supTail e + 1)) }
          .done (enqueue (devNoted s2 colour (supHandler e) 64) h colour 0 none none)

/-- The lowest free slot of the S-mode trap log. -/
def freeLogSlot (s : State) : Option Nat := (upTo 64).find? (fun i => (Table.find s.mgmt.stl i).isNone)

/-- Post a record to the S-mode trap log; none while no slot is free (R423). -/
def postLog (s : State) (record : BitVec 1024) : Option State :=
  match freeLogSlot s with
  | some i => some { s with mgmt := { s.mgmt with stl := Table.set s.mgmt.stl i record, stlCount := s.mgmt.stlCount + 1 } }
  | none => none

/-! ### Blocks leave TURNING (R248, R254) -/

/-- Writes to a block that one context, or one request of an engine, has not published yet. -/
def inBlock (ps : List Nat) (w : Nat × Byte) : Bool := ps.any (fun p => decide (p ≤ w.1) && decide (w.1 < p + 4096))

/-- A request without its writes to a block. -/
def Msg.withoutBlock (m : Msg) (ps : List Nat) : Msg := { m with pend := m.pend.filter (fun w => !inBlock ps w) }

/-- What the generator of a block has written to it is published as the block leaves TURNING, also by its other context
and by requests that engines make for it: no store reaches the block later (R245, R259; DESIGN CHOICE log 72). -/
def publishBlock (s : State) (b : BlockId) : State :=
  match (fillOf s b).bind (·.gen) with
  | none => s
  | some id =>
    let t := s.taskAt id
    let ps := blockPages s b
    let main : CtxId := { core := t.core, part := t.part, tail := false }
    let one := fun (s : State) (c : CtxId) =>
      let k := s.ctx c
      let mine := k.pend.filter (inBlock ps)
      if mine.isEmpty then s
      else land (countRefusals (s.setCtx c { k with pend := k.pend.filter (fun w => !inBlock ps w) }) mine) (some t.colour) (some c.core) id mine
    let s1 := if (s.partAt t.core t.part).task = some id then one (one s main) main.other else s
    let sent := s1.clusters.flatMap (fun u => (u.2.aside.map (·.msg) ++ u.2.inbox.flatMap (·.2)).flatMap (fun m =>
      if m.task = id then m.pend.filter (inBlock ps) else []))
    let owed := s1.sched.due.flatMap (fun d => d.pend.filter (inBlock ps))
    if sent.isEmpty && owed.isEmpty then s1
    else
      let s2 := land (countRefusals s1 (owed ++ sent)) (some t.colour) none 0 (owed ++ sent)
      { s2 with
        clusters := s2.clusters.map (fun u => (u.1, { u.2 with
          aside := u.2.aside.map (fun a => { a with msg := a.msg.withoutBlock ps }),
          inbox := u.2.inbox.map (fun q => (q.1, q.2.map (fun m => m.withoutBlock ps))) })),
        sched := { s2.sched with due := s2.sched.due.map (fun d => { d with pend := d.pend.filter (fun w => !inBlock ps w) }) } }

/-- A TURNING block becomes FILLED or SPOILED: its fill entry goes and its waiters resume. -/
def leaveTurning (s0 : State) (b : BlockId) (good : Bool) (code : BitVec 16) : State :=
  let s := publishBlock s0 b
  let waiters := match fillOf s b with
    | some f => f.waiters
    | none => []
  let s1 := setFillState s b (if good then .filled else .spoiled)
  let ids := waiters.filterMap (fun w => match w with | .task id => some id | _ => none)
  let f := s1.fill
  let s2 := { s1 with fill := { f with
    fills := f.fills.filter (fun x => x.blk ≠ b),
    filled := if good then f.filled ++ [b] else f.filled,
    exempt := if good then f.exempt ++ waiters.map (fun w => (w, b)) else f.exempt,
    codes := if good then f.codes else f.codes ++ ids.map (fun id => (id, b, code)) } }
  let s3 := { s2 with tasks := s2.tasks.map (fun (e : Nat × Task) => (e.1, { e.2 with waitsOn := e.2.waitsOn.filter (fun x => x ≠ b) })) }
  let free := fun (q : QEntry) => { q with withheld := q.withheld.filter (fun x => x ≠ b) }
  { s3 with
    sched := { s3.sched with segs := s3.sched.segs.map (fun (g : Nat × Seg) => (g.1, { g.2 with entries := g.2.entries.map free })) },
    cores := s3.cores.map (fun (c : Nat × Core) => (c.1, { c.2 with deque := c.2.deque.map free })) }

/-! ### Completion events (R31, R170, R195) -/

/-- A completion record with SEQ 0 (R195). -/
def completionRecord (time id count colour fcode src status : Nat) : BitVec 256 :=
  BitVec.ofNat 256 (time % 2 ^ 64 * 2 ^ 192 + id % 2 ^ 64 * 2 ^ 128 + count % 2 ^ 64 * 2 ^ 64 + colour % 2 ^ 16 * 2 ^ 48
    + fcode % 2 ^ 8 * 2 ^ 40 + src % 16 * 2 ^ 36 + status % 16 * 2 ^ 32)

/-- The launch that owns a node map. -/
def launchOfMap (s : State) (map : Nat) : Nat :=
  match s.sched.launches.find? (fun l => l.2.map = some map) with
  | some l => l.1
  | none => 0

/-- Change a launch. -/
def onLaunch (s : State) (id : Nat) (f : Launch → Launch) : State :=
  match Table.find s.sched.launches id with
  | some l => { s with sched := { s.sched with launches := Table.set s.sched.launches id (f l) } }
  | none => s

/-- A predecessor counter entry (R169). -/
def cntBase (e : BitVec 128) : Nat := (signWord (bitsOf e 127 77 * 64) 57).toNat
def cntV (e : BitVec 128) : Bool := bitOf e 76
def cntMap (e : BitVec 128) : Nat := bitsOf e 75 64
def cntHdrs (e : BitVec 128) : Nat := bitsOf e 63 48
def cntColour (e : BitVec 128) : Nat := bitsOf e 47 32
def cntPend (e : BitVec 128) : Nat := bitsOf e 31 0

/-- The copy of a node's header that the graph unit enqueues: CTGT of CKIND 01 becomes the node-map entry of the node that
its bits [13:0] name; its other bits, which R168 has at 0, do not matter (DESIGN CHOICE log 69). none where the header cannot be
enqueued (R170). -/
def nodeHeader (map : List Nat) (h : Header) : Option Header :=
  if malformed h then none
  else if hCkind h = 1 then
    (if hCtgt h % 2 ^ 14 < map.length then some (putBits h 312 256 ((map.drop (hCtgt h % 2 ^ 14)).headD 0)) else none)
  else some h

/-- A node is ready: the graph unit has its headers to queue, and the launch their tasks to wait for; its entry stays in use
meanwhile (R170). -/
def nodeReady (s : State) (die idx : Nat) : State :=
  let e := Table.get 0 (s.die die).cnt idx
  let s1 := onLaunch s (launchOfMap s (cntMap e)) (fun l => { l with left := l.left - 1 + cntHdrs e })
  { s1 with sched := { s1.sched with readyNodes := s1.sched.readyNodes ++ [{ counter := die * 2 ^ 14 + idx, next := 0 }] } }

/-- A completion event on a predecessor counter (R170). -/
def counterEvent (s : State) (die idx : Nat) : State :=
  let d := s.die die
  let e := Table.get 0 d.cnt idx
  if !cntV e ∨ cntPend e = 0 then { s with sched := { s.sched with errors := s.sched.errors + 1 } }
  else
    let s1 := s.setDie die { d with cnt := Table.set d.cnt idx (putBits e 31 0 (cntPend e - 1)) }
    if cntPend e = 1 then nodeReady s1 die idx else s1

/-! ### A task becomes done (R31, R367) -/

/-- A core's instance of a gang learns that a role is done. -/
def Core.roleDone (c : Core) (gang role : Nat) : Core := match c.gang with
  | some g => if g.id = gang then { c with gang := some { g with done := g.done ||| BitVec.ofNat 3 (2 ^ role) } } else c
  | none => c

/-- A role of a gang is done on a core (R38, R367), also where a bell has saved it. -/
def roleDone (s : State) (gang core role : Nat) : State :=
  if gang = 0 then s
  else
    let one := fun (c : Nat × Core) => if c.1 = core then (c.1, c.2.roleDone gang role) else c
    { s with cores := s.cores.map one, saved := s.saved.map (fun v => { v with cores := v.cores.map one }) }

/-- A core, or what a bell saved of one, gives up a gang: its pipes, its B latch and its ring (R37, R206). -/
def Core.leaveGang (c : Core) (gang : Nat) : Core := match c.gang with
  | some g => if g.id = gang then { c with gang := none, ringSize := 0, mc := 0, sc := 0, latch := Latch.empty } else c
  | none => c

/-- Slots in the pipes of a gang's place on a core. -/
def Core.slotsOf (c : Core) (gang : Nat) : Nat := match c.gang with
  | some g => if g.id = gang then (g.pipe.map (fun p => p.2.full)).sum else 0
  | none => 0

/-- A gang is done when all of its tasks are: slots that remain in its pipes are discarded and counted (R37). -/
def gangLeave (s : State) (gang : Nat) : State :=
  if gang = 0 then s
  else
    let g := Table.get Gang.empty s.sched.gangs gang
    if g.tasks.any (fun id => decide ((s.taskAt id).state ≠ .done)) then s
    else
      let left := (s.cores.map (fun c => c.2.slotsOf gang)).sum + (s.saved.map (fun v => (v.cores.map (fun c => c.2.slotsOf gang)).sum)).sum
      { s with
        cores := s.cores.map (fun c => (c.1, c.2.leaveGang gang)),
        saved := s.saved.map (fun v => { v with cores := v.cores.map (fun c => (c.1, c.2.leaveGang gang)) }),
        sched := { s.sched with gangs := Table.set s.sched.gangs gang { g with discarded := g.discarded + left } } }

/-- A task leaves every waiter list that it is on (R371). -/
def leaveWaiters (s : State) (id : Nat) : State :=
  let f := s.fill
  { s with fill := { f with exempt := f.exempt.filter (fun x => x.1 ≠ Waiter.task id), codes := f.codes.filter (fun x => x.1 ≠ id),
                            fills := f.fills.map (fun (x : Fill) => { x with waiters := x.waiters.filter (fun w => w ≠ Waiter.task id) }) } }

/-- A done task gives up its partition, its copy, its generator slot and its place in its launch. -/
def taskLeaves (s : State) (id : Nat) : State :=
  let t := s.taskAt id
  let s1 := if (s.partAt t.core t.part).task = some id then releasePartition s t.core t.part else s
  let s2 := leaveWaiters (dropCopy s1 id) id
  let s3 := { s2 with fill := { s2.fill with slots := s2.fill.slots.filter (fun x => x.2.2 ≠ id) },
                      sched := { s2.sched with readyQ := s2.sched.readyQ.filter (fun x => x ≠ id) } }
  onLaunch s3 t.launch (fun l => { l with left := l.left - 1 })

/-- Entry to done: release at CSCOPE, then the completion event (R31); the hart's chain trackers are released, the task
leaves its waiter lists, its gang's role is done (R367, R371), and the gang is where all of its tasks are (R37). A completion record is due, and until it is written the
task keeps its partition (R196). -/
def becomeDone (s : State) (id : Nat) (e : Ending) (fcode : Nat) : State :=
  let t := s.taskAt id
  let main : CtxId := { core := t.core, part := t.part, tail := false }
  let holds := (s.partAt t.core t.part).task = some id
  let s1 := if holds then release (release s main t.cscope) main.other t.cscope else s
  let s2 := if holds then ((s1.setCtx main Ctx.empty).setCtx main.other Ctx.empty).setPartAt t.core t.part
      { s1.partAt t.core t.part with trackers := [] } else s1
  let s3 := s2.setTask id { s2.taskAt id with state := .done, ending := e, trapOpen := false, waitsOn := [], retryAt := none,
                                              retryOn := [], endDue := decide (t.ckind = 2) }
  let s4 := gangLeave (roleDone (leaveWaiters s3 id) t.gang t.core t.role) t.gang
  let status := match e with | .good => 0 | .faulted => 1 | .killed => 2
  match t.ckind with
  | 1 => taskLeaves (counterEvent s4 (t.ctgt / 2 ^ 14 % 8) (t.ctgt % 2 ^ 14)) id
  | 2 =>
    let due : DueRecord := { ring := signWord t.ctgt 57, body := completionRecord s4.time id 0 t.colour fcode 0 status,
                             colour := t.colour, scope := BitVec.ofNat 3 t.cscope, task := some id, unit := none, tracker := none }
    { s4 with sched := { s4.sched with due := s4.sched.due ++ [due] } }
  | _ => taskLeaves s4 id

/-- Spoil the block that a task still generates (R254). -/
def spoilGen (s : State) (id : Nat) (code : Nat) : State :=
  match genBlock s id with
  | some b => leaveTurning s b false (BitVec.ofNat 16 code)
  | none => s

/-! ### Parking (R266) -/

/-- A trap record of a task waits to be posted (R269). -/
def owe (s : State) (id : Nat) (r : BitVec 1024) : State := s.setTask id { s.taskAt id with pending := some r }

/-- The place of a cause in the order of one element's checks (R264). -/
def causeRank (t : Trap) : Nat := match t.cause with
  | .misaligned => 0
  | .bounds => 1
  | .frameinuse => 2
  | .contain => 3
  | .page => 4
  | .perm => if t.detail = 5 then 8 else 5
  | .atomirrev => if t.detail = 2 then 10 else 6
  | .amotype => 7
  | .fillfail => 8
  | .poison => if t.detail = 3 then 4 else 9
  | _ => 9

/-- The trap of an element that makes several accesses: of the cause that its checks find first, at the first access
that has it. -/
def firstCause : List Trap → Option Trap
  | [] => none
  | t :: ts => match firstCause ts with
    | some u => if causeRank u < causeRank t then some u else some t
    | none => some t

/-- The places of a spill area that a park writes. It fails with the cause that the checks of R264 find first over all of
its bytes; DETAIL of PAGE and PERM is 3 (R266). -/
def spillPlaces (s : State) (w : Who) (ps : List (Nat × Nat)) : Except Halt (List (Nat × Nat)) :=
  let traps := ps.filterMap (fun p => match checkAcc s w (accGv (BitVec.ofNat 64 p.1) p.2 .spill false) true with
    | .error (.trap t) => some t
    | _ => none)
  match firstCause traps with
  | some t => .error (.trap (if t.cause = .perm then { t with detail := 3 } else t))
  | none => placesOf s w .spill ps

/-- A task as the maker of its spill write. -/
def spillWho (s : State) (id : Nat) : Who :=
  let t := s.taskAt id
  { deviceWho t.colour with core := t.core, smode := t.smode, task := id }

/-- Both contexts of a task stop, release, and are written to the spill area; the error is the fault of
that write. resume c is the PC at which context c resumes. An atomic task's tentative stores are
discarded (R35). The counters that are spilled count the park (R90). -/
def parkTask (s0 : State) (id : Nat) (resume : Bool → Word) (trap tail : Bool) : Except Halt State :=
  let s := countEvent s0 id 9 1
  let t := s.taskAt id
  let main : CtxId := { core := t.core, part := t.part, tail := false }
  let s1 := if t.atomic then
      ((s.setCtx main { s.ctx main with pend := [] }).setCtx main.other { s.ctx main.other with pend := [] }).setTask id
        { t with reads := [], writes := [], others := [], held := [] }
    else release (release s main) main.other
  let vlen := vlenOf t.split
  let note := fun (c : Bool) => ({ pc := resume c, taskId := id, tfg := (s.partAt t.core t.part).tfg,
                                   trap := trap && decide (c = tail), spad := t.spad, inPlace := false,
                                   pcsel := t.pcsel, pcnt := t.pcnt } : SpillNote)
  let (b0, in0) := contextHalf vlen (s1.ctx main) false (note false)
  let (b1, in1) := contextHalf vlen (s1.ctx main.other) true (note true)
  let w := spillWho s1 id
  let ps0 := pagePieces t.spill b0.length
  let ps := ps0 ++ pagePieces (t.spill + spillBytes t.split / 2) b1.length
  match spillPlaces s1 w ps with
  | .error h => .error h
  | .ok ls =>
      let s2 := land (noteStores s1 t.core t.colour ps) (some t.colour) (some t.core) id
        (overlay (layBytes (ls.take ps0.length) b0) (layBytes (ls.drop ps0.length) b1))
      let k := s2.taskAt id
      let s3 := s2.setTask id { k with state := .parked, inPlace := (in0, in1), touchTail := tail,
                                       wasTailPending := decide (t.state = .tailPending) || (decide (t.state = .dispatched) && t.wasTailPending) }
      let s5 := returnCopy s3 id true []
      if in0 || in1 then
        let keep := fun (b : Bool) (c : Ctx) => if b then { c with wait := none } else Ctx.empty
        .ok ((s5.setCtx main (keep in0 (s5.ctx main))).setCtx main.other (keep in1 (s5.ctx main.other)))
      else .ok (releasePartition s5 t.core t.part)

/-- The task whose park failed on its spill write: done, faulted, with a record marked FINAL (R266). The park raises the
record, not an instruction, so its PC is 0 (DESIGN CHOICE log 9). -/
def parkFails (s : State) (id : Nat) (tail : Bool) (f : Trap) : State :=
  let t := s.taskAt id
  let s1 := becomeDone (spoilGen s id (0x8000 + f.cause.code)) id .faulted f.cause.code
  owe s1 id (trapRecord f 0 t.colour id 0 tail t.smode true false)

/-! ### Taking a trap: one operation for every cause -/

/-- The address at which a trapping context resumes: the next instruction after ECALL, and the trapping
instruction otherwise (R266, R325). -/
def resumeAfter (c : Cause) (pc : Word) : Word := if c = .ecall then pc + 4 else pc

/-- An atomic task's read signature meets what others have published or committed since its start (R34). -/
def readConflict (s : State) : Bool :=
  let t := s.task
  t.atomic && !t.others.isEmpty && sigHit s t.reads t.others

/-- The verification that an access of n bytes at an address of a colour has made (R146). -/
def verifyFor (s : State) (core colour : Nat) (a : Word) (n : Nat) : State :=
  if s.badCheck.isEmpty then s
  else (pagePieces a.toNat n).foldl (fun s p => match devicePlace s core colour (gva (BitVec.ofNat 64 p.1)) with
    | some l => (sectorsAt l p.2).foldl (fun s x => verifyAt s (x * 32)) s
    | none => s) s

/-- What the access that a trap tells of has left behind: its walk (R293), and the verification of what it read. -/
def noteTrap (s : State) (core colour : Nat) (t : Trap) : State :=
  match t.cause with
  | .page | .perm | .amotype | .fillfail | .atomirrev => if inWindow t.addr then s else noteWalk s core colour t.addr
  | .poison => verifyFor (noteWalk s core colour t.addr) core colour t.addr t.span
  | _ => s

/-- The acting context traps. A generator's trap spoils its block and ends it, with a FINAL record (R254).
An irrevocable action of an atomic task whose read signature is overtaken aborts it silently (R34). Any
other task parks, both contexts are spilled, and its record awaits TRESUME or TKILL (R263 to R269). -/
def takeTrap (s0 : State) (t : Trap) : State :=
  let s := noteTrap s0 s0.turn.core s0.task.colour t
  let id := s.taskId
  let k := s.task
  let pc := s.pc
  let tail := s.turn.tail
  if t.cause = .atomirrev ∧ readConflict s then abortTask s id []
  else if (genBlock s id).isSome then
    let s1 := becomeDone (spoilGen s id (0x8000 + t.cause.code)) id .faulted t.cause.code
    owe s1 id (trapRecord t pc k.colour id 0 tail k.smode true false)
  else
    let resume := fun (c : Bool) =>
      if c = tail then resumeAfter t.cause pc else (s.ctx { s.turn with tail := c }).pc
    match parkTask s id resume true tail with
    | .ok s1 =>
      let s2 := s1.setTask id { s1.taskAt id with trapOpen := true }
      owe s2 id (trapRecord t pc k.colour id k.spill tail k.smode false true)
    | .error (.trap f) => parkFails s id tail f
    | .error (.wait w) => waitOn s w
    | .error (.park _) => s

/-- Ask for every block in turn; false where some request must be tried again after back-off. -/
def requestAll (s : State) (w : Waiter) (task : Nat) : List BlockId → State × Bool
  | [] => (s, true)
  | b :: bs =>
    match request s b w task with
    | some s1 => requestAll s1 w task bs
    | none => let r := requestAll s w task bs; (r.1, false)

/-- The blocks that are TURNING. -/
def turningOf (s : State) (bs : List BlockId) : List BlockId := bs.filter (fun b => decide (fillState s b = .turning))

/-- A requester has joined the waiter list of a block. -/
def joinedBy (s : State) (w : Waiter) (b : BlockId) : Bool := match fillOf s b with
  | some f => f.waiters.contains w
  | none => false

/-- A task has joined it. -/
def joined (s : State) (id : Nat) (b : BlockId) : Bool := joinedBy s (.task id) b

/-- The requests of a parking instruction for its blocks: it waits for those whose list it has joined. A requester that
must retry is dispatched again 4 µs later (R249), and the fill unit counts it. -/
def askFills (s : State) (id : Nat) (bs : List BlockId) : State :=
  let (s1, all) := requestAll s (.task id) id bs
  let s2 := if all then s1 else { s1 with fill := { s1.fill with retries := s1.fill.retries + 1 } }
  s2.setTask id { s2.taskAt id with waitsOn := bs.filter (joined s2 id),
                                    retryOn := if all then [] else bs.filter (fun b => !joined s2 id b && decide (fillState s2 b ≠ .filled)),
                                    retryAt := if all then none else some (s2.time + 4000) }

/-- The fills that an instruction of a task starts which does not come back to them (R247). -/
def startFills (s : State) (id : Nat) (bs : List BlockId) : State := leaveWaiters (requestAll s (.task id) id bs).1 id

/-- A park on procedural blocks (R246, R247, R250). An atomic task returns to queued and is withheld until
the blocks have left TURNING (R35). -/
def parkOn (s : State) (blocks : List BlockId) : State :=
  let id := s.taskId
  let bs := blocks.eraseDups
  if s.task.atomic then
    let (s1, all) := requestAll s (.task id) id bs
    let s2 := abortTask (if all then s1 else { s1 with fill := { s1.fill with retries := s1.fill.retries + 1 } }) id (bs.filter (joined s1 id))
    s2.setTask id { s2.taskAt id with retryAt := if all then none else some (s2.time + 4000),
                                      retryOn := if all then [] else bs.filter (fun b => !joined s1 id b && decide (fillState s1 b ≠ .filled)) }
  else
    let resume := fun (c : Bool) => (s.ctx { s.turn with tail := c }).pc
    match parkTask s id resume false s.turn.tail with
    | .ok s1 => askFills s1 id bs
    | .error (.trap f) => parkFails s id s.turn.tail f
    | .error (.wait w) => waitOn s w
    | .error (.park _) => s

/-- A trap of an instruction whose other elements park: their fills start all the same (R247), whatever the trap makes of
the task. A generator's are nested in the fill that its trap ends, so they start before it (R251, R255). -/
def trapWithParks (s : State) (t : Trap) (blocks : List BlockId) : State :=
  let id := s.taskId
  let s1 := if (genBlock s id).isSome then takeTrap (startFills s id blocks.eraseDups) t else takeTrap s t
  if (genBlock s id).isSome || (s1.taskAt id).live then s1
  else if (s1.taskAt id).state = .parked then askFills s1 id blocks.eraseDups
  else startFills s1 id blocks.eraseDups

/-- Some context of the task has unpublished stores to a line that another device or the host holds, so a
park cannot release yet (R162). -/
def parkHeld (s : State) : Bool := releaseHeld s s.turn || releaseHeld s s.turn.other

/-- What halts an instruction takes effect. -/
def halted (s : State) : Halt → State
  | .trap t => if parkHeld s && !s.task.atomic then waitOn s .lines else takeTrap s t
  | .park bs => if parkHeld s && !s.task.atomic then waitOn s .lines else parkOn s bs
  | .wait w => waitOn s w

/-- How an instruction that has no partial effect ends: with its effect, or halted with none. -/
def finish (s : State) : Except Halt State → Out
  | .ok s' => .next s'
  | .error h => .next (halted s h)

/-! ### The return from a trap (R267, R271) -/

/-- The record and the control block that TRESUME and TKILL read. -/
def recAt (r : BitVec 1024) (h l : Nat) : Nat := bitsOf r h l

/-- The byte place of a control block's field in the half that a record names. -/
def cbAddr (r : BitVec 1024) (split : Nat) (off : Nat) : Nat :=
  recAt r 191 128 + (if bitOf r 268 then spillBytes split / 2 else 0) + off

/-- The bytes of a task's spill area, as the core on which it parked reaches them. -/
def spillRead (s : State) (id a n : Nat) : Except Halt (List Byte) :=
  let ps := pagePieces a n
  match checkPieces s (spillWho s id) .load ps with
  | .ok ts => .ok ((ts.zip ps).flatMap (fun tp => s.mem.read tp.1.loc tp.2.2))
  | .error h => .error h

/-- Write bytes of a task's control block, which the device owns. -/
def writeCb (s : State) (id a : Nat) (bs : List Byte) : State :=
  let t := s.taskAt id
  match placesOf s (spillWho s id) .store (pagePieces a bs.length) with
  | .ok ps => land (noteStores s t.core t.colour (pagePieces a bs.length)) (some t.colour) none 0 (layBytes ps bs)
  | .error _ => s

/-- The line of a record's control block that must come back before the device may write it, where one is held (R288). -/
def cbHeld (s : State) (r : BitVec 1024) : Option Nat :=
  let id := recAt r 255 192
  awaited (placesOf s (spillWho s id) .store (pagePieces (cbAddr r (s.taskAt id).split 0) 512))

/-- The faulted-element mask of a context that is parked in place is emptied, also where a bell has saved its colour
(R266, R271, R272). -/
def emptyMask (s : State) (colour : Nat) (c : CtxId) : State :=
  if s.saved.any (fun v => decide (v.colour = colour) && (Table.find v.ctxs c.key).isSome) then
    { s with saved := s.saved.map (fun v => match decide (v.colour = colour), Table.find v.ctxs c.key with
        | true, some k => { v with ctxs := Table.set v.ctxs c.key { k with fmask := 0 } }
        | _, _ => v) }
  else s.setCtx c { s.ctx c with fmask := 0 }

/-- The record is resolved by a resume: the mask is emptied where the PC was changed, the TRAP bit is
cleared, and the task is ready as far as the trap is concerned. An atomic task is queued again from its
header (R35). -/
def resumeTask (s : State) (r : BitVec 1024) (cbPc : Nat) : State :=
  let id := recAt r 255 192
  let t := s.taskAt id
  let c : CtxId := { core := t.core, part := t.part, tail := bitOf r 268 }
  let s1 := if cbPc = recAt r 63 0 then s
    else
      let a := writeCb (writeCb s id (cbAddr r t.split 280) (List.replicate 8 0)) id (cbAddr r t.split 416)
        (List.replicate 2 0)
      if (if c.tail then t.inPlace.2 else t.inPlace.1) then emptyMask a t.colour c else a
  let st := (spillRead s1 id (cbAddr r t.split 448) 1).toOption.getD [0]
  let s2 := writeCb s1 id (cbAddr r t.split 448) [(st.headD 0) &&& 0xFB#8]
  let s3 := s2.setTask id { s2.taskAt id with trapOpen := false }
  if t.atomic then
    let s4 := if (s3.partAt t.core t.part).task = some id then releasePartition s3 t.core t.part else s3
    returnCopy (s4.setTask id { s4.taskAt id with state := .queued, retryAt := none, retryOn := [] }) id false t.waitsOn
  else s3

/-- A parked task is killed: a generator's block is spoiled, the TRAP bit is cleared, and the task is done. -/
def killTask (s : State) (r : BitVec 1024) : State :=
  let id := recAt r 255 192
  let t := s.taskAt id
  let st := (spillRead s id (cbAddr r t.split 448) 1).toOption.getD [0]
  let s1 := writeCb s id (cbAddr r t.split 448) [(st.headD 0) &&& 0xFB#8]
  becomeDone (spoilGen s1 id 0xFFFF) id .killed 0

/-- A parked task returns to a partition: both contexts are rebuilt from the spill area (R267). none where
the area cannot be read. -/
def restoreTask (s : State) (id core part : Nat) : Option State :=
  let t := s.taskAt id
  let half := spillBytes t.split / 2
  match spillRead s id t.spill half, spillRead s id (t.spill + half) half with
  | .ok b0, .ok b1 =>
    let main : CtxId := { core := core, part := part, tail := false }
    let vlen := vlenOf t.split
    let s0 := noteRange s (spillWho s id) (pagePieces t.spill (2 * half))
    let s1 := (s0.setCtx main (rebuild vlen b0 (s.ctx main))).setCtx main.other (rebuild vlen b1 (s.ctx main.other))
    let tfg := Tfg.ofWord (BitVec.ofNat 128 (bytesAt b0 432 16))
    let words := fun (o : Nat) => (upTo 8).foldl (fun (u : Table Word) i => Table.set u i (BitVec.ofNat 64 (bytesAt b0 (o + 8 * i) 8))) []
    let s2 := s1.setPartAt core part { s1.partAt core part with task := some id, tfg := tfg }
    let s3 := s2.setTask id { s2.taskAt id with state := .dispatched, core := core, part := part, inPlace := (false, false),
                                                pcsel := words 464, pcnt := words 528, retryAt := none, retryOn := [] }
    let s4 := takeOut (onCopy s3 id (fun e => { e with run := true })) id
    some (acquire { s4 with sched := { s4.sched with readyQ := s4.sched.readyQ.filter (fun x => x ≠ id) } } core 3)
  | _, _ => none

/-! ### Issue (R25, R30) -/

/-- The first instruction of a dispatched task issues; a context that was woken no longer makes it wait. -/
def beginIssue (s : State) : State :=
  let t := s.task
  match t.state with
  | .dispatched => s.setMyTask { t with state := if t.wasTailPending then .tailPending else .running, wasTailPending := false }
  | .waiting => s.setMyTask { t with state := .running }
  | _ => s

/-- An atomic task has touched a block since it started: its read signature holds a sector of it. -/
def touchedBlock (s : State) (id : Nat) (b : BlockId) : Bool :=
  let ps := blockPages s b
  (s.taskAt id).reads.any (fun x => ps.any (fun p => decide (p ≤ x * 32) && decide (x * 32 < p + 4096)))

/-- A resumed waiter has re-executed its instruction: its blocks are no longer exempt from eviction, and
the codes of failed fills have been reported (R248, R254). An atomic task starts again from its header, so it comes to
that instruction later: when it touches the block, or when it stops. -/
def endExempt (s : State) (id : Nat) (tail : Bool) : State :=
  if s.fill.exempt.isEmpty && s.fill.codes.isEmpty then s
  else
    let t := s.taskAt id
    let spent := fun (b : BlockId) => if t.atomic && (t.live || decide (t.state = .queued)) then touchedBlock s id b else decide (t.touchTail = tail)
    { s with fill := { s.fill with exempt := s.fill.exempt.filter (fun x => !(decide (x.1 = Waiter.task id) && spent x.2)),
                                   codes := s.fill.codes.filter (fun x => !(decide (x.1 = id) && spent x.2.1)) } }

end Sys2Proof.Machine
end

