-- ==== Sys2Proof/Machine/Operands.lean ====
section
/-! DEFINITION. Vector operands: the element type in force (R72, R85), the execution checks (R82, R109), which
elements are active (R16, R265), elements of a tile (R17 to R19), the operand b (R374), and the positions
that an instruction does not compute (R358). -/

namespace Sys2Proof.Machine

/-! ### The element type in force -/

/-- The element type that an instruction uses: format code, element width in bits, block length (0 where the
type is no block type), and whether et overrides VTY. -/
structure ElTy where
  fmt  : Nat
  sew  : Nat
  blen : Nat
  ovr  : Bool
  deriving DecidableEq, Repr

/-- The type in VTY. -/
def vtyType (t : Word) : ElTy := { fmt := vtyFmt t, sew := vtySew t, blen := blenOf (vtyBlen t), ovr := false }

/-- A type that an et code names. -/
def overType (fmt sew : Nat) : ElTy := { fmt := fmt, sew := sew, blen := 0, ovr := true }

/-- Group VI (R72). -/
def intType (vty : Word) (et : BitVec 3) : ElTy := match et.toNat with
  | 1 => overType 0 8
  | 2 => overType 0 16
  | 3 => overType 0 32
  | 4 => overType 0 64
  | _ => vtyType vty

/-- Group VF, and MSTC (R72). -/
def fltType (vty : Word) (et : BitVec 3) : ElTy := match et.toNat with
  | 1 => overType 1 64
  | 2 => overType 2 32
  | 3 => overType 3 16
  | 4 => overType 4 16
  | 5 => overType 5 8
  | 6 => overType 6 8
  | _ => vtyType vty

/-- The vector forms of group VM: an element width (R72). -/
def memType (vty : Word) (et : BitVec 3) : ElTy := intType vty et

/-- GF and VL of the acting context. -/
def State.gf (s : State) : Nat := vtyGf s.me.vty

/-- RCAP, the elements of a row (R17). -/
def State.rcap (s : State) (sew : Nat) : Nat := s.lanes * 512 / sew
/-- VLMAX at a width (R22). -/
def State.vlmaxAt (s : State) (sew : Nat) : Nat := vlmax s.lanes sew s.gf

/-! ### Execution checks -/

/-- C, the scale registers of a block-format tile (R109). -/
def scaleRegs (gf : Nat) : Nat := (gf + 7) / 8

/-- A tile field is refused: its register is not a multiple of GF (R19), or a block type's scale registers
pass v31 (R109). -/
def tileBad (gf blen r : Nat) : Bool :=
  decide (r % gf ≠ 0) || (decide (blen ≠ 0) && decide (32 < r + gf + scaleRegs gf))

/-- The rounding mode that an rm field selects (R73): 0 RNE, 1 RTZ, 2 RDN, 3 RUP, 4 RMM; 5 and above where
VFCSR.FRM holds no mode. -/
def State.roundMode (s : State) (rm : BitVec 3) : Nat := if rm = 7 then bitsOf s.me.vfcsr 7 5 else rm.toNat

/-- The checks of R82 for a form that depends on VTY. -/
def vecCheck (s : State) (ty : ElTy) (accepts : Bool) (tiles : List Reg) (rm : Option (BitVec 3)) : Except Halt Unit :=
  illegalIf (vtyIll s.me.vty || !accepts
    || (ty.ovr && decide (s.vlmaxAt ty.sew < s.vl))
    || tiles.any (fun r => tileBad s.gf ty.blen r.toNat)
    || (match rm with | some r => decide (4 < s.roundMode r) | none => false))

/-! ### Active elements -/

/-- The elements that a mask operand selects (R15). -/
def State.maskSel (s : State) (m : MaskSel) : Mask := match m.mm.toNat with
  | 0 => BitVec.allOnes 65536
  | 1 => s.me.top
  | 2 => s.k m.k.toNat
  | _ => s.me.top &&& s.k m.k.toNat

/-- Elements 0 to VL − 1 that are active under mm. -/
def State.selected (s : State) (m : MaskSel) : List Nat := setBits (s.maskSel m) s.vl

/-- Elements that are active: those active under mm and, while FMASK.ANY is 1, marked in the
faulted-element mask (R265). -/
def State.active (s : State) (m : MaskSel) : List Nat :=
  if s.me.fmask = 0 then s.selected m else (s.selected m).filter (fun i => s.me.fmask.getLsbD i)

/-! ### Elements of a tile -/

/-- Element j of the tile at register r (R17, R18). -/
def State.elem (s : State) (r sew j : Nat) : Nat :=
  let q := j % s.rcap sew
  bitsOf (s.v (r + j / s.rcap sew)) (q * sew + sew - 1) (q * sew)

/-- Write element j of the tile at register r. -/
def State.setElem (s : State) (r sew j v : Nat) : State :=
  let q := j % s.rcap sew
  let n := r + j / s.rcap sew
  s.setV n (putBits (s.v n) (q * sew + sew - 1) (q * sew) v)

/-- Write several elements of a tile. -/
def State.setElems (s : State) (r sew : Nat) : List (Nat × Nat) → State
  | [] => s
  | (j, v) :: vs => State.setElems (s.setElem r sew j v) r sew vs

/-- The operand b of element i at a width (R374). -/
def State.srcB (s : State) (b : Src) (sew i : Nat) : Nat := match b with
  | .vec r => s.elem r.toNat sew i
  | .xreg r => (s.x r).toNat % 2 ^ sew
  | .imm n => (BitVec.ofInt sew (signNat n.toNat 13)).toNat

/-- The vector tile that b names, if it names one. -/
def Src.tiles : Src → List Reg
  | .vec r => [r]
  | _ => []

/-! ### Positions that an instruction does not compute (R358) -/

/-- All ones of a width. -/
def onesOf (sew : Nat) : Nat := 2 ^ sew - 1

/-- The 64-bit word of a tile in which element j lies: its number, counted over the tile's rows. -/
def State.wordOf (s : State) (sew j : Nat) : Nat := j / s.rcap sew * (s.lanes * 8) + j % s.rcap sew * sew / 64

/-- The positions that become all ones by free choice: inactive elements where MA is 1, each on its own, and
positions from lo to VLMAX − 1 where TA is 1, each 64-bit word on its own. A free value decides. -/
def State.agnosticOnes (s : State) (sew : Nat) (inactive : List Nat) (lo free : Nat) : List Nat :=
  (if vtyMa s.me.vty then inactive.filter (fun i => free.testBit (2 * i)) else [])
  ++ (if vtyTa s.me.vty then
        ((upTo (s.vlmaxAt sew - lo)).map (· + lo)).filter (fun j => free.testBit (2 * s.wordOf sew j + 1))
      else [])

/-- Elements below VL that are inactive under mm. An element that only the faulted-element mask makes
inactive keeps its value, as a completed element must (DEDUCED log 16). -/
def State.unselected (s : State) (m : MaskSel) : List Nat :=
  (upTo s.vl).filter (fun i => !(s.maskSel m).getLsbD i)

/-- Apply the mask and tail rules to a destination tile whose tail starts at lo. Nothing is drawn while MA and
TA are 0, and with VL = 0 nothing is written (R375). -/
def State.agnosticFrom (s : State) (r sew : Nat) (inactive : List Nat) (lo : Nat) : State :=
  if (!vtyMa s.me.vty && !vtyTa s.me.vty) || decide (s.vl = 0) then s
  else
    let (f, s1) := s.draw
    s1.setElems r sew ((s1.agnosticOnes sew inactive lo f).map (fun j => (j, onesOf sew)))

/-- Apply them to a tile whose tail starts at VL. -/
def State.agnostic (s : State) (r sew : Nat) (inactive : List Nat) : State := s.agnosticFrom r sew inactive s.vl

/-- Apply them to a destination k register, bit by bit (R375). -/
def State.agnosticK (s : State) (r sew : Nat) (inactive : List Nat) : State :=
  if (!vtyMa s.me.vty && !vtyTa s.me.vty) || decide (s.vl = 0) then s
  else
    let (f, s1) := s.draw
    let bits := (if vtyMa s.me.vty then inactive else [])
      ++ (if vtyTa s.me.vty then (upTo (s.vlmaxAt sew - s.vl)).map (· + s.vl) else [])
    s1.setK r (s1.k r ||| maskOf (bits.filter (fun i => f.testBit i)))

/-- Set bits of a mask to given values. -/
def putMask (m : Mask) : List (Nat × Bool) → Mask
  | [] => m
  | (i, b) :: l => putMask (putBits m i i (if b then 1 else 0)) l

/-- The faulted-element mask is empty. -/
def State.clearFmask (s : State) : State := s.setMe { s.me with fmask := 0 }

end Sys2Proof.Machine
end

