-- ==== Sys2Proof/Machine/Flags.lean ====
section
/-! DEFINITION. The VFCSR flags (R87), and how element forms end: results, flags, and the positions that they
do not compute (R375). -/

namespace Sys2Proof.Machine

/-! ### Flags -/

def flNV : Nat := 16
def flDZ : Nat := 8
def flOF : Nat := 4
def flUF : Nat := 2
def flNX : Nat := 1

/-- Flags accumulate: an instruction sets a flag and never clears one (R87). -/
def State.raise (s : State) (fl : Nat) : State :=
  if fl = 0 then s else s.setMe { s.me with vfcsr := s.me.vfcsr ||| BitVec.ofNat 64 (fl % 32) }

/-- The flags of several elements. -/
def orAll (l : List Nat) : Nat := l.foldl (fun a b => a ||| b) 0

/-! ### Element forms (R375) -/

/-- An element form with a vector destination: f gives the result and the flags of an active element. -/
def elementForm (s : State) (d : Reg) (sew : Nat) (m : MaskSel) (f : Nat → Nat × Nat) : State :=
  let res := (s.active m).map (fun i => (i, f i))
  let s1 := s.setElems d.toNat sew (res.map (fun r => (r.1, r.2.1)))
  ((s1.raise (orAll (res.map (fun r => r.2.2)))).agnostic d.toNat sew (s.unselected m)).clearFmask.retire 8

/-- An element form with a k destination (R375). -/
def compareForm (s : State) (d : Reg) (sew : Nat) (m : MaskSel) (f : Nat → Bool × Nat) : State :=
  let res := (s.active m).map (fun i => (i, f i))
  let s1 := s.setK d.toNat (putMask (s.k d.toNat) (res.map (fun r => (r.1, r.2.1))))
  ((s1.raise (orAll (res.map (fun r => r.2.2)))).agnosticK d.toNat sew (s.unselected m)).clearFmask.retire 8

/-- A form with an x destination, without flags. -/
def scalarForm (s : State) (d : Reg) (v : Word) : State := (s.setX d v).clearFmask.retire 8

end Sys2Proof.Machine
end

