-- ==== Sys2Proof/Machine/VecInt.lean ====
section
/-! DEFINITION. Group VI (R74, R380 to R388, R401, R406 to R409): element-wise integer forms, compares,
permutes, moves, reductions, scans, and counts of mask bits. -/

namespace Sys2Proof.Machine

/-! ### Functions of two elements (R381): SEW, a and b give the result and the flags -/

/-- A signed number clamped to n bits, with OF where it is clamped. -/
def clampS (n : Nat) (x : Int) : Nat × Nat :=
  if 2 ^ (n - 1) - 1 < x then (2 ^ (n - 1) - 1, flOF)
  else if x < -(2 ^ (n - 1) : Int) then (2 ^ (n - 1), flOF)
  else ((BitVec.ofInt n x).toNat, 0)

/-- An unsigned number clamped to n bits, with OF where it is clamped. -/
def clampU (n : Nat) (x : Int) : Nat × Nat :=
  if 2 ^ n - 1 < x then (2 ^ n - 1, flOF) else if x < 0 then (0, flOF) else (x.toNat, 0)

/-- A result modulo 2^n without flags. -/
def wrapN (n : Nat) (x : Nat) : Nat × Nat := (x % 2 ^ n, 0)
/-- A signed result modulo 2^n without flags. -/
def wrapI (n : Nat) (x : Int) : Nat × Nat := ((BitVec.ofInt n x).toNat, 0)

/-- Signed quotient and remainder of n bits. -/
def divS (n a b : Nat) : Nat := if b = 0 then onesOf n else (BitVec.ofInt n ((signNat a n).tdiv (signNat b n))).toNat
def remS (n a b : Nat) : Nat := if b = 0 then a else (BitVec.ofInt n ((signNat a n).tmod (signNat b n))).toNat

/-- Minimum and maximum, signed. -/
def minS (n a b : Nat) : Nat := if signNat b n < signNat a n then b else a
def maxS (n a b : Nat) : Nat := if signNat a n < signNat b n then b else a

/-! ### Forms -/

/-- The checks of group VI: SEW is 8 to 64 (R74). -/
def viCheck (s : State) (et : BitVec 3) (tiles : List Reg) : Except Halt Unit :=
  let ty := intType s.me.vty et
  vecCheck s ty (decide (8 ≤ ty.sew)) tiles none

/-- A form of two sources. -/
def viForm (o : VecOp) (f : Nat → Nat → Nat → Nat × Nat) (s : State) : Out :=
  let n := (intType s.me.vty o.et).sew
  finish s (do
    viCheck s o.et ([o.d, o.s1] ++ Src.tiles o.b)
    .ok (elementForm s o.d n o.m (fun i => f n (s.elem o.s1.toNat n i) (s.srcB o.b n i))))

/-- A compare into a k register (R387). -/
def viCompare (o : VecOp) (f : Nat → Nat → Nat → Bool) (s : State) : Out :=
  let n := (intType s.me.vty o.et).sew
  finish s (do
    viCheck s o.et ([o.s1] ++ Src.tiles o.b)
    .ok (compareForm s o.d n o.m (fun i => (f n (s.elem o.s1.toNat n i) (s.srcB o.b n i), 0))))

/-- The distance or index that X[s2] or the immediate gives, as an unsigned 64-bit value (R406, R409). -/
def viDistance (s : State) (b : Src) : Nat := match b with
  | .xreg r => (s.x r).toNat
  | .imm n => (BitVec.ofInt 64 (signNat n.toNat 13)).toNat
  | .vec _ => 0

/-- Write results at the listed elements of a tile, and let the rest follow the mask rule on `inactive` and
the tail rule from lo. With VL = 0 nothing is written (R375). -/
def viPut (s : State) (d : Reg) (n : Nat) (vals : List (Nat × Nat)) (inactive : List Nat) (lo : Nat) : State :=
  if s.vl = 0 then s.clearFmask.retire 8
  else ((s.setElems d.toNat n vals).agnosticFrom d.toNat n inactive lo).clearFmask.retire 8

/-- A reduction (R408): f combines, from the identity. -/
def viReduce (o : VecUn) (ident : Nat → Nat) (f : Nat → Nat → Nat → Nat) (s : State) : Out :=
  let n := (intType s.me.vty o.et).sew
  finish s (do
    viCheck s o.et [o.d, o.s1]
    let r := (s.active o.m).foldl (fun acc i => f n acc (s.elem o.s1.toNat n i)) (ident n)
    .ok (viPut s o.d n [(0, r)] [] 1))

/-- Running reductions of elements in ascending order. -/
def running (f : Nat → Nat → Nat) : Nat → List (Nat × Nat) → List (Nat × Nat)
  | _, [] => []
  | acc, (i, v) :: l => (i, f acc v) :: running f (f acc v) l

/-- A scan (R408). -/
def viScan (o : VecUn) (ident : Nat → Nat) (f : Nat → Nat → Nat → Nat) (s : State) : Out :=
  let n := (intType s.me.vty o.et).sew
  finish s (do
    viCheck s o.et [o.d, o.s1]
    let vals := running (f n) (ident n) ((s.active o.m).map (fun i => (i, s.elem o.s1.toNat n i)))
    .ok (viPut s o.d n vals (s.unselected o.m) s.vl))

/-! ### Element-wise forms (R381) -/

/-- VADD (R381). -/
def execVadd (o : VecOp) (s : State) : Out := viForm o (fun n a b => wrapN n (a + b)) s
/-- VSUB (R381). -/
def execVsub (o : VecOp) (s : State) : Out := viForm o (fun n a b => wrapN n (a + 2 ^ n - b)) s
/-- VMUL (R381). -/
def execVmul (o : VecOp) (s : State) : Out := viForm o (fun n a b => wrapN n (a * b)) s
/-- VMULH (R381). -/
def execVmulh (o : VecOp) (s : State) : Out := viForm o (fun n a b => wrapI n (signNat a n * signNat b n / 2 ^ n)) s
/-- VMULHU (R381). -/
def execVmulhu (o : VecOp) (s : State) : Out := viForm o (fun n a b => wrapN n (a * b / 2 ^ n)) s
/-- VDIV (R381). -/
def execVdiv (o : VecOp) (s : State) : Out := viForm o (fun n a b => (divS n a b, 0)) s
/-- VDIVU (R381). -/
def execVdivu (o : VecOp) (s : State) : Out := viForm o (fun n a b => (if b = 0 then onesOf n else a / b, 0)) s
/-- VREM (R381). -/
def execVrem (o : VecOp) (s : State) : Out := viForm o (fun n a b => (remS n a b, 0)) s
/-- VREMU (R381). -/
def execVremu (o : VecOp) (s : State) : Out := viForm o (fun _ a b => (if b = 0 then a else a % b, 0)) s
/-- VMIN (R381). -/
def execVmin (o : VecOp) (s : State) : Out := viForm o (fun n a b => (minS n a b, 0)) s
/-- VMINU (R381). -/
def execVminu (o : VecOp) (s : State) : Out := viForm o (fun _ a b => (min a b, 0)) s
/-- VMAX (R381). -/
def execVmax (o : VecOp) (s : State) : Out := viForm o (fun n a b => (maxS n a b, 0)) s
/-- VMAXU (R381). -/
def execVmaxu (o : VecOp) (s : State) : Out := viForm o (fun _ a b => (max a b, 0)) s
/-- VAND (R381). -/
def execVand (o : VecOp) (s : State) : Out := viForm o (fun _ a b => (a &&& b, 0)) s
/-- VOR (R381). -/
def execVor (o : VecOp) (s : State) : Out := viForm o (fun _ a b => (a ||| b, 0)) s
/-- VXOR (R381). -/
def execVxor (o : VecOp) (s : State) : Out := viForm o (fun _ a b => (a ^^^ b, 0)) s
/-- VSLL (R381). -/
def execVsll (o : VecOp) (s : State) : Out := viForm o (fun n a b => wrapN n (a * 2 ^ (b % n))) s
/-- VSRL (R381). -/
def execVsrl (o : VecOp) (s : State) : Out := viForm o (fun n a b => (a / 2 ^ (b % n), 0)) s
/-- VSRA (R381). -/
def execVsra (o : VecOp) (s : State) : Out := viForm o (fun n a b => wrapI n (signNat a n / 2 ^ (b % n))) s
/-- VSADD (R381). -/
def execVsadd (o : VecOp) (s : State) : Out := viForm o (fun n a b => clampS n (signNat a n + signNat b n)) s
/-- VSADDU (R381). -/
def execVsaddu (o : VecOp) (s : State) : Out := viForm o (fun n a b => clampU n ((a : Int) + b)) s
/-- VSSUB (R381). -/
def execVssub (o : VecOp) (s : State) : Out := viForm o (fun n a b => clampS n (signNat a n - signNat b n)) s
/-- VSSUBU (R381). -/
def execVssubu (o : VecOp) (s : State) : Out := viForm o (fun n a b => clampU n ((a : Int) - b)) s
/-- VMV (R381). -/
def execVmv (o : VecOp) (s : State) : Out := viForm o (fun _ _ b => (b, 0)) s
/-- VBCAST (R385). -/
def execVbcast (o : VecOp) (s : State) : Out := viForm o (fun _ _ b => (b, 0)) s

/-! ### Compares (R387) -/

/-- VCMP.EQ (R387). -/
def execVcmpEq (o : VecOp) (s : State) : Out := viCompare o (fun _ a b => decide (a = b)) s
/-- VCMP.NE (R387). -/
def execVcmpNe (o : VecOp) (s : State) : Out := viCompare o (fun _ a b => decide (a ≠ b)) s
/-- VCMP.LT (R387). -/
def execVcmpLt (o : VecOp) (s : State) : Out := viCompare o (fun n a b => decide (signNat a n < signNat b n)) s
/-- VCMP.LE (R387). -/
def execVcmpLe (o : VecOp) (s : State) : Out := viCompare o (fun n a b => decide (signNat a n ≤ signNat b n)) s
/-- VCMP.GT (R387). -/
def execVcmpGt (o : VecOp) (s : State) : Out := viCompare o (fun n a b => decide (signNat b n < signNat a n)) s
/-- VCMP.GE (R387). -/
def execVcmpGe (o : VecOp) (s : State) : Out := viCompare o (fun n a b => decide (signNat b n ≤ signNat a n)) s
/-- VCMP.LTU (R387). -/
def execVcmpLtu (o : VecOp) (s : State) : Out := viCompare o (fun _ a b => decide (a < b)) s
/-- VCMP.LEU (R387). -/
def execVcmpLeu (o : VecOp) (s : State) : Out := viCompare o (fun _ a b => decide (a ≤ b)) s
/-- VCMP.GTU (R387). -/
def execVcmpGtu (o : VecOp) (s : State) : Out := viCompare o (fun _ a b => decide (b < a)) s
/-- VCMP.GEU (R387). -/
def execVcmpGeu (o : VecOp) (s : State) : Out := viCompare o (fun _ a b => decide (b ≤ a)) s

/-! ### Permutes and moves (R388, R406, R407, R409) -/

/-- VPERM (R407). -/
def execVperm (o : VecOp) (s : State) : Out :=
  let n := (intType s.me.vty o.et).sew
  finish s (do
    viCheck s o.et ([o.d, o.s1] ++ Src.tiles o.b)
    .ok (elementForm s o.d n o.m (fun i =>
      let j := s.srcB o.b n i
      (if j < s.vl then s.elem o.s1.toNat n j else 0, 0))))
/-- VSLIDE.UP (R409): element i below the distance keeps its value. -/
def execVslideUp (o : VecOp) (s : State) : Out :=
  let n := (intType s.me.vty o.et).sew
  finish s (do
    viCheck s o.et [o.d, o.s1]
    let t := viDistance s o.b
    let vals := ((s.active o.m).filter (fun i => decide (t ≤ i))).map (fun i => (i, s.elem o.s1.toNat n (i - t)))
    .ok (viPut s o.d n vals (s.unselected o.m) s.vl))
/-- VSLIDE.DN (R409). -/
def execVslideDn (o : VecOp) (s : State) : Out :=
  let n := (intType s.me.vty o.et).sew
  finish s (do
    viCheck s o.et [o.d, o.s1]
    let t := viDistance s o.b
    .ok (elementForm s o.d n o.m (fun i => (if i + t < s.vl then s.elem o.s1.toNat n (i + t) else 0, 0))))
/-- VMVXS (R406). -/
def execVmvxs (o : VecOp) (s : State) : Out :=
  let n := (intType s.me.vty o.et).sew
  finish s (do
    viCheck s o.et [o.s1]
    let j := viDistance s o.b
    .ok (scalarForm s o.d (if (s.active o.m).contains j then signWord (s.elem o.s1.toNat n j) n else 0)))
/-- VCMPRS (R388): the tail starts after the packed elements, and the mask rule does not apply. -/
def execVcmprs (o : VecUn) (s : State) : Out :=
  let n := (intType s.me.vty o.et).sew
  finish s (do
    viCheck s o.et [o.d, o.s1]
    let vals := (s.active o.m).map (fun i => s.elem o.s1.toNat n i)
    .ok (viPut s o.d n ((upTo vals.length).zip vals) [] vals.length))

/-! ### Reductions and scans (R408) -/

/-- VRED.ADD (R408). -/
def execVredAdd (o : VecUn) (s : State) : Out := viReduce o (fun _ => 0) (fun n a b => (a + b) % 2 ^ n) s
/-- VRED.MIN (R408). -/
def execVredMin (o : VecUn) (s : State) : Out := viReduce o (fun n => 2 ^ (n - 1) - 1) (minS) s
/-- VRED.MAX (R408). -/
def execVredMax (o : VecUn) (s : State) : Out := viReduce o (fun n => 2 ^ (n - 1)) (maxS) s
/-- VRED.MINU (R408). -/
def execVredMinu (o : VecUn) (s : State) : Out := viReduce o (onesOf) (fun _ a b => min a b) s
/-- VRED.MAXU (R408). -/
def execVredMaxu (o : VecUn) (s : State) : Out := viReduce o (fun _ => 0) (fun _ a b => max a b) s
/-- VRED.AND (R408). -/
def execVredAnd (o : VecUn) (s : State) : Out := viReduce o (onesOf) (fun _ a b => a &&& b) s
/-- VRED.OR (R408). -/
def execVredOr (o : VecUn) (s : State) : Out := viReduce o (fun _ => 0) (fun _ a b => a ||| b) s
/-- VRED.XOR (R408). -/
def execVredXor (o : VecUn) (s : State) : Out := viReduce o (fun _ => 0) (fun _ a b => a ^^^ b) s
/-- VSCAN.ADD (R408). -/
def execVscanAdd (o : VecUn) (s : State) : Out := viScan o (fun _ => 0) (fun n a b => (a + b) % 2 ^ n) s
/-- VSCAN.MIN (R408). -/
def execVscanMin (o : VecUn) (s : State) : Out := viScan o (fun n => 2 ^ (n - 1) - 1) (minS) s
/-- VSCAN.MAX (R408). -/
def execVscanMax (o : VecUn) (s : State) : Out := viScan o (fun n => 2 ^ (n - 1)) (maxS) s
/-- VSCAN.MINU (R408). -/
def execVscanMinu (o : VecUn) (s : State) : Out := viScan o (onesOf) (fun _ a b => min a b) s
/-- VSCAN.MAXU (R408). -/
def execVscanMaxu (o : VecUn) (s : State) : Out := viScan o (fun _ => 0) (fun _ a b => max a b) s

/-! ### Counts of mask bits (R401) -/

/-- The active positions below VL whose bit of K[r] is set. -/
def kHits (s : State) (r : Reg) (m : MaskSel) : List Nat := (s.active m).filter (fun i => (s.k r.toNat).getLsbD i)

/-- VPOPC (R401). -/
def execVpopc (o : VecUn) (s : State) : Out :=
  finish s (do
    viCheck s o.et []
    .ok (scalarForm s o.d (BitVec.ofNat 64 (kHits s o.s1 o.m).length)))
/-- VFIRST (R401). -/
def execVfirst (o : VecUn) (s : State) : Out :=
  finish s (do
    viCheck s o.et []
    .ok (scalarForm s o.d (match (kHits s o.s1 o.m).head? with | some i => BitVec.ofNat 64 i | none => BitVec.allOnes 64)))

end Sys2Proof.Machine
end

