-- ==== Sys2Proof/Machine/Scalar.lean ====
section
/-! DEFINITION. The standard forms (R309 to R324, R334 to R337, R343, R345, R353 to R361, R416): integer
arithmetic, branches, jumps, loads and stores. -/

namespace Sys2Proof.Machine

/-! ### Shared operations -/

/-- Write X[d] and go on to the next instruction, 4 bytes on. -/
def setReg (s : State) (d : Reg) (v : Word) : State := (s.setX d v).retire 4

/-- 1 where the comparison holds, else 0 (R360). -/
def flagWord (c : Bool) : Word := if c then 1 else 0

/-- A W form's result: bits [31:0], sign-extended (R309). -/
def low32 (v : Word) : Word := (v.setWidth 32).signExtend 64

/-- imm20 × 4,096, sign-extended from 32 bits (R320, R337). -/
def upperImm (i : BitVec 20) : Word := (i ++ 0#12).signExtend 64

/-- A branch offset, in units of 2 bytes as it is encoded (R310). -/
def branchOff (i : BitVec 12) : Word := (i ++ 0#1).signExtend 64

/-- Signed division toward zero; a divisor of 0 gives all ones (R324). -/
def divSigned {w : Nat} (a b : BitVec w) : BitVec w := if b = 0 then BitVec.allOnes w else BitVec.ofInt w (a.toInt.tdiv b.toInt)
/-- Unsigned division (R324). -/
def divUnsigned {w : Nat} (a b : BitVec w) : BitVec w := if b = 0 then BitVec.allOnes w else BitVec.ofNat w (a.toNat / b.toNat)
/-- Signed remainder, with the sign of the dividend; a divisor of 0 gives the dividend (R353). -/
def remSigned {w : Nat} (a b : BitVec w) : BitVec w := if b = 0 then a else BitVec.ofInt w (a.toInt.tmod b.toInt)
/-- Unsigned remainder (R353). -/
def remUnsigned {w : Nat} (a b : BitVec w) : BitVec w := if b = 0 then a else BitVec.ofNat w (a.toNat % b.toNat)

/-- MISALIGNED for a target whose bits [1:0] are not 0; the record's ADDR is the target (R53, R334). -/
def checkTarget (tgt : Word) : Except Halt Unit :=
  if tgt.toNat % 4 = 0 then .ok () else .error (.trap (trapAt .misaligned 0 0 tgt))

/-- A branch of n bytes: off is the distance from the instruction itself. -/
def branchForm (s : State) (taken : Bool) (off : Word) (n : Nat) : Except Halt State :=
  if taken then
    match checkTarget (s.pc + off) with
    | .ok _ => .ok (s.retireTo (s.pc + off))
    | .error h => .error h
  else .ok (s.retire n)

/-- A jump that links. -/
def jumpForm (s : State) (d : Reg) (tgt : Word) (n : Nat) : Except Halt State :=
  match checkTarget tgt with
  | .ok _ => .ok ((s.setX d (s.pc + BitVec.ofNat 64 n)).retireTo tgt)
  | .error h => .error h

/-- A scalar load access: MISALIGNED only when its bytes do not lie in one 32-byte sector (R123). -/
def loadAcc (ea : Word) (w : Nat) : Acc := accGv ea w .load (splitsSector (gva ea) w)

/-- A scalar store access (R355). -/
def storeAcc (ea : Word) (w : Nat) : Acc :=
  { accGv ea w .store (splitsSector (gva ea) w) with scalar := true, guarded := true }

/-- A standard load (R336). -/
def loadForm (s : State) (d : Reg) (ea : Word) (w : Nat) (ext : Nat → Word) : Except Halt State :=
  match checkAcc s s.who (loadAcc ea w) true with
  | .error h => .error h
  | .ok t => .ok (setReg (noteAccess s t w false) d (ext (loaded s t w)))

/-- A standard store (R354). -/
def storeForm (s : State) (ea : Word) (bytes : List Byte) : Except Halt State :=
  match checkAcc s s.who (storeAcc ea bytes.length) true with
  | .error h => .error h
  | .ok t => .ok ((storeAt s t bytes).retire 4)

/-! ### Meanings -/

/-- ADD (R312). -/
def execAdd (d a b : Reg) (s : State) : Out :=
  .next (setReg s d (s.x a + s.x b))

/-- SUB (R361). -/
def execSub (d a b : Reg) (s : State) : Out :=
  .next (setReg s d (s.x a - s.x b))

/-- AND (R317). -/
def execAnd (d a b : Reg) (s : State) : Out :=
  .next (setReg s d (s.x a &&& s.x b))

/-- OR (R345). -/
def execOr (d a b : Reg) (s : State) : Out :=
  .next (setReg s d (s.x a ||| s.x b))

/-- XOR (R416). -/
def execXor (d a b : Reg) (s : State) : Out :=
  .next (setReg s d (s.x a ^^^ s.x b))

/-- SLL (R359). -/
def execSll (d a b : Reg) (s : State) : Out :=
  .next (setReg s d (s.x a <<< (bitsOf (s.x b) 5 0)))

/-- SRL (R359). -/
def execSrl (d a b : Reg) (s : State) : Out :=
  .next (setReg s d (s.x a >>> (bitsOf (s.x b) 5 0)))

/-- SRA (R359). -/
def execSra (d a b : Reg) (s : State) : Out :=
  .next (setReg s d ((s.x a).sshiftRight (bitsOf (s.x b) 5 0)))

/-- SLT (R360). -/
def execSlt (d a b : Reg) (s : State) : Out :=
  .next (setReg s d (flagWord ((s.x a).slt (s.x b))))

/-- SLTU (R360). -/
def execSltu (d a b : Reg) (s : State) : Out :=
  .next (setReg s d (flagWord ((s.x a).ult (s.x b))))

/-- ADDW (R312). -/
def execAddw (d a b : Reg) (s : State) : Out :=
  .next (setReg s d (low32 (s.x a + s.x b)))

/-- SUBW (R361). -/
def execSubw (d a b : Reg) (s : State) : Out :=
  .next (setReg s d (low32 (s.x a - s.x b)))

/-- SLLW (R359). -/
def execSllw (d a b : Reg) (s : State) : Out :=
  .next (setReg s d (low32 (s.x a <<< (bitsOf (s.x b) 4 0))))

/-- SRLW (R359). -/
def execSrlw (d a b : Reg) (s : State) : Out :=
  .next (setReg s d (low32 (((s.x a).setWidth 32 >>> (bitsOf (s.x b) 4 0)).setWidth 64)))

/-- SRAW (R359). -/
def execSraw (d a b : Reg) (s : State) : Out :=
  .next (setReg s d (low32 ((((s.x a).setWidth 32).sshiftRight (bitsOf (s.x b) 4 0)).setWidth 64)))

/-- MUL (R343). -/
def execMul (d a b : Reg) (s : State) : Out :=
  .next (setReg s d (s.x a * s.x b))

/-- MULH (R343). -/
def execMulh (d a b : Reg) (s : State) : Out :=
  .next (setReg s d (BitVec.ofInt 64 ((s.x a).toInt * (s.x b).toInt / 2 ^ 64)))

/-- MULHSU (R343). -/
def execMulhsu (d a b : Reg) (s : State) : Out :=
  .next (setReg s d (BitVec.ofInt 64 ((s.x a).toInt * (s.x b).toNat / 2 ^ 64)))

/-- MULHU (R343). -/
def execMulhu (d a b : Reg) (s : State) : Out :=
  .next (setReg s d (BitVec.ofNat 64 ((s.x a).toNat * (s.x b).toNat / 2 ^ 64)))

/-- MULW (R343). -/
def execMulw (d a b : Reg) (s : State) : Out :=
  .next (setReg s d (low32 (s.x a * s.x b)))

/-- DIV (R324). -/
def execDiv (d a b : Reg) (s : State) : Out :=
  .next (setReg s d (divSigned (s.x a) (s.x b)))

/-- DIVU (R324). -/
def execDivu (d a b : Reg) (s : State) : Out :=
  .next (setReg s d (divUnsigned (s.x a) (s.x b)))

/-- REM (R353). -/
def execRem (d a b : Reg) (s : State) : Out :=
  .next (setReg s d (remSigned (s.x a) (s.x b)))

/-- REMU (R353). -/
def execRemu (d a b : Reg) (s : State) : Out :=
  .next (setReg s d (remUnsigned (s.x a) (s.x b)))

/-- DIVW (R324). -/
def execDivw (d a b : Reg) (s : State) : Out :=
  .next (setReg s d (((divSigned ((s.x a).setWidth 32) ((s.x b).setWidth 32)).signExtend 64)))

/-- DIVUW (R324). -/
def execDivuw (d a b : Reg) (s : State) : Out :=
  .next (setReg s d (((divUnsigned ((s.x a).setWidth 32) ((s.x b).setWidth 32)).signExtend 64)))

/-- REMW (R353). -/
def execRemw (d a b : Reg) (s : State) : Out :=
  .next (setReg s d (((remSigned ((s.x a).setWidth 32) ((s.x b).setWidth 32)).signExtend 64)))

/-- REMUW (R353). -/
def execRemuw (d a b : Reg) (s : State) : Out :=
  .next (setReg s d (((remUnsigned ((s.x a).setWidth 32) ((s.x b).setWidth 32)).signExtend 64)))

/-- ADDI (R312). -/
def execAddi (d a : Reg) (i : BitVec 12) (s : State) : Out :=
  .next (setReg s d (s.x a + i.signExtend 64))

/-- ADDIW (R312). -/
def execAddiw (d a : Reg) (i : BitVec 12) (s : State) : Out :=
  .next (setReg s d (low32 (s.x a + i.signExtend 64)))

/-- ANDI (R317). -/
def execAndi (d a : Reg) (i : BitVec 12) (s : State) : Out :=
  .next (setReg s d (s.x a &&& i.signExtend 64))

/-- ORI (R345). -/
def execOri (d a : Reg) (i : BitVec 12) (s : State) : Out :=
  .next (setReg s d (s.x a ||| i.signExtend 64))

/-- XORI (R416). -/
def execXori (d a : Reg) (i : BitVec 12) (s : State) : Out :=
  .next (setReg s d (s.x a ^^^ i.signExtend 64))

/-- SLTI (R360). -/
def execSlti (d a : Reg) (i : BitVec 12) (s : State) : Out :=
  .next (setReg s d (flagWord ((s.x a).slt (i.signExtend 64))))

/-- SLTIU (R360). -/
def execSltiu (d a : Reg) (i : BitVec 12) (s : State) : Out :=
  .next (setReg s d (flagWord ((s.x a).ult (i.signExtend 64))))

/-- SLLI (R359). -/
def execSlli (d a : Reg) (h : BitVec 6) (s : State) : Out :=
  .next (setReg s d (s.x a <<< h.toNat))

/-- SRLI (R359). -/
def execSrli (d a : Reg) (h : BitVec 6) (s : State) : Out :=
  .next (setReg s d (s.x a >>> h.toNat))

/-- SRAI (R359). -/
def execSrai (d a : Reg) (h : BitVec 6) (s : State) : Out :=
  .next (setReg s d ((s.x a).sshiftRight h.toNat))

/-- SLLIW (R359). -/
def execSlliw (d a : Reg) (h : BitVec 5) (s : State) : Out :=
  .next (setReg s d (low32 (s.x a <<< h.toNat)))

/-- SRLIW (R359). -/
def execSrliw (d a : Reg) (h : BitVec 5) (s : State) : Out :=
  .next (setReg s d (low32 (((s.x a).setWidth 32 >>> h.toNat).setWidth 64)))

/-- SRAIW (R359). -/
def execSraiw (d a : Reg) (h : BitVec 5) (s : State) : Out :=
  .next (setReg s d (low32 ((((s.x a).setWidth 32).sshiftRight h.toNat).setWidth 64)))

/-- LUI (R337). -/
def execLui (d : Reg) (i : BitVec 20) (s : State) : Out :=
  .next (setReg s d (upperImm i))

/-- AUIPC (R320): the PC is the instruction's own address. -/
def execAuipc (d : Reg) (i : BitVec 20) (s : State) : Out :=
  .next (setReg s d (s.pc + upperImm i))

/-- BEQ (R321). -/
def execBeq (a b : Reg) (i : BitVec 12) (s : State) : Out :=
  finish s (branchForm s (decide (s.x a = s.x b)) (branchOff i) 4)

/-- BNE (R321). -/
def execBne (a b : Reg) (i : BitVec 12) (s : State) : Out :=
  finish s (branchForm s (decide (s.x a ≠ s.x b)) (branchOff i) 4)

/-- BLT (R321). -/
def execBlt (a b : Reg) (i : BitVec 12) (s : State) : Out :=
  finish s (branchForm s (decide ((s.x a).slt (s.x b))) (branchOff i) 4)

/-- BGE (R321). -/
def execBge (a b : Reg) (i : BitVec 12) (s : State) : Out :=
  finish s (branchForm s (decide (¬ (s.x a).slt (s.x b))) (branchOff i) 4)

/-- BLTU (R321). -/
def execBltu (a b : Reg) (i : BitVec 12) (s : State) : Out :=
  finish s (branchForm s (decide ((s.x a).ult (s.x b))) (branchOff i) 4)

/-- BGEU (R321). -/
def execBgeu (a b : Reg) (i : BitVec 12) (s : State) : Out :=
  finish s (branchForm s (decide (¬ (s.x a).ult (s.x b))) (branchOff i) 4)

/-- JAL (R334). -/
def execJal (d : Reg) (i : BitVec 20) (s : State) : Out :=
  finish s (jumpForm s d (s.pc + (i ++ 0#1).signExtend 64) 4)

/-- JALR (R334): X[s1] is read before X[d] is written. -/
def execJalr (d a : Reg) (i : BitVec 12) (s : State) : Out :=
  finish s (jumpForm s d ((s.x a + i.signExtend 64) &&& ~~~1#64) 4)

/-- LB (R336). -/
def execLb (d a : Reg) (i : BitVec 12) (s : State) : Out :=
  finish s (loadForm s d (s.x a + i.signExtend 64) 1 (fun n => signWord n 8))

/-- LH (R336). -/
def execLh (d a : Reg) (i : BitVec 12) (s : State) : Out :=
  finish s (loadForm s d (s.x a + i.signExtend 64) 2 (fun n => signWord n 16))

/-- LW (R336). -/
def execLw (d a : Reg) (i : BitVec 12) (s : State) : Out :=
  finish s (loadForm s d (s.x a + i.signExtend 64) 4 (fun n => signWord n 32))

/-- LD (R336). -/
def execLd (d a : Reg) (i : BitVec 12) (s : State) : Out :=
  finish s (loadForm s d (s.x a + i.signExtend 64) 8 (BitVec.ofNat 64))

/-- LBU (R336). -/
def execLbu (d a : Reg) (i : BitVec 12) (s : State) : Out :=
  finish s (loadForm s d (s.x a + i.signExtend 64) 1 (BitVec.ofNat 64))

/-- LHU (R336). -/
def execLhu (d a : Reg) (i : BitVec 12) (s : State) : Out :=
  finish s (loadForm s d (s.x a + i.signExtend 64) 2 (BitVec.ofNat 64))

/-- LWU (R336). -/
def execLwu (d a : Reg) (i : BitVec 12) (s : State) : Out :=
  finish s (loadForm s d (s.x a + i.signExtend 64) 4 (BitVec.ofNat 64))

/-- SB (R354). -/
def execSb (b a : Reg) (i : BitVec 12) (s : State) : Out :=
  finish s (storeForm s (s.x a + i.signExtend 64) (bytesOf 1 (s.x b).toNat))

/-- SH (R354). -/
def execSh (b a : Reg) (i : BitVec 12) (s : State) : Out :=
  finish s (storeForm s (s.x a + i.signExtend 64) (bytesOf 2 (s.x b).toNat))

/-- SW (R354). -/
def execSw (b a : Reg) (i : BitVec 12) (s : State) : Out :=
  finish s (storeForm s (s.x a + i.signExtend 64) (bytesOf 4 (s.x b).toNat))

/-- SD (R354). -/
def execSd (b a : Reg) (i : BitVec 12) (s : State) : Out :=
  finish s (storeForm s (s.x a + i.signExtend 64) (bytesOf 8 (s.x b).toNat))

end Sys2Proof.Machine
end

