-- ==== Sys2Proof/Machine/Control.lean ====
section
/-! DEFINITION. Control: SETVL, the mask stack, element branches, jump tables, the hand-back call, TDONE,
boundaries, environment calls, and the traps of decode and fetch (R46 to R63, R81, R325 to R335, R346, R357,
R366). -/

namespace Sys2Proof.Machine

/-! ### SETVL (R357) -/

/-- SETVL with a type t of 15 bits and a request. -/
def setvlForm (s : State) (d : Reg) (req : Word) (t : BitVec 15) : State :=
  let w : Word := t.setWidth 64
  if 4 < bitsOf t 10 8 || !typeOk (bitsOf t 7 3) (bitsOf t 2 0) (bitsOf t 14 13) then
    ((s.setMe { s.me with vty := 0x8000000000000000#64, vl := 0 }).setX d 0).retire 8
  else
    let most := vlmax s.lanes (vtySew w) (vtyGf w)
    let b := blenOf (bitsOf t 14 13)
    let vl := if b = 0 then min req.toNat most else min req.toNat most / b * b
    let short := b ≠ 0 ∧ 0 < req.toNat ∧ req.toNat < b
    ((s.setMe { s.me with vty := if short then w ||| 0x8000#64 else w, vl := vl }).setX d (BitVec.ofNat 64 vl)).retire 8

/-- SETVL with its type in the word (R357). -/
def execSetvl (d s1 : Reg) (ty : BitVec 15) (s : State) : Out := .next (setvlForm s d (s.x s1) ty)
/-- SETVL with its type in X[s2] (R357). -/
def execSetvlReg (d s1 s2 : Reg) (s : State) : Out := .next (setvlForm s d (s.x s1) ((s.x s2).setWidth 15))

/-! ### The mask stack (R49, R50) -/

/-- Positions 0 to VL − 1. -/
def lowMask (vl : Nat) : Mask := BitVec.ofNat 65536 (2 ^ vl - 1)

/-- MSTKOVF: DETAIL 0 overflow, 1 underflow. -/
def stackTrap (detail : Nat) : Halt := .trap (trapOf .mstkovf detail)

/-- MPUSH (R49). -/
def execMpush (n : Reg) (s : State) : Out :=
  finish s (if 24 ≤ s.me.mstk.length then .error (stackTrap 0)
    else .ok ((s.setMe { s.me with mstk := (s.me.top &&& s.k n.toNat &&& lowMask s.vl) :: s.me.mstk }).retire 8))
/-- MINV (R49). -/
def execMinv (s : State) : Out :=
  finish s (match s.me.mstk with
    | [] => .error (stackTrap 1)
    | t :: rest =>
      let parent := rest.headD (BitVec.allOnes 65536)
      .ok ((s.setMe { s.me with mstk := (parent &&& ~~~t &&& lowMask s.vl) :: rest }).retire 8))
/-- MPOP (R49). -/
def execMpop (s : State) : Out :=
  finish s (match s.me.mstk with
    | [] => .error (stackTrap 1)
    | _ :: rest => .ok ((s.setMe { s.me with mstk := rest }).retire 8))

/-- Some element below VL of Top is set (R50). -/
def anyTop (s : State) : Bool := decide (s.me.top &&& lowMask s.vl ≠ 0)

/-- BMZ (R50). -/
def execBmz (off : BitVec 13) (s : State) : Out := finish s (branchForm s (!anyTop s) ((off ++ 0#2).signExtend 64) 8)
/-- BMNZ (R50). -/
def execBmnz (off : BitVec 13) (s : State) : Out := finish s (branchForm s (anyTop s) ((off ++ 0#2).signExtend 64) 8)

/-! ### Jump tables (R52) -/

/-- JTBL (R52, R335). -/
def execJtbl (d s1 s2 s3 : Reg) (s : State) : Out :=
  finish s
    (if s.x s2 ≤ s.x s3 then .ok (s.retire 8)
     else
       let ea := s.x s1 + 4 * s.x s3
       match checkAcc s s.who (accGv ea 4 .load (unaligned ea 4)) true with
       | .error h => .error h
       | .ok t =>
         let tgt := s.x s1 + signWord (loaded s t 4) 32
         match checkTarget tgt with
         | .error h => .error h
         | .ok _ => .ok (((noteAccess s t 4 false).setX d (s.pc + 8)).retireTo tgt))

/-! ### The hand-back call (R57 to R61) -/

/-- The vector registers that HBACK leaves undefined hold free values: register j takes free value n + j. -/
def handedV (v : Table VReg) (mask n : Nat) : Table VReg :=
  (upTo 32).map (fun j => (j, if j < 16 ∧ mask.testBit j then Table.get 0 v j else BitVec.ofNat 16384 (Config.freeBits (n + j))))

/-- The join of a frame: the acquire over the ended tail, and ARMED is cleared (R61). -/
def joinFrame (s : State) : State := (s.acquireMe 0).setPart { s.part with tfg := { s.part.tfg with armed := false } }

/-- A 57-bit address as a signed number. -/
def signed57 (a : Word) : Int := signNat a.toNat 57

/-- HBACK (R57, R333). -/
def execHback (s1 s2 : Reg) (s : State) : Out :=
  finish s
    (let sp := s.x 2
     let top := s.x s1
     if s.turn.tail then .error (.trap (trapOf .illegal 1))
     else if sp.toNat % 16 ≠ 0 ∨ top.toNat % 16 ≠ 0 ∨ signed57 top < signed57 sp then .error (.trap (trapOf .illegal 1))
     else if s.task.atomic then .error (.trap (trapOf .atomirrev 0))
     else match checkTarget (s.x 1) with
     | .error h => .error h
     | .ok _ =>
       if s.part.tfg.live then .error (.wait .tailSlot)
       else match s.readyToRelease with
       | .error h => .error h
       | .ok _ =>
         let j := (if s.part.tfg.armed then joinFrame s else s).releaseMe s.task.cscope
         let tfg : Tfg := { armed := true, live := true, base := BitVec.ofNat 53 (bitsOf sp 56 4),
                            limit := BitVec.ofNat 53 (bitsOf top 56 4) }
         let k := j.me
         let tail : Ctx := { k with pc := k.pc + 8, wait := none }
         let main : Ctx := { k with pc := j.x 1, x := Table.set k.x 2 top,
                                    v := handedV k.v (bitsOf (j.x s2) 15 0) j.freeCnt, wait := none }
         let j2 := (j.setPart { j.part with tfg := tfg }).setMe main
         .ok (({ j2 with freeCnt := j2.freeCnt + 32 }.setCtx s.turn.other tail).acquireMe 0))

/-- FRJOIN (R61, R331). -/
def execFrjoin (s : State) : Out :=
  finish s
    (if s.turn.tail then .error (.trap (trapOf .illegal 1))
     else if s.part.tfg.armed && s.part.tfg.live then .error (.wait .tailSlot)
     else match s.readyToRelease with
     | .error h => .error h
     | .ok _ => .ok (((if s.part.tfg.armed then joinFrame s else s).releaseMe s.task.cscope).retire 8))

/-! ### TDONE (R366, R33) -/

/-- The main context that is left alone may now be what its task waits for (R30). -/
def settleWaiting (s : State) (main : CtxId) : State :=
  match (s.partAt main.core main.part).task with
  | some id =>
    let t := s.taskAt id
    if t.state = .running && (s.ctx main).waits then s.setTask id { t with state := .waiting } else s
  | none => s

/-- The tail context ends (R58). -/
def tailEnds (s : State) : State :=
  let id := s.taskId
  let s1 := s.releaseMe s.task.cscope
  let s2 := (s1.setPart { s1.part with tfg := { s1.part.tfg with live := false } }).setMe Ctx.empty
  if s.task.state = .tailPending then becomeDone (spoilGen s2 id 0xFFFE) id .good 0 else settleWaiting s2 s.turn.other

/-- Held ENQs find room one after another; the error is the header that finds none (R34, R177). The commit waits until
each of them has room, and none is performed before (DESIGN CHOICE log 73). -/
def performHeld (s : State) (colour : Nat) : List Header → Except Halt State
  | [] => .ok s
  | h :: hs =>
    if queueRoom s h colour (some s.turn.core) then performHeld (enqueue s h colour 0 none (some s.turn.core)) colour hs
    else .error (.wait (.queueRoom h))

/-- The commit of an atomic task: its tentative stores enter their coherence orders as one step, its held
ENQs are performed, and it is done; or, on a conflict, its abort (R33, R327). -/
def commitTask (s : State) : Except Halt State :=
  let id := s.taskId
  let t := s.task
  if !t.others.isEmpty && sigHit s (t.reads ++ t.writes) t.others then .ok (abortTask s id [])
  else
    let k := s.me
    let lines := (k.pend.map (fun b => lineOf b.1)).eraseDups
    match lines.find? (lineHeld s) with
    | some line => .error (.wait (.held line))
    | none =>
      let s1 := land (countRefusals (s.setMe { k with pend := [] }) k.pend) (some t.colour) (some s.turn.core) id k.pend
      match performHeld (noteScope s1 s.turn.core t.cscope lines) t.colour t.held with
      | .error h => .error h
      | .ok s2 => .ok (becomeDone (s2.setTask id { s2.taskAt id with held := [], reads := [], writes := [], others := [] }) id .good 0)

/-- TDONE (R366). -/
def execTdone (s : State) : Out :=
  finish s
    (match s.readyToRelease with
     | .error h => .error h
     | .ok _ =>
       if s.turn.tail then .ok (tailEnds s)
       else if s.task.atomic then commitTask s
       else if s.part.tfg.live then
         let r := s.releaseMe s.task.cscope
         .ok ((r.setMe Ctx.empty).setMyTask { r.task with state := .tailPending })
       else .ok (becomeDone (spoilGen s s.taskId 0xFFFE) s.taskId .good 0))

/-! ### Boundaries (R150, R328, R329, R346) -/

/-- A boundary of n bytes of code: release where rl, then acquire where aq. -/
def boundaryForm (s : State) (aq rl : Bool) (scope n : Nat) : Except Halt State :=
  match (if rl then s.readyToRelease else .ok ()) with
  | .error h => .error h
  | .ok _ =>
    let s1 := if rl then s.releaseMe scope else s
    .ok ((if aq then s1.acquireMe scope else s1).retire n)

/-- PHASE (R346). -/
def execPhase (aq rl : Bool) (scope : BitVec 3) (s : State) : Out := finish s (boundaryForm s aq rl scope.toNat 8)
/-- FENCE (R328), whatever pred and succ hold. -/
def execFence (_p _s : BitVec 4) (s : State) : Out := finish s (boundaryForm s true true 3 4)
/-- FENCE.TSO (R328). -/
def execFenceTso (s : State) : Out := finish s (boundaryForm s true true 3 4)
/-- FENCE.I (R329): the core's instruction cache is emptied, so that every later fetch takes the context's own stores and
the newest published bytes (R134). -/
def execFenceI (s : State) : Out := .next ((s.setMyCore { s.myCore with l1i := [] }).retire 4)

/-! ### Traps without an effect of their own -/

/-- ECALL (R325). -/
def execEcall (s : State) : Out := finish s (.error (.trap (trapOf .ecall 0)))
/-- EBREAK (R325). -/
def execEbreak (s : State) : Out := finish s (.error (.trap (trapOf .ebreak 0)))
/-- A word that is no instruction (R81): ILLEGAL at decode. -/
def execIllegalEncoding (s : State) : Out := finish s (.error (.trap (trapOf .illegal 0)))

/-- The cause of a code that a fetch can raise (R54, R293). -/
def fetchCause (code : Nat) : Cause := match code with
  | 4 => .page
  | 6 => .poison
  | 13 => .atomirrev
  | 11 => .contain
  | 3 => .bounds
  | _ => .perm

/-- A faulting fetch (R53, R54): ADDR is the half that faulted, PC the instruction's start. -/
def execFetchFault (cause detail : Nat) (straddle : Bool) (s : State) : Out :=
  finish s (.error (.trap { trapAt (fetchCause cause) detail 0 (gva (s.pc + if straddle then 4 else 0)) with straddle := straddle }))

end Sys2Proof.Machine
end

