-- ==== Sys2Proof/Machine/Sync.lean ====
section
/-! DEFINITION. Synchronisation between contexts: barrier slots (R163, R193, R194), ENQ (R327), named pipes
(R348 to R351), messages (R185 to R190), MWAIT (R197) and the end of a fill (R253, R257). -/

namespace Sys2Proof.Machine

/-- An irrevocable action of an atomic task (R34). -/
def irrevocable (s : State) : Except Halt Unit :=
  if s.task.atomic then .error (.trap (trapOf .atomirrev 0)) else .ok ()

/-- The acting context makes a scratchpad access (R266). -/
def State.noteSpad (s : State) : State := s.setMyTask { s.task with spad := true }

/-! ### Barrier slots (R193) -/

abbrev Slot := BitVec 128

def slotE (w : Slot) : Nat := bitsOf w 31 0
def slotN (w : Slot) : Int := signNat (bitsOf w 63 32) 32
def slotPhase (w : Slot) : Nat := bitsOf w 79 64
def slotBytes (w : Slot) : Bool := bitOf w 80
def slotFault (w : Slot) : Bool := bitOf w 81
def slotLap (w : Slot) : Bool := bitOf w 82

/-- Slot n of a core. -/
def readSlot (s : State) (core n : Nat) : Slot := BitVec.ofNat 128 (s.pub (slotLoc core n) 16)

/-- An update of a slot takes effect at its bank and is published (R194). -/
def writeSlot (s : State) (core n writer : Nat) (w : Slot) : State :=
  land s (s.core core).colour (some core) writer (tableAt (slotLoc core n) (bytesOf 16 w.toNat))

/-- FAULT is set, and FCODE where FAULT was 0. -/
def slotFail (w : Slot) (code : Nat) : Slot :=
  if slotFault w then w else putBits (putBits w 81 81 1) 95 88 code

/-- A pending count, kept in its 32 bits. -/
def slotPutN (w : Slot) (n : Int) : Slot := putBits w 63 32 (BitVec.ofInt 32 n).toNat

/-- Arrivals lower N by c; N stops at −2^31 with FAULT and ILLEGAL; LAP is set where N ≤ −E (R193, R194). -/
def slotDown (w : Slot) (c : Nat) : Slot :=
  let n := slotN w - c
  let low := n < -(2 ^ 31 : Int)
  let n' := if low then -(2 ^ 31 : Int) else n
  let w1 := slotPutN w n'
  let w2 := if low then slotFail w1 1 else w1
  if n' ≤ -(slotE w : Int) then putBits w2 82 82 1 else w2

/-- WAITB consumes a phase (R414). -/
def slotConsume (w : Slot) : Slot :=
  let n := slotN w + slotE w
  let w1 := if n > 2 ^ 31 - 1 then slotFail (slotPutN w (2 ^ 31 - 1)) 1 else slotPutN w n
  putBits w1 79 64 ((slotPhase w + 1) % 2 ^ 16)

/-- The core that a barrier target names: a psC naming the own position is the own core (R319). -/
def targetCore (core : Nat) (target : BitVec 3) : Nat := if target = 1 then core else core / 4 * 4 + (target.toNat - 2)

/-- ARRIVE (R319). Its update lands in the step that checks its target, so no re-binding comes between and none is diverted
(R188; DESIGN CHOICE log 3). -/
def execArrive (target : BitVec 3) (slot : BitVec 7) (s1 : Reg) (scope : BitVec 3) (s : State) : Out :=
  finish s (do
    irrevocable s
    let c := (s.x s1).toNat
    illegalIf (decide (0x7FFFFFFF < c))
    let k := targetCore s.turn.core target
    trapIf (decide ((s.core k).colour ≠ some s.task.colour)) (trapOf .contain 2)
    s.readyToRelease
    let r := s.releaseMe scope.toNat
    let r2 := if c = 0 then r else writeSlot r.noteSpad k slot.toNat r.taskId (slotDown (readSlot r k slot.toNat) c)
    .ok (r2.retire 8))

/-- WAITB (R414). -/
def execWaitb (slot : BitVec 7) (scope : BitVec 3) (s : State) : Out :=
  finish s (do
    irrevocable s
    let w := readSlot s s.turn.core slot.toNat
    if 0 < slotN w then .error (.wait (.barrier slot.toNat))
    else .ok (((writeSlot s.noteSpad s.turn.core slot.toNat s.taskId (slotConsume w)).acquireMe scope.toNat).retire 8))

/-- TESTB's answer (R368). -/
def testbWord (w : Slot) : Word :=
  BitVec.ofNat 64 ((if slotN w ≤ 0 then 2 ^ 63 else 0) + (if slotFault w then 2 ^ 62 else 0)
    + (if slotLap w then 2 ^ 61 else 0) + slotPhase w)

/-- TESTB (R368). -/
def execTestb (d : Reg) (slot : BitVec 7) (s : State) : Out :=
  finish s (do
    trapIf s.task.atomic (trapOf .atomirrev 1)
    let w := readSlot s s.turn.core slot.toNat
    let r := s.noteSpad.setX d (testbWord w)
    .ok ((if slotN w ≤ 0 then r.acquireMe 0 else r).retire 8))

/-! ### ENQ (R327) -/

/-- The 64-byte header that ENQ reads, with the state that has made the read. -/
def readHeader (s : State) (a : Word) : Except Halt (Header × State) := do
  let t ← checkAcc s s.who (accGv a 64 .load false) true
  .ok (BitVec.ofNat 512 (loaded s t 64), noteAccess s t 64 false)

/-- The header's checks (R27, R177). -/
def checkHeader (s : State) (h : Header) : Except Halt Unit := do
  trapIf (malformed h) (trapOf .illegal 3)
  trapIf (!s.task.smode && (hSup h || decide (hPrio h = 3))) (trapOf .perm 4)

/-- Queue a header that has been read and checked; nb is the destination of ENQ.NB's status. -/
def queueHeader (s : State) (h : Header) (nb : Option Reg) : Except Halt State :=
  let status := fun (t : State) (v : Word) => (match nb with | some d => t.setX d v | none => t).retire 8
  if s.task.atomic then
    (if 16 ≤ s.task.held.length then .error (.trap (trapOf .atomirrev 2))
     else .ok (status (s.setMyTask { s.task with held := s.task.held ++ [h] }) 2))
  else if queueRoom s h s.task.colour (some s.turn.core) then .ok (status (enqueue s h s.task.colour 0 none (some s.turn.core)) 0)
  else if nb.isSome then .ok (status s 1)
  else .error (.wait (.queueRoom h))

/-- ENQ and ENQ.NB: a stalled ENQ goes on with the header it has read. -/
def enqForm (s : State) (s1 : Reg) (nb : Option Reg) : Out :=
  match s.me.wait with
  | some (.queueRoom h) => finish s (queueHeader s h nb)
  | _ =>
    let a := s.x s1
    match (do trapIf (unaligned a 64) (trapAt .misaligned 0 0 (gva a)); s.readyToRelease) with
    | .error h => finish s (.error h)
    | .ok _ =>
      let r := s.releaseMe
      match readHeader r a with
      | .error h => finish r (.error h)
      | .ok (h, r2) => finish r2 (do checkHeader r2 h; queueHeader r2 h nb)

/-- ENQ (R327). -/
def execEnq (s1 : Reg) (s : State) : Out := enqForm s s1 none
/-- ENQ.NB (R327). -/
def execEnqNb (d s1 : Reg) (s : State) : Out := enqForm s s1 (some d)

/-! ### Named pipes (R348 to R351) -/

/-- The sending and the receiving role of pipe n. -/
def pipeRoles (g : GangHere) (n : Nat) : Nat × Nat :=
  (bitsOf g.pmap (4 * n + 1) (4 * n), bitsOf g.pmap (4 * n + 3) (4 * n + 2))

/-- The gang's place here, where the task is the sending (or receiving) role of a declared pipe (R350, R351). -/
def myPipe (s : State) (n : Nat) (send : Bool) : Except Halt GangHere :=
  match s.myCore.gang with
  | some g =>
    let r := if send then (pipeRoles g n).1 else (pipeRoles g n).2
    if s.task.gang = g.id ∧ s.task.gang ≠ 0 ∧ g.pipes.getLsbD n ∧ r = s.task.role then .ok g
    else .error (.trap (trapOf .illegal 1))
  | none => .error (.trap (trapOf .illegal 1))

/-- The own scratchpad's 64 bytes at an offset: its alignment and bounds; ADDR is the window address. -/
def pipeOffset (o : Word) (write : Bool) : Except Halt Nat := do
  let ea := BitVec.ofNat 64 windowBase + o
  trapIf (decide (o.toNat % 64 ≠ 0)) (trapAt .misaligned 0 0 ea)
  trapIf (decide (0x5FFC0 < o.toNat)) (trapAt .bounds 0 0 ea)
  trapIf (write && decide (0x5F800 ≤ o.toNat)) (trapAt .perm 6 0 ea)
  .ok o.toNat

/-- The target of such an access. -/
def ownScratch (core o : Nat) : Target :=
  { loc := scratchLoc core o, home := .scratch core, cache := 0, grain := 512, fill := none, tlb := none }

/-- Change a pipe of the gang's place on the acting core. -/
def State.setPipe (s : State) (g : GangHere) (n : Nat) (p : Pipe) : State :=
  s.setMyCore { s.myCore with gang := some { g with pipe := Table.set g.pipe n p } }

/-- Slots lost with a gang (R37). -/
def countLost (s : State) (gang n : Nat) : State :=
  let g := Table.get Gang.empty s.sched.gangs gang
  { s with sched := { s.sched with gangs := Table.set s.sched.gangs gang { g with discarded := g.discarded + n } } }

/-- PSEND (R350). -/
def execPsend (pipe : BitVec 3) (s1 : Reg) (s : State) : Out :=
  finish s (do
    irrevocable s
    let g ← myPipe s pipe.toNat true
    let o ← pipeOffset (s.x s1) false
    let p := Table.get Pipe.empty g.pipe pipe.toNat
    if g.done.getLsbD (pipeRoles g pipe.toNat).2 then
      s.readyToRelease
      .ok ((countLost (s.releaseMe 0) g.id 1).retire 8)
    else if 16 ≤ p.full then .error (.wait (.pipe pipe.toNat true))
    else
      s.readyToRelease
      let r := s.noteSpad.releaseMe 0
      let data := BitVec.ofNat 512 (loaded r (ownScratch r.turn.core o) 64)
      .ok ((r.setPipe g pipe.toNat { p with full := p.full + 1, data := Table.set p.data ((p.head + p.full) % 16) data }).retire 8))

/-- PRECV (R351). -/
def execPrecv (d : Reg) (pipe : BitVec 3) (s1 : Reg) (s : State) : Out :=
  finish s (do
    irrevocable s
    let g ← myPipe s pipe.toNat false
    let o ← pipeOffset (s.x s1) true
    let p := Table.get Pipe.empty g.pipe pipe.toNat
    if p.full = 0 then
      (if g.done.getLsbD (pipeRoles g pipe.toNat).1 then .ok ((s.setX d 1).retire 8)
       else .error (.wait (.pipe pipe.toNat false)))
    else
      let data := Table.get (0 : BitVec 512) p.data p.head
      let r := storeAt s.noteSpad (ownScratch s.turn.core o) (bytesOf 64 data.toNat)
      .ok ((((r.setPipe g pipe.toNat { p with head := (p.head + 1) % 16, full := p.full - 1 }).acquireMe 0).setX d 0).retire 8))

/-! ### Messages (R185 to R190) -/

def mCap (m : Msg) : Nat := bitsOf m.w0 63 48
def mEng (m : Msg) : Nat := bitsOf m.w0 47 44
def mOp (m : Msg) : Nat := bitsOf m.w0 39 32
def mArg (m : Msg) : Nat := bitsOf m.w0 31 0
def mLen (m : Msg) : Nat := bitsOf m.w0 23 0
def mRkind (m : Msg) : Nat := bitsOf m.w3 63 62
def mBtgt (m : Msg) : Nat := bitsOf m.w3 9 7
def mBslot (m : Msg) : Nat := bitsOf m.w3 6 0
/-- The ring descriptor's address of RKIND 10 (R186). -/
def mRing (m : Msg) : Word := signWord (bitsOf m.w3 56 5 * 32) 57

/-- A reserved code or bit that XPUSH refuses (R190, R186). -/
def msgIllegal (m : Msg) : Bool :=
  decide (4 ≤ mEng m) || decide (mRkind m = 3) || decide (bitsOf m.w0 43 40 ≠ 0)
  || (if mRkind m = 2 then decide (bitsOf m.w3 61 57 ≠ 0) || decide (bitsOf m.w3 4 0 ≠ 0) else decide (bitsOf m.w3 61 10 ≠ 0))
  || (decide (mRkind m = 1) && !(decide (1 ≤ mBtgt m) && decide (mBtgt m ≤ 5)))

/-- The message is a copy whose CHAIN bit is set and whose destination lies in the core's own scratchpad:
the destination's offset (R128). -/
def chainTo (core : Nat) (m : Msg) : Option Nat :=
  let a := gva m.w2
  if mEng m = 0 ∧ mOp m ≤ 1 ∧ bitOf m.w0 31 ∧ inWindow a then
    match windowPlace core a 1 with
    | some (c, o) => if c = core then some o else none
    | none => none
  else none

/-- The requests of a hart that its copy engine has. -/
def sentOf (s : State) (core part : Nat) : List Msg :=
  let u := s.cluster (core / 4)
  (u.aside.map (·.msg) ++ Table.get [] u.inbox 0).filter (fun m => decide (m.core = core) && decide (m.part = part))

/-- The completion records of a hart's copies that hold a tracker and are not written yet. -/
def dueOf (s : State) (core part : Nat) : List (Nat × DueRecord) :=
  s.sched.due.filterMap (fun d => match d.tracker with
    | some (c, p, id) => if c = core ∧ p = part then some (id, d) else none
    | none => none)

/-- A number that no tracker of the hart has, and none that a request on its way still names: a task that becomes done
gives its trackers up, and its copies go on (R367). -/
def newTracker (s : State) (core part : Nat) : Nat :=
  let p := s.partAt core part
  (p.trackers.map (·.id) ++ (p.fifo ++ sentOf s core part).filterMap (·.tracker) ++ (dueOf s core part).map (·.1)).foldl (fun n i => max n (i + 1)) 0

/-- The message of four registers, as the acting context sends it. -/
def myMsg (s : State) (s1 : Reg) : Msg :=
  { w0 := s.x s1, w1 := s.x (s1 + 1), w2 := s.x (s1 + 2), w3 := s.x (s1 + 3), core := s.turn.core, part := s.turn.part,
    task := s.taskId, colour := s.task.colour, tracker := none, done := 0, fcode := 0, seq := s.part.sent }

/-- Append a message to the hart's FIFO, with its CAP stamped and its tracker allocated. -/
def appendMsg (s : State) (m : Msg) : State :=
  let w0 := if mCap m = 0 then putBits m.w0 63 48 s.task.pkey.toNat else m.w0
  let p := s.part
  match chainTo s.turn.core m with
  | some o =>
    let id := newTracker s s.turn.core s.turn.part
    let t : Tracker := { id := id, base := scratchLoc s.turn.core o, len := mLen m, landed := 0, failed := false }
    s.setPart { p with fifo := p.fifo ++ [{ m with w0 := w0, tracker := some id }], trackers := p.trackers ++ [t], sent := p.sent + 1 }
  | none => s.setPart { p with fifo := p.fifo ++ [{ m with w0 := w0 }], sent := p.sent + 1 }

/-- XPUSH and XPUSH.NB (R190). -/
def xpushForm (s : State) (s1 : Reg) (nb : Option Reg) : Except Halt State := do
  irrevocable s
  let m := myMsg s s1
  trapIf (msgIllegal m) (trapOf .illegal 4)
  trapIf (!s.task.smode && decide (mCap m ≠ 0)) (trapOf .perm 4)
  let chain := (chainTo s.turn.core m).isSome
  if 16 ≤ s.part.fifo.length ∨ (chain ∧ 4 ≤ s.part.trackers.length) then
    match nb with
    | some d => .ok ((s.setX d 1).retire 8)
    | none => .error (.wait (.fifo chain))
  else
    s.readyToRelease
    let r := appendMsg s.releaseMe m
    .ok ((match nb with | some d => r.setX d 0 | none => r).retire 8)

/-- XPUSH (R190, R417). -/
def execXpush (s1 : Reg) (s : State) : Out := finish s (xpushForm s s1 none)
/-- XPUSH.NB (R190, R417). -/
def execXpushNb (d s1 : Reg) (s : State) : Out := finish s (xpushForm s s1 (some d))

/-! ### MWAIT (R197, R344) -/

/-- MWAIT: a notice that has come ends the wait; otherwise the word is loaded and compared. -/
def execMwait (s1 s2 : Reg) (s : State) : Out :=
  match s.me.wait with
  | some (.word _ true) => .next (s.retire 8)
  | _ =>
    match (do
      irrevocable s
      checkAcc s s.who { accGv (s.x s1) 4 .load (unaligned (s.x s1) 4) with mwait := true } true) with
    | .error h => finish s (.error h)
    | .ok t =>
      let r := noteAccess s t 4 false
      if loaded s t 4 = bitsOf (s.x s2) 31 0 then .next (waitOn r (.word t.loc false)) else .next (r.retire 8)

/-! ### The end of a fill (R253, R257) -/

/-- GENDONE and GENFAIL. -/
def endFill (s : State) (s1 : Reg) (good : Bool) (code : BitVec 16) : Except Halt State := do
  irrevocable s
  let a := gva (s.x s1)
  match blockAt s a with
  | none => .error (.trap (trapAt .perm 5 0 a))
  | some b =>
    if !isGenOf s s.taskId b then .error (.trap (trapAt .perm 5 0 a))
    else
      s.readyToRelease
      .ok ((leaveTurning s.releaseMe b good code).retire 8)

/-- GENDONE (R253, R332). -/
def execGendone (s1 : Reg) (s : State) : Out := finish s (endFill s s1 true 0)
/-- GENFAIL (R253, R332). -/
def execGenfail (s1 s2 : Reg) (s : State) : Out := finish s (endFill s s1 false ((s.x s2).setWidth 16))

/-- A form that only S-mode may run: ILLEGAL at decode in U-mode (R80, R81). -/
def privileged (s : State) : Except Halt Unit := trapIf (!s.task.smode) (trapOf .illegal 0)

/-- FILLRST (R257, R330). -/
def execFillrst (s1 : Reg) (s : State) : Out :=
  finish s (do
    privileged s
    let a := gva (s.x s1)
    match blockAt s a with
    | none => .error (.trap (trapAt .perm 5 0 a))
    | some b =>
      let st := fillState s b
      .ok ((if st = .filled ∨ st = .spoiled then discardBlock s b else s).retire 8))

end Sys2Proof.Machine
end

