-- ==== Sys2Proof/Machine/VecMem.lean ====
section
/-! DEFINITION. Element memory forms (R376 to R379): their addresses, the element-by-element checks, how they
end, and the vector loads, stores, chained loads, spills and fills (R129, R399, R400, R403 to R405, R410). -/

namespace Sys2Proof.Machine

/-! ### Elements that complete, fault or park (R377) -/

/-- What the element checks come to: places of the elements that go on, first causes of those that fault,
blocks of those that park, and lines that those which stall wait for (R290), each by element. -/
structure Split where
  good   : List (Nat × Target)
  bad    : List (Nat × Trap)
  parked : List (Nat × List BlockId)
  stalled : List (Nat × Wait) := []
  deriving DecidableEq, Repr

/-- The state in which an atomic task's write set holds the sectors of a store to come, so that the next store of the
same instruction is checked against the limit of R34 with them. -/
def tentative (s : State) (w : Who) (a : Acc) (t : Target) : State :=
  if w.atomic && decide (a.kind = .store) then
    let k := s.taskAt w.task
    s.setTask w.task { k with writes := k.writes ++ (sectorsAt t.loc a.width).filter (fun x => !k.writes.contains x) }
  else s

/-- Check accesses one by one. -/
def splitAccs (s : State) (w : Who) (whole : Bool) : List Acc → Split
  | [] => { good := [], bad := [], parked := [] }
  | a :: as =>
    match checkAcc s w a whole with
    | .ok t =>
      let r := splitAccs (if whole then tentative s w a t else s) w whole as
      { r with good := (a.elem, t) :: r.good }
    | .error (.trap t) => let r := splitAccs s w whole as; { r with bad := (a.elem, t) :: r.bad }
    | .error (.park bs) => let r := splitAccs s w whole as; { r with parked := (a.elem, bs) :: r.parked }
    | .error (.wait w') => let r := splitAccs s w whole as; { r with stalled := (a.elem, w') :: r.stalled }

/-- The first cause of the lowest-numbered faulting element (R264). -/
def lowestTrap : List (Nat × Trap) → Option Trap
  | [] => none
  | (i, t) :: l => match lowestTrap l with
    | some u => if u.elem < i then some u else some t
    | none => some t

/-- What the accesses of the faulting elements have left behind, but for the one whose trap is taken (R146, R293). -/
def noteOthers (s : State) (t : Trap) (bad : List (Nat × Trap)) : State :=
  (bad.filter (fun b => decide (b.1 ≠ t.elem))).foldl (fun s b => noteTrap s s.turn.core s.task.colour b.2) s

/-- An element form ends. Where some element needs a line that another device owns, the whole form waits for it and
is made from the start after that, with every element's fault or park then known: s0 is the state in which it began.
Otherwise the faulted-element mask holds exactly the parked and faulting elements, and the form traps, parks or
completes (R264, R265, R377). -/
def elementsEnd (s0 s : State) (sp : Split) : Out :=
  match sp.stalled with
  | w :: _ => .next (waitOn s0 w.2)
  | [] =>
    let s1 := s.setMe { s.me with fmask := maskOf (sp.bad.map (·.1) ++ sp.parked.map (·.1)), wait := none }
    match lowestTrap sp.bad with
    | some t =>
      if parkHeld s1 && !s1.task.atomic then .next (waitOn s1 .lines)
      else .next (trapWithParks (noteOthers s1 t sp.bad) t (sp.parked.flatMap (·.2)))
    | none =>
      match sp.parked with
      | [] => .next (s1.retire 8)
      | ps => .next (halted s1 (.park (ps.flatMap (·.2))))

/-- A unit-stride access parks as a whole (R246): where some element parks, every element that does not
fault does. -/
def parkWhole (sp : Split) : Split :=
  if sp.parked.isEmpty then sp
  else { sp with good := [], parked := sp.parked ++ sp.good.map (fun g => (g.1, sp.parked.flatMap (·.2))) }

/-! ### Element addresses (R376) -/

/-- Where the elements of a form lie. -/
inductive Pattern where
  | unit | stride (r : Reg) | index (r : Reg)
  deriving DecidableEq, Repr

/-- The offset of element i from the base. -/
def elemOffset (s : State) (p : Pattern) (sew i : Nat) : Word :=
  match p with
  | .unit => BitVec.ofNat 64 (i * sew / 8)
  | .stride r => BitVec.ofNat 64 i * s.x r
  | .index r => BitVec.ofNat 64 (s.elem r.toNat sew i)

/-- The access of element i: MISALIGNED by its width, but at SEW 4, whose elements are nibbles. -/
def elemAcc (s : State) (m : Via) (base : Word) (p : Pattern) (sew : Nat) (kind : AccKind) (i : Nat) : Acc :=
  let w := max 1 (sew / 8)
  let a := accVia s.turn.core m (base + elemOffset s p sew i) w kind i
  { a with mis := unaligned a.ea w, guarded := kind.isStore }

/-- Selectors that alone name a scratchpad (R311). -/
def namesScratch (sel : BitVec 3) : Bool := decide (1 ≤ sel.toNat) && decide (sel.toNat ≤ 5)

/-- The accesses of the active elements. A fault or a park of the record's read is one of every active
element (log 10). -/
def elemSplit (s : State) (sel : BitVec 3) (n : BitVec 8) (base : Word) (p : Pattern) (sew : Nat) (kind : AccKind)
    (whole : Bool) (acts : List Nat) : Split :=
  if acts.isEmpty then { good := [], bad := [], parked := [] }
  else match via s s.who sel n with
    | .ok m => splitAccs s s.who whole (acts.map (elemAcc s m base p sew kind))
    | .error (.trap t) => { good := [], bad := acts.map (fun i => (i, { t with elem := i })), parked := [] }
    | .error (.park bs) => { good := [], bad := [], parked := acts.map (fun i => (i, bs)) }
    | .error (.wait w) => { good := [], bad := [], parked := [], stalled := acts.map (fun i => (i, w)) }

/-- The instruction-level checks of an element memory form: execution (R82), then ATOMIRREV for a scratchpad
selector in an atomic task. -/
def memCheck (s : State) (sel : BitVec 3) (ty : ElTy) (accepts : Bool) (tiles : List Reg) : Except Halt Unit := do
  vecCheck s ty accepts tiles none
  trapIf (namesScratch sel && s.task.atomic) (trapOf .atomirrev 1)

/-! ### Bank conflicts (R126) -/

/-- Conflict cycles of the access of one scratchpad at some places. -/
def bankConflicts (ls : List (Nat × Nat)) : Nat :=
  let words := (ls.flatMap (fun l => (upTo ((l.1 + l.2 - 1) / 8 + 1 - l.1 / 8)).map (· + l.1 / 8))).eraseDups
  let most := (upTo 32).foldl (fun n b => max n (words.filter (fun w => w % 32 = b)).length) 0
  most - (words.length + 31) / 32

/-- The scratchpad that a place lies in. -/
def spadOf (t : Target) : Option Nat := match t.home with
  | .scratch c => some c
  | _ => none

/-- Count the conflicts of an access: each scratchpad that it reaches has its own banks. The matrix, spill and scalar
forms read and write runs of consecutive words, which never conflict (DEDUCED log 68). -/
def countBanks (s : State) (good : List (Nat × Target)) (w : Nat) : State :=
  if s.task.pcsel.isEmpty then s
  else countEvent s s.taskId 7 ((((good.filterMap (fun g => spadOf g.2)).eraseDups).map (fun c =>
    bankConflicts ((good.filter (fun g => spadOf g.2 = some c)).map (fun g => (g.2.loc, w))))).sum)

/-! ### Loads (R403, R404) -/

/-- The value of element i that an access reads: a nibble at SEW 4. -/
def elemValue (s : State) (t : Target) (sew i : Nat) : Nat :=
  if sew = 4 then loaded s t 1 / 16 ^ (i % 2) % 16 else loaded s t (sew / 8)

/-- Note the accesses of the elements that complete. -/
def noteAll (s : State) (w : Nat) (store : Bool) (good : List (Nat × Target)) : State :=
  good.foldl (fun s g => noteAccess s g.2 w store) s

/-- A vector load. -/
def vecLoad (o : MemOp) (p : Pattern) (s : State) : Out :=
  let ty := memType s.me.vty o.et
  match memCheck s o.sel ty (decide (p = .unit) || decide (ty.sew ≠ 4))
      ([o.d] ++ (match p with | .index r => [r] | _ => [])) with
  | .error h => finish s (.error h)
  | .ok _ =>
    let sp0 := elemSplit s o.sel o.n (s.x o.s1) p ty.sew .load true (s.active o.m)
    let sp := if p = .unit then parkWhole sp0 else sp0
    let vals := sp.good.map (fun g => (g.1, elemValue s g.2 ty.sew g.1))
    let w := max 1 (ty.sew / 8)
    let s0 := s.noteVia o.sel o.n
    let s1 := (countBanks (noteAll s0 w false sp.good) sp.good w).setElems o.d.toNat ty.sew vals
    elementsEnd s0 (s1.agnostic o.d.toNat ty.sew (s.unselected o.m)) sp

/-- VLD (R403). -/
def execVld (o : MemOp) (s : State) : Out := vecLoad o .unit s
/-- VLDS (R403). -/
def execVlds (o : MemOp) (s : State) : Out := vecLoad o (.stride o.s2) s
/-- VLDX (R403). -/
def execVldx (o : MemOp) (s : State) : Out := vecLoad o (.index o.s2) s

/-! ### Stores (R410, R411) -/

/-- The half-bytes that an element writes at its place. -/
def halves (l sew i : Nat) : List Nat := if sew = 4 then [2 * l + i % 2] else (upTo (sew / 4)).map (· + 2 * l)

/-- Elements that write into a poisoned sector which the form's elements do not wholly write fault with
POISON, DETAIL 1 (R378). -/
def storePoison (s : State) (sew : Nat) (accs : List (Nat × Word)) (sp : Split) : Split :=
  let w := max 1 (sew / 8)
  let touched := ((sp.good.flatMap (fun g => sectorsAt g.2.loc w)).eraseDups).filter (fun x => badFor s s.me.pend x)
  if touched.isEmpty then sp
  else
    let written := (sp.good.flatMap (fun g => halves g.2.loc sew g.1)).eraseDups
    let part := touched.filter (fun x => decide ((written.filter (fun h => sectorOf (h / 2) = x)).length < 64))
    let hit := fun (g : Nat × Target) => (sectorsAt g.2.loc w).any (fun x => part.contains x)
    let ea := fun (i : Nat) => match accs.find? (fun a => a.1 = i) with | some a => a.2 | none => 0
    { sp with good := sp.good.filter (fun g => !hit g),
              bad := sp.bad ++ (sp.good.filter hit).map (fun g => (g.1, trapAt .poison 1 g.1 (ea g.1))) }

/-- The bytes that an element stores: at SEW 4 the other nibble of its byte stays. -/
def elemBytes (s : State) (t : Target) (sew i v : Nat) : List Byte :=
  if sew = 4 then [BitVec.ofNat 8 (putBits (BitVec.ofNat 8 (loaded s t 1)) (4 * (i % 2) + 3) (4 * (i % 2)) v).toNat]
  else bytesOf (sew / 8) v

/-- Store elements in ascending order; one that would take the tentative sectors above 1,024 faults (R379). -/
def storeElems (s : State) (sew : Nat) (accs : List (Nat × Word)) : List (Nat × Target × Nat) → State × List (Nat × Trap)
  | [] => (s, [])
  | (i, t, v) :: l =>
    let ea := match accs.find? (fun a => a.1 = i) with | some a => a.2 | none => 0
    match checkCapacity s s.who (accGv ea (max 1 (sew / 8)) .store false) t.loc with
    | .error _ => let r := storeElems s sew accs l; (r.1, (i, trapAt .atomirrev 2 i ea) :: r.2)
    | .ok _ => storeElems (storeAt s t (elemBytes s t sew i v)) sew accs l

/-- Effective addresses of the active elements, for the records of faults that are found late. -/
def elemAddrs (s : State) (sel : BitVec 3) (n : BitVec 8) (base : Word) (p : Pattern) (sew : Nat) (acts : List Nat) :
    List (Nat × Word) :=
  match via s s.who sel n with
  | .ok m => acts.map (fun i => (i, (elemAcc s m base p sew .store i).ea))
  | .error _ => []

/-- A vector store. -/
def vecStore (o : MemOp) (p : Pattern) (s : State) : Out :=
  let ty := memType s.me.vty o.et
  match memCheck s o.sel ty (decide (p = .unit) || decide (ty.sew ≠ 4))
      ([o.d] ++ (match p with | .index r => [r] | _ => [])) with
  | .error h => finish s (.error h)
  | .ok _ =>
    let acts := s.active o.m
    let addrs := elemAddrs s o.sel o.n (s.x o.s1) p ty.sew acts
    let sp := storePoison s ty.sew addrs (elemSplit s o.sel o.n (s.x o.s1) p ty.sew .store false acts)
    let s0 := s.noteVia o.sel o.n
    let (s1, late) := storeElems s0 ty.sew addrs (sp.good.map (fun g => (g.1, g.2, s.elem o.d.toNat ty.sew g.1)))
    elementsEnd s0 (countBanks s1 sp.good (max 1 (ty.sew / 8))) { sp with bad := sp.bad ++ late }

/-- VST (R410). -/
def execVst (o : MemOp) (s : State) : Out := vecStore o .unit s
/-- VSTS (R410). -/
def execVsts (o : MemOp) (s : State) : Out := vecStore o (.stride o.s2) s
/-- VSTX (R410). -/
def execVstx (o : MemOp) (s : State) : Out := vecStore o (.index o.s2) s

/-! ### Chained loads (R129, R130, R405) -/

/-- A live tracker still expects some word of the places from lo to hi. -/
def expects (t : Tracker) (lo hi : Nat) : Bool :=
  let a := max (lo / 8 * 8) t.base
  let b := min ((hi + 7) / 8 * 8) (t.base + t.len)
  decide (a < b) && decide (t.base + t.landed < b)

/-- Some word of the places never landed. -/
def neverLanded (missing : List (Nat × Nat)) (lo hi : Nat) : Bool :=
  missing.any (fun m => decide (max (lo / 8 * 8) m.1 < min ((hi + 7) / 8 * 8) m.2))

/-- The elements that lie in one 256-byte bank row with the first one. -/
def sameRow (good : List (Nat × Target)) : List (Nat × Target) × List (Nat × Target) :=
  match good with
  | [] => ([], [])
  | g :: _ => good.partition (fun h => decide (h.2.loc / 256 = g.2.loc / 256))

/-- Read group after group, lowest row first, while the words that its elements read have landed: the elements read,
those that never land, and the places of the group that is awaited, none of them where no group is. -/
def chainGroups (trackers : List Tracker) (missing : List (Nat × Nat)) (w : Nat) :
    Nat → List (Nat × Target) → List (Nat × Target) × List (Nat × Target) × List (Nat × Nat)
  | 0, _ => ([], [], [])
  | fuel + 1, good =>
    match good with
    | [] => ([], [], [])
    | _ :: _ =>
      let (row, rest) := sameRow good
      let places := row.map (fun h => (h.2.loc, h.2.loc + w))
      if trackers.any (fun t => places.any (fun p => expects t p.1 p.2)) then ([], [], places)
      else
        let (dead, ok) := row.partition (fun h => neverLanded missing h.2.loc (h.2.loc + w))
        let (r1, r2, r3) := chainGroups trackers missing w fuel rest
        (ok ++ r1, dead ++ r2, r3)

/-- What the copies whose trackers the hart holds have written so far, which a VLD.CH sees early (R131, R160). -/
def chainPend (s : State) : Table Byte :=
  let sent := (sentOf s s.turn.core s.turn.part).flatMap (fun m => if m.tracker.isSome then m.pend else [])
  overlay (overlay ((dueOf s s.turn.core s.turn.part).flatMap (·.2.pend)) sent) s.me.pend

/-- VLD.CH (R405). -/
def execVldCh (o : MemOp) (s : State) : Out :=
  let ty := memType s.me.vty o.et
  match memCheck s o.sel ty true [o.d] with
  | .error h => finish s (.error h)
  | .ok _ =>
    let (before, missing) := match s.me.wait with
      | some (.chain r _ m) => (r, m)
      | _ => ([], [])
    let w := max 1 (ty.sew / 8)
    let sp := elemSplit s o.sel o.n (s.x o.s1) .unit ty.sew .load true ((s.active o.m).filter (fun i => !before.contains i))
    let (ok, dead, await') := chainGroups s.part.trackers missing w (sp.good.length + 1) sp.good
    let early := s.setMe { s.me with pend := chainPend s }
    let vals := ok.map (fun g => (g.1, elemValue early g.2 ty.sew g.1))
    let s1 := (countBanks (noteAll s w false ok) ok w).setElems o.d.toNat ty.sew vals
    match await' with
    | _ :: _ => .next (waitOn s1 (.chain (before ++ ok.map (·.1)) await' missing))
    | [] =>
      let base := BitVec.ofNat 64 windowBase + s.x o.s1
      let late := dead.map (fun g => (g.1, trapAt .poison 2 g.1 (base + elemOffset s .unit ty.sew g.1)))
      elementsEnd s (s1.agnostic o.d.toNat ty.sew (s.unselected o.m)) { sp with bad := sp.bad ++ late }

/-! ### Spills and fills (R399, R400) -/

/-- The access of a spill record's bytes, in pieces that lie in one page each. -/
def recordAccs (s : State) (m : Via) (base : Word) (off n : Nat) (kind : AccKind) : List Acc :=
  let ea := (accVia s.turn.core m base 1 kind 0).ea
  let whole := accVia s.turn.core m (base + BitVec.ofNat 64 off) n kind 0
  (pieces 4096 (n / 4096 + 2) (ea.toNat + off) n).map (fun p =>
    let a := accVia s.turn.core m (base + BitVec.ofNat 64 (p.1 - ea.toNat)) p.2 kind 0
    { a with mis := unaligned ea 64, bounds := whole.bounds, guarded := kind.isStore })

/-- A fault that the procedural check comes before: POISON of data (R246). -/
def dataPoison (t : Trap) : Bool := decide (t.cause = .poison) && decide (t.detail ≠ 3)

/-- Check the accesses of one element, of which the given choice of a trap ends it; where there is none they park as a
whole on every block that is not ready, and POISON is found after that (R209, R246). -/
def checkMany (choose : List Trap → Option Trap) (s : State) (w : Who) (accs : List Acc) : Except Halt (List (Target × Nat)) :=
  let sp := splitAccs s w true accs
  match choose ((sp.bad.map (·.2)).filter (fun t => sp.parked.isEmpty || !dataPoison t)) with
  | some t => .error (.trap t)
  | none =>
    match sp.parked, sp.stalled with
    | [], [] => .ok ((sp.good.map (·.2)).zip (accs.map (·.width)))
    | [], w' :: _ => .error (.wait w'.2)
    | ps, _ => .error (.park (ps.flatMap (·.2)))

/-- Check accesses that are made one after another: the first that faults traps (R209). -/
def checkRun (s : State) (w : Who) (accs : List Acc) : Except Halt (List (Target × Nat)) := checkMany List.head? s w accs

/-- Check the accesses of one whole-instruction element (R399), which follow one another. -/
def checkWhole (s : State) (w : Who) (accs : List Acc) : Except Halt (List (Target × Nat)) :=
  match checkMany firstCause s w accs with
  | .error (.trap t) => .error (.trap { t with span := (accs.map (·.width)).sum })
  | r => r

/-- Store bytes at places. -/
def storeRun (s : State) : List (Target × Nat) → List Byte → State
  | [], _ => s
  | (t, n) :: ts, bs => storeRun (storeAt s t (bs.take n)) ts (bs.drop n)

/-- Bytes loaded from places. -/
def loadRun (s : State) (ts : List (Target × Nat)) : List Byte := ts.flatMap (fun t => seen s s.me.pend t.1.loc t.2)

/-- The state that has made the loads. -/
def noteRun (s : State) (ts : List (Target × Nat)) : State := ts.foldl (fun s t => noteAccess s t.1 t.2 false) s

/-- VSPILL (R399). -/
def execVspill (o : SpillOp) (s : State) : Out :=
  let s0 := s.noteVia o.sel o.n
  finish s0 (do
    trapIf (namesScratch o.sel && s.task.atomic) (trapOf .atomirrev 1)
    let m ← via s s.who o.sel o.n
    let (fmt, units) := spillImage (s.vlen / 32) (s.v o.d.toNat)
    let bytes := padTo 64 [fmt] ++ units
    let ts ← checkWhole s s.who (recordAccs s m (s.x o.s1) 0 bytes.length .store)
    .ok ((storeRun s0 ts bytes).retire 8))

/-- VFILL (R400). -/
def execVfill (o : SpillOp) (s : State) : Out :=
  let s0 := s.noteVia o.sel o.n
  finish s0 (do
    trapIf (namesScratch o.sel && s.task.atomic) (trapOf .atomirrev 1)
    let m ← via s s.who o.sel o.n
    let hd ← checkWhole s s.who (recordAccs s m (s.x o.s1) 0 64 .load)
    let fmt := (loadRun s hd).headD 0
    trapIf (!spillFormatOk (s.vlen / 32) fmt) (trapOf .illegal 2)
    let ts ← checkWhole s s.who (recordAccs s m (s.x o.s1) 64 (64 * bitsOf fmt 5 0) .load)
    let v := spillRebuild (s.vlen / 32) (bitsOf fmt 7 6) (loadRun s ts)
    .ok (((noteRun s0 (hd ++ ts)).setV o.d.toNat v).retire 8))

end Sys2Proof.Machine
end

