-- ==== Sys2Proof/Machine/Atomics.lean ====
section
/-! DEFINITION. Atomics (R158, R283, R313 to R316, R382 to R384): one indivisible read and write per scalar AMO
and per element of a VAMO. -/

namespace Sys2Proof.Machine

/-- A line of the target that another device or the host holds must come back before the operation (R283,
R284, R290). An atomic task's part waits for its commit. -/
def amoHeld (s : State) (t : Target) : Bool :=
  !s.task.atomic && !s.slices.isEmpty && lineHeld s (lineOf t.loc)

/-- The operation at a place of w bytes: f gives the new value from the old one, none where a CAS fails. The
context's own pending writes to its bytes are read, and published with its write (R158): a CAS that fails writes nothing, and
leaves them unpublished (DESIGN CHOICE log 83). In an atomic task it is a load and a store of the task (R316). The answer is
the old value. -/
def amoAt (s : State) (t : Target) (w : Nat) (f : Nat → Option Nat) : State × Nat :=
  let old := loaded s t w
  if s.task.atomic then
    let s1 := noteAccess s t w false
    match f old with
    | some v => (storeAt s1 t (bytesOf w v), old)
    | none => (s1, old)
  else
    let s1 := noteAccess s t w true
    match f old with
    | some v =>
      let k := s1.me
      let out := fun (b : Nat × Byte) => decide (t.loc ≤ b.1) && decide (b.1 < t.loc + w)
      let mine := k.pend.filter out
      (land (s1.setMe { k with pend := k.pend.filter (fun b => !out b) }) (some s1.task.colour) (some s1.turn.core) s1.taskId
        (overlay mine (tableAt t.loc (bytesOf w v))), old)
    | none => (s1, old)

/-- What an operation writes over old, given b: a CAS writes it only where old is the comparand. -/
def casNew (v b old : Nat) : Option Nat := if old = b then some v else none

/-- A scalar AMO of w bytes (R314): new gives the value to write from b, X[s3] and old. -/
def amoForm (o : AmoOp) (w : Nat) (new : Nat → Nat → Nat → Option Nat) (s : State) : Out :=
  let s0 := s.noteVia o.sel o.n
  finish s0 (do
    trapIf (namesScratch o.sel && s.task.atomic) (trapAt .atomirrev 1 0 (selectorAddr s.turn.core o.sel.toNat (s.x o.s1) w).1)
    let m ← via s s.who o.sel o.n
    let a := accVia s.turn.core m (s.x o.s1) w .amo 0
    let t ← checkAcc s s.who { a with mis := unaligned a.ea w, scalar := true, guarded := true } true
    if o.rl then s.readyToRelease
    if amoHeld s t then .error (.wait (.held (lineOf t.loc)))
    else
      let r := if o.rl then s0.releaseMe o.scope.toNat else s0
      let (r1, old) := amoAt r t w (new ((s.x o.s2).toNat % 2 ^ (8 * w)) ((s.x o.s3).toNat % 2 ^ (8 * w)))
      let r2 := if o.aq && !s.task.atomic then r1.acquireMe o.scope.toNat else r1
      .ok ((r2.setX o.d (signWord old (8 * w))).retire 8))

/-! ### VAMO (R383) -/

/-- The elements in the order in which they take effect: ascending, and where some meet, an order that is a
free value. -/
def vamoTurns (s : State) (good : List (Nat × Target)) : List (Nat × Target) × State :=
  if (good.map (fun g => g.2.loc)).eraseDups.length = good.length then (good, s)
  else
    let first := ((Config.vamoOrder s.freeCnt).eraseDups).filterMap (fun i => good.find? (fun g => g.1 = i))
    (first ++ good.filter (fun g => !(first.map (·.1)).contains g.1), { s with freeCnt := s.freeCnt + 1 })

/-- Perform elements one after another: the state, the old values, and the elements of an atomic task that
exceed its capacity. -/
def vamoElems (s : State) (w : Nat) (new : Nat → Nat → Option Nat) (ea : Nat → Word) :
    List (Nat × Target) → State × List (Nat × Nat) × List (Nat × Trap)
  | [] => (s, [], [])
  | (i, t) :: l =>
    match checkCapacity s s.who (accGv (ea i) w .amo false) t.loc with
    | .error _ =>
      let r := vamoElems s w new ea l
      (r.1, r.2.1, (i, trapAt .atomirrev 2 i (ea i)) :: r.2.2)
    | .ok _ =>
      let (s1, old) := amoAt s t w (new i)
      let r := vamoElems s1 w new ea l
      (r.1, (i, old) :: r.2.1, r.2.2)

/-- A VAMO of w bytes, whose elements are integers of that width whatever VTY's type; under a block type its tiles must leave
room for scale registers as those of every vector form (R109, R383). new gives the value to write from b, the element of vd,
and old. -/
def vamoForm (o : VAmoOp) (w : Nat) (new : Nat → Nat → Nat → Option Nat) (s : State) : Out :=
  let e := 8 * w
  match memCheck s o.sel { overType 0 e with blen := (vtyType s.me.vty).blen } true [o.d, o.s2, o.s3] with
  | .error h => finish s (.error h)
  | .ok _ =>
    let s' := s.noteVia o.sel o.n
    match (if o.rl then s.readyToRelease else .ok ()) with
    | .error h => finish s' (.error h)
    | .ok _ =>
      let acts := s.active o.m
      let sp := elemSplit s o.sel o.n (s.x o.s1) (.index o.s2) e .amo true acts
      match sp.good.find? (fun g => amoHeld s g.2) with
      | some g => .next (waitOn s' (.held (lineOf g.2.loc)))
      | none =>
        let addrs := elemAddrs s o.sel o.n (s.x o.s1) (.index o.s2) e acts
        let ea := fun (i : Nat) => match addrs.find? (fun a => a.1 = i) with | some a => a.2 | none => 0
        let (turns, s0) := vamoTurns (if o.rl then s'.releaseMe o.scope.toNat else s') sp.good
        let (s1, olds, late) := vamoElems s0 w (fun i => new (s.elem o.s3.toNat e i) (s.elem o.d.toNat e i)) ea turns
        let s2 := if o.aq && !s.task.atomic then s1.acquireMe o.scope.toNat else s1
        let s3 := (countBanks s2 sp.good w).setElems o.d.toNat e olds
        elementsEnd s' (s3.agnostic o.d.toNat e (s.unselected o.m)) { sp with bad := sp.bad ++ late }

/-! ### The forms (R313) -/

/-- AMOADD.W (R313, R314). -/
def execAmoaddW (o : AmoOp) (s : State) : Out := amoForm o 4 (fun b _ old => some ((old + b) % 2 ^ 32)) s
/-- AMOAND.W (R313, R314). -/
def execAmoandW (o : AmoOp) (s : State) : Out := amoForm o 4 (fun b _ old => some (old &&& b)) s
/-- AMOOR.W (R313, R314). -/
def execAmoorW (o : AmoOp) (s : State) : Out := amoForm o 4 (fun b _ old => some (old ||| b)) s
/-- AMOXOR.W (R313, R314). -/
def execAmoxorW (o : AmoOp) (s : State) : Out := amoForm o 4 (fun b _ old => some (old ^^^ b)) s
/-- AMOSWAP.W (R313, R314). -/
def execAmoswapW (o : AmoOp) (s : State) : Out := amoForm o 4 (fun b _ _ => some b) s
/-- AMOMIN.W (R313, R314). -/
def execAmominW (o : AmoOp) (s : State) : Out := amoForm o 4 (fun b _ old => some (minS 32 old b)) s
/-- AMOMAX.W (R313, R314). -/
def execAmomaxW (o : AmoOp) (s : State) : Out := amoForm o 4 (fun b _ old => some (maxS 32 old b)) s
/-- AMOMINU.W (R313, R314). -/
def execAmominuW (o : AmoOp) (s : State) : Out := amoForm o 4 (fun b _ old => some (min old b)) s
/-- AMOMAXU.W (R313, R314). -/
def execAmomaxuW (o : AmoOp) (s : State) : Out := amoForm o 4 (fun b _ old => some (max old b)) s
/-- AMOCAS.W (R313, R314). -/
def execAmocasW (o : AmoOp) (s : State) : Out := amoForm o 4 (fun b v old => casNew v b old) s
/-- AMOADD.D (R313, R314). -/
def execAmoaddD (o : AmoOp) (s : State) : Out := amoForm o 8 (fun b _ old => some ((old + b) % 2 ^ 64)) s
/-- AMOAND.D (R313, R314). -/
def execAmoandD (o : AmoOp) (s : State) : Out := amoForm o 8 (fun b _ old => some (old &&& b)) s
/-- AMOOR.D (R313, R314). -/
def execAmoorD (o : AmoOp) (s : State) : Out := amoForm o 8 (fun b _ old => some (old ||| b)) s
/-- AMOXOR.D (R313, R314). -/
def execAmoxorD (o : AmoOp) (s : State) : Out := amoForm o 8 (fun b _ old => some (old ^^^ b)) s
/-- AMOSWAP.D (R313, R314). -/
def execAmoswapD (o : AmoOp) (s : State) : Out := amoForm o 8 (fun b _ _ => some b) s
/-- AMOMIN.D (R313, R314). -/
def execAmominD (o : AmoOp) (s : State) : Out := amoForm o 8 (fun b _ old => some (minS 64 old b)) s
/-- AMOMAX.D (R313, R314). -/
def execAmomaxD (o : AmoOp) (s : State) : Out := amoForm o 8 (fun b _ old => some (maxS 64 old b)) s
/-- AMOMINU.D (R313, R314). -/
def execAmominuD (o : AmoOp) (s : State) : Out := amoForm o 8 (fun b _ old => some (min old b)) s
/-- AMOMAXU.D (R313, R314). -/
def execAmomaxuD (o : AmoOp) (s : State) : Out := amoForm o 8 (fun b _ old => some (max old b)) s
/-- AMOCAS.D (R313, R314). -/
def execAmocasD (o : AmoOp) (s : State) : Out := amoForm o 8 (fun b v old => casNew v b old) s
/-- VAMOADD.W (R383). -/
def execVamoaddW (o : VAmoOp) (s : State) : Out := vamoForm o 4 (fun b _ old => some ((old + b) % 2 ^ 32)) s
/-- VAMOAND.W (R383). -/
def execVamoandW (o : VAmoOp) (s : State) : Out := vamoForm o 4 (fun b _ old => some (old &&& b)) s
/-- VAMOOR.W (R383). -/
def execVamoorW (o : VAmoOp) (s : State) : Out := vamoForm o 4 (fun b _ old => some (old ||| b)) s
/-- VAMOXOR.W (R383). -/
def execVamoxorW (o : VAmoOp) (s : State) : Out := vamoForm o 4 (fun b _ old => some (old ^^^ b)) s
/-- VAMOSWAP.W (R383). -/
def execVamoswapW (o : VAmoOp) (s : State) : Out := vamoForm o 4 (fun b _ _ => some b) s
/-- VAMOMIN.W (R383). -/
def execVamominW (o : VAmoOp) (s : State) : Out := vamoForm o 4 (fun b _ old => some (minS 32 old b)) s
/-- VAMOMAX.W (R383). -/
def execVamomaxW (o : VAmoOp) (s : State) : Out := vamoForm o 4 (fun b _ old => some (maxS 32 old b)) s
/-- VAMOMINU.W (R383). -/
def execVamominuW (o : VAmoOp) (s : State) : Out := vamoForm o 4 (fun b _ old => some (min old b)) s
/-- VAMOMAXU.W (R383). -/
def execVamomaxuW (o : VAmoOp) (s : State) : Out := vamoForm o 4 (fun b _ old => some (max old b)) s
/-- VAMOCAS.W (R383): the comparand is vd's element. -/
def execVamocasW (o : VAmoOp) (s : State) : Out := vamoForm o 4 (fun b cmp old => casNew b cmp old) s
/-- VAMOADD.D (R383). -/
def execVamoaddD (o : VAmoOp) (s : State) : Out := vamoForm o 8 (fun b _ old => some ((old + b) % 2 ^ 64)) s
/-- VAMOAND.D (R383). -/
def execVamoandD (o : VAmoOp) (s : State) : Out := vamoForm o 8 (fun b _ old => some (old &&& b)) s
/-- VAMOOR.D (R383). -/
def execVamoorD (o : VAmoOp) (s : State) : Out := vamoForm o 8 (fun b _ old => some (old ||| b)) s
/-- VAMOXOR.D (R383). -/
def execVamoxorD (o : VAmoOp) (s : State) : Out := vamoForm o 8 (fun b _ old => some (old ^^^ b)) s
/-- VAMOSWAP.D (R383). -/
def execVamoswapD (o : VAmoOp) (s : State) : Out := vamoForm o 8 (fun b _ _ => some b) s
/-- VAMOMIN.D (R383). -/
def execVamominD (o : VAmoOp) (s : State) : Out := vamoForm o 8 (fun b _ old => some (minS 64 old b)) s
/-- VAMOMAX.D (R383). -/
def execVamomaxD (o : VAmoOp) (s : State) : Out := vamoForm o 8 (fun b _ old => some (maxS 64 old b)) s
/-- VAMOMINU.D (R383). -/
def execVamominuD (o : VAmoOp) (s : State) : Out := vamoForm o 8 (fun b _ old => some (min old b)) s
/-- VAMOMAXU.D (R383). -/
def execVamomaxuD (o : VAmoOp) (s : State) : Out := vamoForm o 8 (fun b _ old => some (max old b)) s
/-- VAMOCAS.D (R383): the comparand is vd's element. -/
def execVamocasD (o : VAmoOp) (s : State) : Out := vamoForm o 8 (fun b cmp old => casNew b cmp old) s

end Sys2Proof.Machine
end

