-- ==== Sys2Proof/Machine/Bind.lean ====
section
/-! DEFINITION. Bind records and the timetable (R171 to R173), and the next bell of a colour (R270, R272). -/

namespace Sys2Proof.Machine

/-! ### Fields of a bind record (R171) -/

abbrev BindRec := BitVec 512

def bWend (r : BindRec) : Nat := bitsOf r 511 448
def bWstart (r : BindRec) : Nat := bitsOf r 447 384
def bCore (r : BindRec) (i : Nat) : Bool := bitOf r (288 + i)
def bTarget (r : BindRec) : Nat := bitsOf r 287 231
def bPkey (r : BindRec) : BitVec 16 := BitVec.ofNat 16 (bitsOf r 223 208)
def bColour (r : BindRec) : Nat := bitsOf r 207 192
/-- The partition that a KIND 10 record names for a role: 0 loader, 1 worker, 2 storer. -/
def bRole (r : BindRec) (role : Nat) : Nat := bitsOf r (162 + 3 * role) (160 + 3 * role)
def bRing (r : BindRec) : Nat := bitsOf r 129 128
def bPrio (r : BindRec) : Nat := bitsOf r 7 6
def bSplit (r : BindRec) : Nat := bitsOf r 5 4
def bKind (r : BindRec) : Nat := bitsOf r 3 2
def bV (r : BindRec) : Bool := bitOf r 0

/-- Bind record n of a die. -/
def State.bindRec (s : State) (die n : Nat) : BindRec := Table.get 0 (s.die die).bind n

/-- The cores of a record's set, by index in the die. -/
def bCores (r : BindRec) : List Nat := (upTo Config.coresPerDie).filter (bCore r)

/-- The record's window holds the time (R173). -/
def bOpen (r : BindRec) (t : Nat) : Bool :=
  bV r && decide (bWstart r ≤ t) && (decide (bWend r = 0) || decide (t < bWend r))

/-- Two windows overlap (R172). -/
def bOverlap (a b : BindRec) : Bool :=
  (decide (bWend a = 0) || decide (bWstart b < bWend a)) && (decide (bWend b = 0) || decide (bWstart a < bWend b))

/-- Two records share a core. -/
def bShare (a b : BindRec) : Bool := (upTo Config.coresPerDie).any (fun c => bCore a c && bCore b c)

/-- A record's window ends with a bell on a core of its die: another colour's record begins on the same core then, and no
other record keeps its colour there (R172, R272). -/
def bellOn (s : State) (die : Nat) (r : BindRec) (c : Nat) : Bool :=
  bV r && decide (bWend r ≠ 0) && bCore r c
    && (s.die die).bind.any (fun o => bV o.2 && decide (bColour o.2 ≠ bColour r) && decide (bWstart o.2 = bWend r) && bCore o.2 c)
    && !(s.die die).bind.any (fun o => bOpen o.2 (bWend r) && decide (bColour o.2 = bColour r) && bCore o.2 c)

/-- It ends with a bell on some core. -/
def bBell (s : State) (die : Nat) (r : BindRec) : Bool := (upTo Config.coresPerDie).any (bellOn s die r)

/-- A bell of some record has begun on the core at least `ago` ns ago, and the switch is not complete (R272). -/
def bellBegan (s : State) (core ago : Nat) : Bool :=
  let d := dieOf core
  (s.die d).bellAt.any (fun b => decide (b.2 + ago ≤ s.time) && bellOn s d (s.bindRec d b.1) (core % Config.coresPerDie))

/-- Such a bell stops dispatch on the core. -/
def belling (s : State) (core : Nat) : Bool := bellBegan s core 0

/-- TIME of the next bell for a colour on a core; 0 if none is set (R270). -/
def nextBell (s : State) (core colour : Nat) : Nat :=
  let d := dieOf core
  let times := ((s.die d).bind.filter (fun r => bellOn s d r.2 (core % Config.coresPerDie) && decide (bColour r.2 = colour)
    && decide (s.time ≤ bWend r.2))).map (fun r => bWend r.2)
  match times with
  | [] => 0
  | t :: ts => ts.foldl min t

end Sys2Proof.Machine
end

