-- ==== Sys2Proof/Machine/Engine.lean ====
section
/-! DEFINITION. Engines: delivery of messages and containment (R184 to R189), completions in barrier slots and
rings (R194 to R196), trap records that are posted (R269, R423), and the copy engine (R191, R192). -/

namespace Sys2Proof.Machine

/-! ### Units and keys -/

/-- The number of a cluster's engine; the fill unit is number 768. -/
def unitOf (cluster eng : Nat) : Nat := 4 * cluster + eng
def fillUnitNo : Nat := 768

/-- The unit that a message of a core is for (R184). -/
def unitFor (m : Msg) : Nat := if mEng m = 3 then fillUnitNo else unitOf (m.core / 4) (mEng m)

/-- A message's capability. -/
def mKey (m : Msg) : BitVec 16 := BitVec.ofNat 16 (mCap m)

/-- The keys that the receiver of a message accepts (R187): for the one fill unit of the device, those of the die of the core
that issues the message (DESIGN CHOICE log 78). -/
def keysFor (s : State) (m : Msg) : List (BitVec 16) :=
  if mEng m = 3 then ((s.die (dieOf m.core)).bind.filter (fun r => bV r.2)).map (fun r => bPkey r.2)
  else ((upTo 4).map (fun i => s.core (m.core / 4 * 4 + i))).filterMap (fun c => if c.colour.isSome then some c.pkey else none)

/-- What a message's completion counts with BYTES = 1 (R194, R212, R231). -/
def mAmount (m : Msg) : Nat := match mEng m with
  | 0 => mLen m
  | 1 => if mOp m = 0 then 16 * (mArg m % 2 ^ 16) else 32 * (mArg m % 2 ^ 10 + 1)
  | 2 => 16 * (mArg m % 2 ^ 16)
  | _ => 0

/-! ### Diverted messages (R187, R188) -/

/-- The record of a diverted message: DETAIL 0 capability mismatch, 1 stale target. -/
def divertRecord (m : Msg) (detail : Nat) : BitVec 1024 :=
  let aux := BitVec.ofNat 256 (m.w0.toNat + 2 ^ 64 * m.w1.toNat + 2 ^ 128 * m.w2.toNat + 2 ^ 192 * m.w3.toNat)
  trapRecord { trapOf .contain detail with aux := aux } 0 m.colour m.task 0 false false false false

/-- A message is diverted to the supervisor queue of the partition that issued it. -/
def divert (s : State) (m : Msg) (unit detail : Nat) : State :=
  let t := s.taskAt m.task
  { s with sched := { s.sched with diverts := s.sched.diverts ++
      [{ unit := unit, die := t.die, recNo := t.recNo, colour := m.colour, record := divertRecord m detail }] } }

/-- The unit takes no message: a record of its own waits to be posted, or its completion ring is full. -/
def unitHeld (s : State) (unit : Nat) : Bool :=
  s.sched.diverts.any (fun d => decide (d.unit = unit)) || s.sched.due.any (fun d => decide (d.unit = some unit))

/-! ### Chain trackers (R128, R130) -/

/-- A copy's tracker is released; failed: words that have not landed never will, for loads that wait. -/
def releaseTracker (s : State) (core part id : Nat) (failed : Bool) : State :=
  let p := s.partAt core part
  let gone := p.trackers.filter (fun t => t.id = id)
  let s1 := s.setPartAt core part { p with trackers := p.trackers.filter (fun t => t.id ≠ id) }
  if !failed then s1
  else
    let lost := gone.map (fun t => (t.base + t.landed, t.base + t.len))
    let note := fun (s : State) (c : CtxId) => match (s.ctx c).wait with
      | some (.chain r ps m) => s.setCtx c { s.ctx c with wait := some (.chain r ps (m ++ lost)) }
      | _ => s
    let c : CtxId := { core := core, part := part, tail := false }
    note (note s1 c) c.other

/-- More bytes of a copy have landed. -/
def trackLanded (s : State) (m : Msg) (landed : Nat) : State :=
  match m.tracker with
  | none => s
  | some id =>
    let p := s.partAt m.core m.part
    s.setPartAt m.core m.part { p with trackers := p.trackers.map (fun t => if t.id = id then { t with landed := landed } else t) }

/-! ### Completions (R194, R195) -/

/-- The core whose barrier slot a reply names (R186). -/
def replyCore (m : Msg) : Nat := if mBtgt m = 1 then m.core else m.core / 4 * 4 + (mBtgt m - 2)

/-- Why a reply is refused at its target: the DETAIL of the diverted message (R187, R188). -/
def replyRefused (s : State) (m : Msg) : Option Nat :=
  if mRkind m ≠ 1 then none
  else
    let k := s.core (replyCore m)
    if k.colour ≠ some m.colour then some 1
    else if k.pkey ≠ mKey m then some 0
    else none

/-- A completion reaches a barrier slot (R194). Where a failed one takes N below -2^31 while FAULT is 0, FCODE says ILLEGAL
and not its own cause (DESIGN CHOICE log 79). -/
def slotComplete (s : State) (core n amount fcode : Nat) : State :=
  let w := readSlot s core n
  let w1 := slotDown w (if slotBytes w then amount else 1)
  writeSlot s core n 0 (if fcode = 0 then w1 else slotFail w1 fcode)

/-- What a request has written is published by its completion (R152, R160); what lies in the scratchpad of a core that
has lost its colour meanwhile falls out (R273). -/
def publishFor (s : State) (colour : Nat) (pend : Table Byte) : State :=
  let (s1, mine) := fallOut s colour Config.cores pend
  if mine.isEmpty then s1 else land (countRefusals s1 mine) (some colour) none 0 mine

/-- The line that keeps a set of writes from being published, where one does (R162). -/
def heldLine (s : State) (pend : Table Byte) : Option Nat := (pend.find? (fun b => lineHeld s (lineOf b.1))).map (fun b => lineOf b.1)

/-- A request completes: bytes is what it wrote, fcode 0 on success; contained: it was diverted, so it makes no
completion where its reply target refuses it too. A record for a ring waits to be written, and what the request wrote
with it. -/
def complete (s : State) (m : Msg) (bytes fcode : Nat) (contained : Bool) : State :=
  let unit := unitFor m
  let failed := decide (fcode ≠ 0)
  let s1 := publishFor s m.colour m.pend
  let freeNow := fun (s : State) => match m.tracker with
    | some id => releaseTracker s m.core m.part id failed
    | none => s
  match mRkind m, replyRefused s m with
  | 1, none => freeNow (slotComplete s1 (replyCore m) (mBslot m) (mAmount m) fcode)
  | 1, some d => freeNow (if contained then s1 else divert s1 m unit d)
  | 2, _ =>
    let status := if fcode = 0 then 0 else if contained then 3 else 1
    let due : DueRecord :=
      { ring := mRing m, body := completionRecord s.time m.w1.toNat bytes m.colour fcode (mEng m + 1) status,
        colour := m.colour, scope := 3, task := none, unit := some unit,
        tracker := m.tracker.map (fun id => (m.core, m.part, id)), failed := failed, pend := m.pend, hart := some (m.core, m.part) }
    { s with sched := { s.sched with due := s.sched.due ++ [due] } }
  | _, _ => freeNow s1

/-! ### Completion rings (R196) -/

/-- What becomes of a record that is due. -/
inductive RingWrite where
  | written (s : State)
  | failed (s : State)
  | full
  | ask (line : Nat)     -- a line that it writes, or reads, is held by another device or by the host (R162)

/-- A part of a record's writing that cannot be done: it waits for a line, or fails the record. -/
def RingWrite.stop {α : Type} (s : State) (r : Except Halt α) : RingWrite := match awaited r with
  | some line => .ask line
  | none => .failed s

/-- The record takes its index and is written, in the steps of R196: TAIL, bytes 4 to 31, SEQ. A refused write of part of a
poisoned sector is counted (R146). -/
def ringSteps (s : State) (d : DueRecord) (slot seq : Nat) : RingWrite :=
  let tail := d.ring.toNat + 20
  match devWrite s d.colour tail (bytesOf 4 seq) with
  | .error h => .failed (countPartial s d.colour tail 4 (.error h))
  | .ok s1 =>
    match devWrite s1 d.colour (slot + 4) ((bytesOf 32 d.body.toNat).drop 4) with
    | .error h => .failed (countPartial s1 d.colour (slot + 4) 28 (.error h))
    | .ok s2 => match devWrite s2 d.colour slot (bytesOf 4 seq) with
      | .error h => .failed (countPartial s2 d.colour slot 4 (.error h))
      | .ok s3 => .written s3

/-- Write a record to its ring (R196). What its request wrote is published with it, and before it, and also where the
record fails (DESIGN CHOICE log 47). The device reads and writes the descriptor and the slot for itself: the U bit of their
pages does not matter, and BASE need not be aligned (DESIGN CHOICE log 80). -/
def ringWrite (s0 : State) (d : DueRecord) : RingWrite :=
  match heldLine s0 d.pend, devRead s0 d.colour d.ring.toNat 32 with
  | some line, _ => .ask line
  | none, .error h => RingWrite.stop (publishFor (devNoted s0 d.colour d.ring.toNat 32) d.colour d.pend) (.error h : Except Halt Unit)
  | none, .ok bs =>
    let s := publishFor (devNoted s0 d.colour d.ring.toNat 32) d.colour d.pend
    let e : BitVec 256 := BitVec.ofNat 256 (ofBytes bs)
    let log := bitsOf e 71 64
    if bitsOf e 255 192 ≠ 0 ∨ bitsOf e 127 72 ≠ 0 ∨ log < 2 ∨ 16 < log then .failed s
    else
      let tail := bitsOf e 191 160
      if (tail + 2 ^ 32 - bitsOf e 159 128) % 2 ^ 32 = 2 ^ log then .full
      else
        let slot := bitsOf e 63 0 + 32 * (tail % 2 ^ log)
        match awaited (devPlaces s0 d.colour (d.ring.toNat + 20) 4), awaited (devPlaces s0 d.colour slot 32) with
        | some line, _ | none, some line => .ask line
        | none, none => ringSteps s d slot ((tail + 1) % 2 ^ 32)

/-- The record is done with, written or not: its task is gone, its engine goes on, its tracker is free (R128). -/
def endRecord (s : State) (d : DueRecord) (bad : Bool) : State :=
  let c := s.sched
  let s1 := { s with sched := { c with due := c.due.erase d, errors := if bad then c.errors + 1 else c.errors } }
  let s2 := match d.tracker with
    | some (core, part, id) => releaseTracker s1 core part id d.failed
    | none => s1
  match d.task with
  | some id => taskLeaves (s2.setTask id { s2.taskAt id with endDue := false }) id
  | none => s2

/-- The first record that can be written, or fails, or must ask for a line, and the state after it. -/
def nextRecord (s : State) : List DueRecord → Option State
  | [] => none
  | d :: ds => match ringWrite s d with
    | .written s1 => some (endRecord s1 d false)
    | .failed s1 => some (endRecord s1 d true)
    | .ask line => if asked s line then nextRecord s ds else some (askHolders s line)
    | .full => nextRecord s ds

/-- COMPLETION_RECORD_WRITE (R196): it waits while every ring is full. -/
def execCompletionRecordWrite (s : State) : Out := .next ((nextRecord s s.sched.due).getD s)

/-! ### Posting trap records (R269, R423) -/

/-- Post the first diverted message's record that can be posted. -/
def postDivert (s : State) : List Divert → Option State
  | [] => none
  | d :: ds => match postTo s d.die d.recNo d.colour d.record with
    | .done s1 => some { s1 with sched := { s1.sched with diverts := s1.sched.diverts.erase d } }
    | .noted s1 => some s1
    | .ask line => if asked s line then postDivert s ds else some (askHolders s line)
    | .no => postDivert s ds

/-- An attempt to post a record: to the S-mode trap log, which waits for a firmware switch in progress (R308), or to the
supervisor queue of the task's partition. -/
def postOf (s : State) (t : Task) (r : BitVec 1024) : Try :=
  if !recSmode r then postTo s t.die t.recNo t.colour r
  else if s.bar0.fwstate = 3 then .no
  else match postLog s r with
    | some s1 => .done s1
    | none => .no

/-- Post the record of a task. -/
def postTask (s : State) (id : Nat) : Option State :=
  let t := s.taskAt id
  match t.pending with
  | none => none
  | some r => match postOf s t r with
    | .done s1 => some (s1.setTask id { s1.taskAt id with pending := none })
    | other => other.next s

/-- TRAP_RECORD_POST (R269): of a task, or, for task 0, of a diverted message. It waits while it cannot be done. -/
def execTrapRecordPost (task : Nat) (s : State) : Out :=
  if task = 0 then .next ((postDivert s s.sched.diverts).getD s)
  else if (match (s.taskAt task).pending with | some r => !recSmode r | none => false) then .next ((postTask s task).getD s)
  else .next s

/-- TRAP_LOG_POST (R423). -/
def execTrapLogPost (task : Nat) (s : State) : Out :=
  if (match (s.taskAt task).pending with | some r => recSmode r | none => false) then .next ((postTask s task).getD s)
  else .next s

/-! ### Delivery (R184, R187, R189) -/

/-- The inbox of a message's unit. -/
def inboxOf (s : State) (m : Msg) : List Msg :=
  if mEng m = 3 then s.fill.inbox else Table.get [] (s.cluster (m.core / 4)).inbox (mEng m)

def setInbox (s : State) (m : Msg) (l : List Msg) : State :=
  if mEng m = 3 then { s with fill := { s.fill with inbox := l } }
  else
    let u := s.cluster (m.core / 4)
    s.setCluster (m.core / 4) { u with inbox := Table.set u.inbox (mEng m) l }

/-- Two messages come from one hart. -/
def sameHart (a b : Msg) : Bool := decide (a.core = b.core) && decide (a.part = b.part)

/-- A message comes before another of its hart and colour. -/
def sentBefore (a b : Msg) : Bool := sameHart a b && decide (a.colour = b.colour) && decide (a.seq < b.seq)

/-- A bell has saved an earlier message of the hart for the same unit, which goes first (R272). -/
def savedAhead (s : State) (m : Msg) : Bool :=
  s.saved.any (fun v => v.packets.any (fun p => sentBefore p m && decide (unitFor p = unitFor m)))

/-- A message among others, before the later ones of its hart (R189). -/
def inOrder (m : Msg) : List Msg → List Msg
  | [] => [m]
  | x :: xs => if sentBefore m x then m :: x :: xs else x :: inOrder m xs

/-- The completion record of an earlier message of the hart for the same unit is still to be written. -/
def recordAhead (s : State) (m : Msg) : Bool :=
  s.sched.due.any (fun d => decide (d.unit = some (unitFor m)) && decide (d.hart = some (m.core, m.part)))

/-- Earlier messages of a message's hart that its unit has not completed. -/
def earlier (s : State) (m : Msg) : List Msg :=
  ((if mEng m = 3 then s.fill.waits.map (·.msg) else ((s.cluster (m.core / 4)).aside.map (·.msg)).filter (fun a => decide (mEng a = mEng m)))
    ++ inboxOf s m).filter (sameHart m)

/-- The FIFO can hand its oldest message over; one that is refused completes behind the hart's earlier ones (R189). -/
def deliverable (s : State) (core part : Nat) : Bool :=
  match (s.partAt core part).fifo with
  | [] => false
  | m :: _ => decide ((inboxOf s m).length < 64) && !s.sched.diverts.any (fun d => decide (d.unit = unitFor m))
      && ((keysFor s m).contains (mKey m) || ((earlier s m).isEmpty && !savedAhead s m && !recordAhead s m))

/-- MESSAGE_DELIVER (R189, R187): a capability mismatch diverts the message. -/
def execMessageDeliver (core part : Nat) (s : State) : Out :=
  if !deliverable s core part then .next s
  else
    let p := s.partAt core part
    match p.fifo with
    | [] => .next s
    | m :: rest =>
      let s1 := s.setPartAt core part { p with fifo := rest }
      if (keysFor s m).contains (mKey m) then .next (setInbox s1 m (inboxOf s1 m ++ [m]))
      else .next (complete (divert s1 m (unitFor m) 0) m 0 (Cause.code .contain) true)

/-! ### Engine accesses -/

/-- An engine as the maker of an access for a message's task; it sees what the request has written (R152). key: it is a
write, checked against the capability at each scratchpad byte. -/
def engineWho (s : State) (m : Msg) (key : Bool) : Who :=
  { core := m.core, colour := m.colour, smode := (s.taskAt m.task).smode, atomic := false, task := m.task,
    pool := (s.taskAt m.task).pool, poolCnt := (s.taskAt m.task).poolCnt, frame := none, pend := m.pend,
    key := if key then some (mKey m) else none }

/-- A scratchpad that the message's colour does not hold refuses an engine's read (R122). -/
def engineReadRefused (s : State) (m : Msg) (a : Acc) : Bool :=
  inWindow a.ea && (match windowPlace m.core a.ea a.width with
    | some (c, _) => decide ((s.core c).colour ≠ some m.colour)
    | none => false)

/-- One read of an engine, within one sector. -/
def engineRead (s : State) (m : Msg) (a : Word) (n : Nat) : Except Halt Target :=
  let acc := accGv a n .load false
  if engineReadRefused s m acc then .error (acc.fault .contain 2) else checkAcc s (engineWho s m false) acc true

/-- One write of an engine, within one sector: it waits while another device or the host holds the line (R162). -/
def engineWrite (s : State) (m : Msg) (a : Word) (n : Nat) : Except Halt Target :=
  match checkAcc s (engineWho s m true) (accGv a n .store false) true with
  | .error h => .error h
  | .ok t => match (linesOf t.loc n).find? (lineHeld s) with
    | some line => .error (.wait (.held line))
    | none => .ok t

/-- The bytes that an engine reads in pieces, or why it cannot. -/
def loadPieces (s : State) (m : Msg) : List (Nat × Nat) → Except Halt (List Byte)
  | [] => .ok []
  | (a, n) :: ps =>
    match engineRead s m (BitVec.ofNat 64 a) n with
    | .error h => .error h
    | .ok t => match loadPieces s m ps with
      | .error h => .error h
      | .ok bs => .ok (seen s m.pend t.loc n ++ bs)

/-- A range in pieces of one sector. -/
def sectorPieces (a n : Nat) : List (Nat × Nat) := pieces 32 (n / 32 + 2) a n

/-- An engine reads a structure of n bytes. -/
def engineLoad (s : State) (m : Msg) (a : Word) (n : Nat) : Except Halt (List Byte) :=
  loadPieces s m (sectorPieces a.toNat n)

/-- What an engine's reads leave behind, as far as they come (R136, R146, R287); those of scratchpads leave nothing. -/
def noteReads (s : State) (m : Msg) (ps : List (Nat × Nat)) : State :=
  noteRange s (engineWho s m false) (ps.filter (fun p => !inWindow (gva (BitVec.ofNat 64 p.1))))

/-- The places that an engine writes in pieces, or why it cannot. -/
def storePieces (s : State) (m : Msg) : List (Nat × Nat) → Except Halt (List (Target × Nat))
  | [] => .ok []
  | (a, n) :: ps =>
    match engineWrite s m (BitVec.ofNat 64 a) n with
    | .error h => .error h
    | .ok t => match storePieces s m ps with
      | .error h => .error h
      | .ok l => .ok ((t, n) :: l)

/-- Places and lengths alone. -/
def spots (ps : List (Target × Nat)) : List (Nat × Nat) := ps.map (fun p => (p.1.loc, p.2))

/-- What an engine's write of n bytes leaves behind: its path and its ownership of lines of another device (R135, R290). -/
def noteWrite (s : State) (p : Target × Nat) : State := match p.1.home with
  | .scratch _ => s
  | _ => noteLines s p.1 p.2 true

/-- A request with more bytes written, which its completion publishes (R152). -/
def Msg.wrote (m : Msg) (ws : Table Byte) : Msg := { m with pend := overlay m.pend ws }

/-- What the walks of an engine's write of n bytes leave behind (R293). -/
def noteWalks (s : State) (m : Msg) (a : Word) (n : Nat) : State := (pagePieces a.toNat n).foldl (fun s p =>
  let b := gva (BitVec.ofNat 64 p.1)
  if inWindow b then s else noteWalk s m.core m.colour b) s

/-- An engine writes bytes; nothing is written where any of them fails. -/
def engineStore (s : State) (m : Msg) (a : Word) (bs : List Byte) : Except Halt (State × Msg) :=
  match storePieces s m (sectorPieces a.toNat bs.length) with
  | .error h => .error h
  | .ok ps => .ok (ps.foldl noteWrite (noteWalks s m a bs.length), m.wrote (layBytes (spots ps) bs))

/-! ### Requests that wait (R249, R250) -/

/-- A request as a waiter of blocks. -/
def Msg.waiter (m : Msg) : Waiter := .engine (unitFor m) m.core m.part

/-- Set a request aside until the blocks whose list it has joined have left TURNING, or for 4 µs (R249, R250). -/
def setAside (s : State) (m : Msg) (blocks : List BlockId) : State :=
  let bs := blocks.eraseDups
  let (s1, all) := requestAll s m.waiter m.task bs
  let s2 := if all then s1 else { s1 with fill := { s1.fill with retries := s1.fill.retries + 1 } }
  let a : Aside := { msg := m, blocks := bs.filter (joinedBy s2 m.waiter), retryAt := if all then none else some (s2.time + 4000),
                     backOff := if all then [] else bs.filter (fun b => !joinedBy s2 m.waiter b) }
  let u := s2.cluster (m.core / 4)
  s2.setCluster (m.core / 4) { u with aside := u.aside ++ [a] }

/-- A request goes on later, once a line has come from those who hold it. -/
def setLater (s : State) (m : Msg) : State :=
  let u := s.cluster (m.core / 4)
  s.setCluster (m.core / 4) { u with aside := u.aside ++ [{ msg := m, blocks := [], retryAt := some (s.time + 1) }] }

/-- A request that has not completed: its blocks, or a line that another device or the host holds, are awaited. -/
def suspend (s : State) (m : Msg) : Halt → State
  | .park bs => setAside s m bs
  | .wait w => setLater (askFor s w) m
  | .trap _ => setLater s m

/-- A request that was set aside can go on. -/
def asideReady (s : State) (a : Aside) : Bool :=
  (turningOf s a.blocks).isEmpty && (match a.retryAt with | some t => decide (t ≤ s.time) | none => true)

/-- The request that an engine serves next, taken from its inbox or from those set aside. The copy engine
serves other harts' requests meanwhile; the other engines are held by a request that waits (R250). -/
def takeRequest (s : State) (cluster eng : Nat) : Option (Msg × State) :=
  if unitHeld s (unitOf cluster eng) then none
  else
    let u := s.cluster cluster
    let mine := u.aside.filter (fun a => mEng a.msg = eng)
    match mine.find? (asideReady s) with
    | some a => some (a.msg, s.setCluster cluster { u with aside := u.aside.erase a })
    | none =>
      let inbox := Table.get [] u.inbox eng
      let freeOf := fun (m : Msg) => if eng = 0 then !mine.any (fun a => decide (a.msg.core = m.core) && decide (a.msg.part = m.part))
        else mine.isEmpty
      match inbox.find? (fun m => freeOf m && !savedAhead s m) with
      | some m => some (m, s.setCluster cluster { u with inbox := Table.set u.inbox eng (inbox.erase m) })
      | none => none

/-- A request is carried out, once no line that it has written is held (R162). Then it has re-executed: blocks that it
waited for are exempt from eviction for it no longer (R248). -/
def carryOut (s : State) (m : Msg) (run : State → Msg → State) : State :=
  match heldLine s m.pend with
  | some line => setLater (askHolders s line) m
  | none =>
    let t := run s m
    { t with fill := { t.fill with exempt := t.fill.exempt.filter (fun x => x.1 ≠ m.waiter) } }

/-- A request fails with the cause of a fault. -/
def failWith (s : State) (m : Msg) (bytes : Nat) (t : Trap) : State :=
  complete (noteTrap s m.core m.colour t) m bytes t.cause.code false

/-- A refused write of part of a poisoned sector is counted (R141, R146); one to a line whose owner is lost is none (R291). -/
def countRefused (s : State) (m : Msg) (t : Trap) : State :=
  match decide (t.cause = .poison), devicePlace s m.core m.colour t.addr with
  | true, some l => if ownerGone s (lineOf l) then s else countAt s (lineOf l) counterRefused 1
  | _, _ => s

/-- How a write that fails ends a request: a scratchpad whose core has changed diverts the message (R192). -/
def failWrite (s : State) (m : Msg) (bytes : Nat) (t : Trap) : State :=
  if t.cause = .contain then complete (divert s m (unitFor m) t.detail) m bytes t.cause.code true
  else failWith (countRefused s m t) m bytes t

/-! ### The copy engine (R191, R192) -/

/-- Source bytes of an engine in ascending order, as far as they can be read. Where the request itself has overwritten a
byte since, a free value says which of the two is copied. -/
def copySource (s : State) (m : Msg) : List (Nat × Nat) → List Byte × Option Halt
  | [] => ([], none)
  | (a, n) :: ps =>
    match engineRead s m (BitVec.ofNat 64 a) n with
    | .error h => ([], some h)
    | .ok t =>
      let bytes := (upTo n).map (fun i =>
        let new := seenByte s m.pend (t.loc + i)
        let old := s.mem.get (t.loc + i)
        if old = new then new else if Config.copyOld (a + i) s.freeCnt then old else new)
      let r := copySource s m ps
      (bytes ++ r.1, r.2)

/-- The pieces of the source for the next n bytes; none for a fill. -/
def copyPieces (m : Msg) (n : Nat) : List (Nat × Nat) := if mOp m = 1 then [] else pieces 32 3 (m.w1.toNat + m.done) n

/-- The bytes for the next n bytes of the destination, or as many as can be read and why no more. -/
def copyBytes (s : State) (m : Msg) (n : Nat) : List Byte × Option Halt :=
  if mOp m = 1 then ((upTo n).map (fun i => BitVec.ofNat 8 (m.w1.toNat / 256 ^ ((m.done + i) % 8))), none)
  else copySource s m (copyPieces m n)

/-- How a copy stops: by its reads or by its writes. -/
inductive CopyStop where
  | read (h : Halt)
  | write (h : Halt)
  deriving DecidableEq, Repr

/-- Copy on from byte m.done, one sector of the destination at a time: the state, the request with what it has done, and
why it stopped. -/
def copyLoop : Nat → State → Msg → State × Msg × Option CopyStop
  | 0, s, m => (s, m, none)
  | fuel + 1, s, m =>
    if mLen m ≤ m.done then (s, m, none)
    else
      let d := m.w2 + BitVec.ofNat 64 m.done
      let n := min (32 - d.toNat % 32) (mLen m - m.done)
      let (bytes, stop) := copyBytes s m n
      let s0 := noteReads s m (copyPieces m n)
      if bytes.isEmpty then (s0, m, stop.map .read)
      else match engineWrite s0 m d bytes.length with
        | .error h => (s0, m, some (.write h))
        | .ok t =>
          let m1 := { m.wrote (tableAt t.loc bytes) with done := m.done + bytes.length }
          let s1 := trackLanded (noteWrite (noteWalks s0 m d bytes.length) (t, bytes.length)) m1 m1.done
          match stop with
          | some h => (s1, m1, some (.read h))
          | none => copyLoop fuel s1 m1

/-- A copy request is carried out, from where it stopped. -/
def runCopy (s : State) (m : Msg) : State :=
  if 1 < mOp m ∨ bitsOf m.w0 30 24 ≠ 0 then complete s m 0 (Cause.code .illegal) false
  else
    let (s1, m1, stop) := copyLoop (mLen m / 32 + 2) s m
    let s2 := { s1 with freeCnt := s1.freeCnt + 1 }
    match stop with
    | none => complete s2 m1 m1.done 0 false
    | some (.read (.trap t)) => failWith s2 m1 m1.done t
    | some (.write (.trap t)) => failWrite s2 m1 m1.done t
    | some (.read h) | some (.write h) => suspend s2 m1 h

/-- The copy engine of a cluster serves its next request. -/
def serveCopy (cluster : Nat) (s : State) : Out :=
  match takeRequest s cluster 0 with
  | some (m, s1) => .next (carryOut s1 m runCopy)
  | none => .next s

/-- The operation of the request that the copy engine serves next. -/
def nextCopyOp (s : State) (cluster : Nat) : Option Nat := (takeRequest s cluster 0).map (fun r => mOp r.1)

/-- COPY (R192). -/
def execCopy (cluster : Nat) (s : State) : Out :=
  if nextCopyOp s cluster = some 1 then .next s else serveCopy cluster s

/-- COPY_FILL (R191). -/
def execCopyFill (cluster : Nat) (s : State) : Out :=
  if nextCopyOp s cluster = some 1 then serveCopy cluster s else .next s

/-! ### The fill unit's inbox (R258) -/

/-- PREFILL of a message: it touches its block, and completes once the block has left TURNING. -/
def runPrefill (s : State) (m : Msg) : State :=
  if mOp m ≠ 0 ∨ mArg m ≠ 0 ∨ m.w2 ≠ 0 then complete s m 0 (Cause.code .illegal) false
  else match blockAt s m.w1 with
    | none => complete s m 0 (Cause.code .bounds) false
    | some b =>
      match fillState s b with
      | .filled => complete s m 0 0 false
      | .spoiled => complete s m 0 (Cause.code .fillfail) false
      | _ =>
        let (s1, all) := requestAll s (.prefill m) 0 [b]
        let s2 := if all then s1 else { s1 with fill := { s1.fill with retries := s1.fill.retries + 1 } }
        { s2 with fill := { s2.fill with waits := s2.fill.waits ++
            [{ msg := m, blocks := if all then [b] else [], retryAt := if all then none else some (s2.time + 4000),
               backOff := if all then [] else [b] }] } }

/-- The PREFILL that the fill unit can serve: one whose block has left TURNING, or its oldest message of a hart none of
whose earlier ones waits (R189). -/
def takePrefill (s : State) : Option (Msg × State) :=
  if unitHeld s fillUnitNo then none
  else match s.fill.waits.find? (asideReady s) with
    | some a => some (a.msg, { s with fill := { s.fill with waits := s.fill.waits.erase a } })
    | none => (s.fill.inbox.find? (fun m => !s.fill.waits.any (fun a => sameHart a.msg m) && !savedAhead s m)).map
        (fun m => (m, { s with fill := { s.fill with inbox := s.fill.inbox.erase m } }))

/-- PREFILL (R258). It has re-executed then, so its block is exempt from eviction for it no longer (R248). -/
def execPrefill (s : State) : Out :=
  match takePrefill s with
  | some (m, s1) =>
    let t := runPrefill s1 m
    .next { t with fill := { t.fill with exempt := t.fill.exempt.filter (fun x => x.1 ≠ Waiter.prefill m) } }
  | none => .next s

end Sys2Proof.Machine
end

