-- ==== Sys2Proof/WellFormed.lean ====
section
/-! DEFINITION. Which instructions are well formed: every operand at a value that the instruction's encoding
admits (R66 to R81), and every event at a place that the device has (R1). -/

namespace Sys2Proof

/-- k is 0 unless the mask mode names a k register (R81). -/
def MaskSel.ok (m : MaskSel) : Bool := decide (2 ≤ m.mm.toNat) || decide (m.k = 0)

/-- An integer type override (R72, column VI), or an element width (column VM). -/
def etInt (e : BitVec 3) : Bool := decide (e.toNat ≤ 4)

/-- A floating-point type override (R72, column VF). -/
def etFlt (e : BitVec 3) : Bool := decide (e.toNat ≤ 6)

/-- A rounding mode, dynamic included (R73). -/
def rmOk (r : BitVec 3) : Bool := decide (r.toNat ≤ 4) || decide (r = 7)

/-- A scope (R73). -/
def scopeOk (s : BitVec 3) : Bool := decide (s.toNat ≤ 5)

/-- A space selector, and a buffer record only where it is 110 (R71). -/
def selOk (sel : BitVec 3) (n : BitVec 8) : Bool := !decide (sel = 7) && (decide (sel = 6) || decide (n = 0))

/-- A k register where a d or s1 field names one (R83). -/
def kOk (r : Reg) : Bool := decide (r.toNat < 8)

/-- A barrier target that names a scratchpad (R71, R79). -/
def targetOk (t : BitVec 3) : Bool := decide (1 ≤ t.toNat) && decide (t.toNat ≤ 5)

/-- A destination type of VCVT: its FMT and SEW codes form a pair of R86 under some block length. -/
def cvtType (fmt : BitVec 5) (sew : BitVec 3) : Bool :=
  match fmt.toNat, sew.toNat with
  | 0, 1 | 0, 2 | 0, 3 | 0, 4 | 1, 4 | 2, 3 | 3, 2 | 4, 2 | 5, 1 | 6, 1 | 8, 1 | 9, 1 | 10, 0 | 12, 0 => true
  | _, _ => false

/-- Operand classes 00, 01 and 10 (R70): the accepted ones. -/
def Src.ok (v x i : Bool) : Src → Bool
  | .vec _ => v
  | .xreg _ => x
  | .imm _ => i

def VecOp.ok (v x i : Bool) (o : VecOp) : Bool := o.b.ok v x i && etInt o.et && o.m.ok
def VecUn.ok (o : VecUn) : Bool := etInt o.et && o.m.ok
/-- rounds: the form takes a rounding mode; fused: it reads s3 (R75, R392). -/
def FltOp.ok (rounds fused : Bool) (o : FltOp) : Bool :=
  o.b.ok true true false && (if rounds then rmOk o.rm else decide (o.rm = 0)) && (fused || decide (o.s3 = 0))
    && etFlt o.et && o.m.ok
def FltUn.ok (rounds : Bool) (o : FltUn) : Bool :=
  (if rounds then rmOk o.rm else decide (o.rm = 0)) && etFlt o.et && o.m.ok
/-- R389: udst only with an integer destination, and usrc with no override, since every override of the
VF column is a floating-point type. -/
def CvtOp.ok (o : CvtOp) : Bool :=
  cvtType o.fmt o.sew && (!o.udst || decide (o.fmt = 0)) && (!o.usrc || decide (o.et = 0)) && rmOk o.rm
    && etFlt o.et && o.m.ok
/-- s2: the form has a stride or an offset vector (R403, R410). -/
def MemOp.ok (s2 : Bool) (o : MemOp) : Bool :=
  selOk o.sel o.n && (s2 || decide (o.s2 = 0)) && etInt o.et && o.m.ok
def SpillOp.ok (o : SpillOp) : Bool := selOk o.sel o.n
/-- cas: the form reads s3 (R313). -/
def AmoOp.ok (cas : Bool) (o : AmoOp) : Bool :=
  selOk o.sel o.n && scopeOk o.scope && (cas || decide (o.s3 = 0))
def VAmoOp.ok (o : VAmoOp) : Bool := selOk o.sel o.n && scopeOk o.scope && o.m.ok
/-- SEW 32 or 64, colours of that width, and a ticket below 4,096 (R234). -/
def TileOffer.ok (o : TileOffer) : Bool :=
  (decide (o.sew = 32) || decide (o.sew = 64)) && decide (o.colours.length = 64)
    && o.colours.all (fun c => decide (c < 2 ^ o.sew)) && decide (o.ticket < 4096)

/-- The instruction is one that an encoding, or an event of the device, can name. -/
def Instr.wellFormed : Instr → Bool
  | .add _ _ _ => true
  | .addi _ _ _ => true
  | .addiw _ _ _ => true
  | .addw _ _ _ => true
  | .and _ _ _ => true
  | .andi _ _ _ => true
  | .auipc _ _ => true
  | .beq _ _ _ => true
  | .bne _ _ _ => true
  | .blt _ _ _ => true
  | .bge _ _ _ => true
  | .bltu _ _ _ => true
  | .bgeu _ _ _ => true
  | .csrrw _ _ _ => true
  | .csrrs _ _ _ => true
  | .csrrc _ _ _ => true
  | .csrrwi _ _ _ => true
  | .csrrsi _ _ _ => true
  | .csrrci _ _ _ => true
  | .div _ _ _ => true
  | .divu _ _ _ => true
  | .divw _ _ _ => true
  | .divuw _ _ _ => true
  | .ecall => true
  | .ebreak => true
  | .fence _ _ => true
  | .fenceTso => true
  | .fenceI => true
  | .jal _ _ => true
  | .jalr _ _ _ => true
  | .lb _ _ _ => true
  | .lh _ _ _ => true
  | .lw _ _ _ => true
  | .ld _ _ _ => true
  | .lbu _ _ _ => true
  | .lhu _ _ _ => true
  | .lwu _ _ _ => true
  | .lui _ _ => true
  | .mul _ _ _ => true
  | .mulh _ _ _ => true
  | .mulhsu _ _ _ => true
  | .mulhu _ _ _ => true
  | .mulw _ _ _ => true
  | .or _ _ _ => true
  | .ori _ _ _ => true
  | .rem _ _ _ => true
  | .remu _ _ _ => true
  | .remw _ _ _ => true
  | .remuw _ _ _ => true
  | .sb _ _ _ => true
  | .sh _ _ _ => true
  | .sw _ _ _ => true
  | .sd _ _ _ => true
  | .sll _ _ _ => true
  | .srl _ _ _ => true
  | .sra _ _ _ => true
  | .slli _ _ _ => true
  | .srli _ _ _ => true
  | .srai _ _ _ => true
  | .sllw _ _ _ => true
  | .srlw _ _ _ => true
  | .sraw _ _ _ => true
  | .slliw _ _ _ => true
  | .srliw _ _ _ => true
  | .sraiw _ _ _ => true
  | .slt _ _ _ => true
  | .sltu _ _ _ => true
  | .slti _ _ _ => true
  | .sltiu _ _ _ => true
  | .sub _ _ _ => true
  | .subw _ _ _ => true
  | .xor _ _ _ => true
  | .xori _ _ _ => true
  | .setvl _ _ _ => true
  | .setvlReg _ _ _ => true
  | .mpush n => kOk n
  | .minv => true
  | .mpop => true
  | .bmz _ => true
  | .bmnz _ => true
  | .jtbl _ _ _ _ => true
  | .hback _ _ => true
  | .frjoin => true
  | .tresume _ => true
  | .tkill _ => true
  | .tlbinv _ _ => true
  | .tlbinvCol _ _ => true
  | .phase aq rl scope => (aq || rl) && scopeOk scope
  | .arrive target _ _ scope => targetOk target && scopeOk scope
  | .waitb _ scope => scopeOk scope
  | .testb _ _ => true
  | .enq _ => true
  | .enqNb _ _ => true
  | .tdone => true
  | .psend _ _ => true
  | .precv _ _ _ => true
  | .xpush s1 => decide (1 ≤ s1.toNat) && decide (s1.toNat ≤ 28)
  | .xpushNb _ s1 => decide (1 ≤ s1.toNat) && decide (s1.toNat ≤ 28)
  | .mwait _ _ => true
  | .gendone _ => true
  | .genfail _ _ => true
  | .fillrst _ => true
  | .mma _ _ _ => true
  | .mmr _ _ => true
  | .mldb _ _ => true
  | .mconv _ _ _ => true
  | .mstc _ _ _ et rm => etFlt et && rmOk rm
  | .tdset _ _ => true
  | .tdget _ _ => true
  | .vbox _ _ _ m => m.ok
  | .vtri _ _ _ m => m.ok
  | .tex _ _ _ _ m => m.ok
  | .texGrad _ _ _ _ m => m.ok
  | .texLod _ _ _ _ m => m.ok
  | .txld _ _ _ _ m => m.ok
  | .tcommit _ _ m => m.ok
  | .vld o => o.ok false
  | .vlds o => o.ok true
  | .vldx o => o.ok true
  | .vldCh o => o.ok false && decide (o.sel = 1)
  | .vst o => o.ok false
  | .vsts o => o.ok true
  | .vstx o => o.ok true
  | .vspill o => o.ok
  | .vfill o => o.ok
  | .amoaddW o => o.ok false
  | .amoandW o => o.ok false
  | .amoorW o => o.ok false
  | .amoxorW o => o.ok false
  | .amoswapW o => o.ok false
  | .amominW o => o.ok false
  | .amomaxW o => o.ok false
  | .amominuW o => o.ok false
  | .amomaxuW o => o.ok false
  | .amocasW o => o.ok true
  | .amoaddD o => o.ok false
  | .amoandD o => o.ok false
  | .amoorD o => o.ok false
  | .amoxorD o => o.ok false
  | .amoswapD o => o.ok false
  | .amominD o => o.ok false
  | .amomaxD o => o.ok false
  | .amominuD o => o.ok false
  | .amomaxuD o => o.ok false
  | .amocasD o => o.ok true
  | .vamoaddW o => o.ok
  | .vamoandW o => o.ok
  | .vamoorW o => o.ok
  | .vamoxorW o => o.ok
  | .vamoswapW o => o.ok
  | .vamominW o => o.ok
  | .vamomaxW o => o.ok
  | .vamominuW o => o.ok
  | .vamomaxuW o => o.ok
  | .vamocasW o => o.ok
  | .vamoaddD o => o.ok
  | .vamoandD o => o.ok
  | .vamoorD o => o.ok
  | .vamoxorD o => o.ok
  | .vamoswapD o => o.ok
  | .vamominD o => o.ok
  | .vamomaxD o => o.ok
  | .vamominuD o => o.ok
  | .vamomaxuD o => o.ok
  | .vamocasD o => o.ok
  | .vadd o => o.ok true true true
  | .vsub o => o.ok true true true
  | .vmul o => o.ok true true true
  | .vmulh o => o.ok true true true
  | .vmulhu o => o.ok true true true
  | .vdiv o => o.ok true true true
  | .vdivu o => o.ok true true true
  | .vrem o => o.ok true true true
  | .vremu o => o.ok true true true
  | .vmin o => o.ok true true true
  | .vminu o => o.ok true true true
  | .vmax o => o.ok true true true
  | .vmaxu o => o.ok true true true
  | .vand o => o.ok true true true
  | .vor o => o.ok true true true
  | .vxor o => o.ok true true true
  | .vsll o => o.ok true true true
  | .vsrl o => o.ok true true true
  | .vsra o => o.ok true true true
  | .vsadd o => o.ok true true true
  | .vsaddu o => o.ok true true true
  | .vssub o => o.ok true true true
  | .vssubu o => o.ok true true true
  | .vmv o => o.ok true true true && decide (o.s1 = 0)
  | .vcmpEq o => o.ok true true true && kOk o.d
  | .vcmpNe o => o.ok true true true && kOk o.d
  | .vcmpLt o => o.ok true true true && kOk o.d
  | .vcmpLe o => o.ok true true true && kOk o.d
  | .vcmpGt o => o.ok true true true && kOk o.d
  | .vcmpGe o => o.ok true true true && kOk o.d
  | .vcmpLtu o => o.ok true true true && kOk o.d
  | .vcmpLeu o => o.ok true true true && kOk o.d
  | .vcmpGtu o => o.ok true true true && kOk o.d
  | .vcmpGeu o => o.ok true true true && kOk o.d
  | .vperm o => o.ok true false false
  | .vslideUp o => o.ok false true true
  | .vslideDn o => o.ok false true true
  | .vbcast o => o.ok false true true && decide (o.s1 = 0)
  | .vmvxs o => o.ok false true true
  | .vredAdd o => o.ok
  | .vredMin o => o.ok
  | .vredMax o => o.ok
  | .vredMinu o => o.ok
  | .vredMaxu o => o.ok
  | .vredAnd o => o.ok
  | .vredOr o => o.ok
  | .vredXor o => o.ok
  | .vscanAdd o => o.ok
  | .vscanMin o => o.ok
  | .vscanMax o => o.ok
  | .vscanMinu o => o.ok
  | .vscanMaxu o => o.ok
  | .vcmprs o => o.ok
  | .vpopc o => o.ok && kOk o.s1
  | .vfirst o => o.ok && kOk o.s1
  | .vfadd o => o.ok true false
  | .vfsub o => o.ok true false
  | .vfmul o => o.ok true false
  | .vfdiv o => o.ok true false
  | .vfma o => o.ok true true
  | .vfms o => o.ok true true
  | .vfnma o => o.ok true true
  | .vfnms o => o.ok true true
  | .vfmin o => o.ok false false
  | .vfmax o => o.ok false false
  | .vfsqrt o => o.ok true
  | .vfsgnj o => o.ok false false
  | .vfsgnjn o => o.ok false false
  | .vfsgnjx o => o.ok false false
  | .vfrcp o => o.ok false
  | .vfrsq o => o.ok false
  | .vfexp2 o => o.ok false
  | .vflog2 o => o.ok false
  | .vfsin o => o.ok false
  | .vfcos o => o.ok false
  | .vfcmpEq o => o.ok false false && kOk o.d
  | .vfcmpNe o => o.ok false false && kOk o.d
  | .vfcmpLt o => o.ok false false && kOk o.d
  | .vfcmpLe o => o.ok false false && kOk o.d
  | .vfcmpGt o => o.ok false false && kOk o.d
  | .vfcmpGe o => o.ok false false && kOk o.d
  | .vfclass o => o.ok false
  | .vcvt o => o.ok
  | .vfredSum o => o.ok true
  | .vfredMin o => o.ok false
  | .vfredMax o => o.ok false
  | .vfscanSum o => o.ok true
  | .contextWake core part _ => decide (core < Config.cores) && decide (part < 8)
  | .trapRecordPost _ => true
  | .trapLogPost _ => true
  | .backoffExpiry _ => true
  | .atomicAbort _ => true
  | .completionRecordWrite => true
  | .taskDispatch core part => decide (core < Config.cores) && decide (part < 8)
  | .stealProbe core victim => decide (core < Config.cores) && decide (victim < Config.cores)
  | .teamMigrate src dst _ => decide (src < Config.dies) && decide (dst < Config.dies)
  | .teamArrive => true
  | .rollCall _ => true
  | .reservationLapse die _ => decide (die < Config.dies)
  | .ringShift _ _ => true
  | .bell die _ => decide (die < Config.dies)
  | .bellDeadline die _ => decide (die < Config.dies)
  | .colourSwitchComplete die _ => decide (die < Config.dies)
  | .messageDeliver core part => decide (core < Config.cores) && decide (part < 8)
  | .copy cluster => decide (cluster < 192)
  | .copyFill cluster => decide (cluster < 192)
  | .rast cluster => decide (cluster < 192)
  | .trace cluster => decide (cluster < 192)
  | .sample cluster => decide (cluster < 192)
  | .prefill => true
  | .generatorQueue _ _ => true
  | .tileOffer o => o.ok
  | .tileStallFault _ => true
  | .l2LineWrite _ => true
  | .sliceUnpin slice => decide (slice < Config.slices)
  | .arrayError _ _ => true
  | .hostWrite _ data => decide (data.length ≤ 128)
  | .hostRead _ _ => true
  | .fabricWrite _ _ _ => true
  | .remoteRead _ _ => true
  | .remoteOwnership _ _ => true
  | .leaseRecall _ => true
  | .leaseReturn _ _ => true
  | .leaseDrop _ => true
  | .leaseExpiry _ => true
  | .ownerLost _ => true
  | .lateSnoopAnswer _ _ => true
  | .timeUnsync => true
  | .timeSyncLock => true
  | .launchDoorbell _ => true
  | .launchRecordRead => true
  | .launchAccept => true
  | .launchRelease _ => true
  | .graphExpand _ => true
  | .launchDone _ => true
  | .bindRecordWrite die _ _ => decide (die < Config.dies)
  | .supervisorQueueWrite die _ _ => decide (die < Config.dies)
  | .rangeTableWrite _ _ => true
  | .imageTableWrite _ _ => true
  | .ringDescriptorWrite slice _ => decide (slice < Config.slices)
  | .ringModeControl die _ => decide (die < Config.dies)
  | .segmapWrite _ _ => true
  | .powerCapWrite _ => true
  | .registerWrite _ _ _ => true
  | .stage => true
  | .attest => true
  | .firmwareSwitch => true
  | .firmwareHealthy => true
  | .firmwareHealthTimeout => true
  | .stlResume _ => true
  | .stlKill _ => true
  | .readbackL2Tag slice _ => decide (slice < Config.slices)
  | .readbackQueueEntry slice _ => decide (slice < Config.slices)
  | .readbackDirectory slice _ => decide (slice < Config.slices)
  | .readbackBadKind slice _ => decide (slice < Config.slices)
  | .dmRead => true
  | .reclaim => true
  | .forget _ => true
  | .dmBadCommand => true
  | .bringUp => true
  | .thermalHalt => true
  | .coolantThrottle => true
  | .clusterRepair cluster => decide (cluster < 192)
  | .l2WayRepair slice set way => decide (slice < Config.slices) && decide (set < 1536) && decide (way < 32)
  | .gddrDeviceRetire _ => true
  | .moduleRemoval => true
  | .illegalEncoding => true
  | .fetchFault _ _ _ => true
  | .hostSnoop _ _ => true
  | .backInvalidationAnswer _ => true
  | .ownerSnoop _ => true
  | .snoopAnswer _ data => decide (data.length = 128)
  | .unsyncLeaseTimeout _ => true
  | .thermalThrottle => true
  | .throttleRelease => true
  | .rowRepair _ => true
  | .fabricLaneRepair _ => true
  | .powerLoss => true

end Sys2Proof
end

