-- ==== Sys2Proof/Decode.lean ====
section
/-! DEFINITION. Decoding (R64 to R81), total on any bytes and refusing by name, and after it the encoder
from the same encoding tables. -/

namespace Sys2Proof

/-- Refuse with e unless c holds. -/
def need (c : Bool) (e : DecodeError) : Except DecodeError Unit := if c then .ok () else .error e

/-! ### Standard 32-bit instructions -/

/-- The fields of a 32-bit word (R310). -/
def R32.ofWord (w : BitVec 32) : R32 :=
  { f7 := w.extractLsb' 25 7, s2 := w.extractLsb' 20 5, s1 := w.extractLsb' 15 5, f3 := w.extractLsb' 12 3,
    d := w.extractLsb' 7 5, op := w.extractLsb' 0 7 }

/-- The word with these fields. -/
def R32.toWord (f : R32) : BitVec 32 := f.f7 ++ f.s2 ++ f.s1 ++ f.f3 ++ f.d ++ f.op

/-- imm12 of format I (R310). -/
def R32.immI (f : R32) : BitVec 12 := f.f7 ++ f.s2
/-- imm12 of format S (R339). -/
def R32.immS (f : R32) : BitVec 12 := f.f7 ++ f.d
/-- imm13b of format B without its bit 0, which is 0 (R310). -/
def R32.immB (f : R32) : BitVec 12 :=
  f.f7.extractLsb' 6 1 ++ f.d.extractLsb' 0 1 ++ f.f7.extractLsb' 0 6 ++ f.d.extractLsb' 1 4
/-- imm20 of format U (R310). -/
def R32.immU (f : R32) : BitVec 20 := f.f7 ++ f.s2 ++ f.s1 ++ f.f3
/-- imm21 of format J without its bit 0, which is 0 (R310). -/
def R32.immJ (f : R32) : BitVec 20 :=
  f.f7.extractLsb' 6 1 ++ (f.s1 ++ f.f3) ++ f.s2.extractLsb' 0 1 ++ f.f7.extractLsb' 0 6 ++ f.s2.extractLsb' 1 4

/-- Major opcodes OP and OP-32 by funct7 and funct3 (R66; the tables of R312 to R361 and R416). -/
def decodeOp (f : R32) : Except DecodeError Instr :=
  match f.op.toNat, f.f7.toNat, f.f3.toNat with
  | 0x33, 0x00, 0 => .ok (.add f.d f.s1 f.s2)
  | 0x33, 0x20, 0 => .ok (.sub f.d f.s1 f.s2)
  | 0x33, 0x00, 1 => .ok (.sll f.d f.s1 f.s2)
  | 0x33, 0x00, 2 => .ok (.slt f.d f.s1 f.s2)
  | 0x33, 0x00, 3 => .ok (.sltu f.d f.s1 f.s2)
  | 0x33, 0x00, 4 => .ok (.xor f.d f.s1 f.s2)
  | 0x33, 0x00, 5 => .ok (.srl f.d f.s1 f.s2)
  | 0x33, 0x20, 5 => .ok (.sra f.d f.s1 f.s2)
  | 0x33, 0x00, 6 => .ok (.or f.d f.s1 f.s2)
  | 0x33, 0x00, 7 => .ok (.and f.d f.s1 f.s2)
  | 0x33, 0x01, 0 => .ok (.mul f.d f.s1 f.s2)
  | 0x33, 0x01, 1 => .ok (.mulh f.d f.s1 f.s2)
  | 0x33, 0x01, 2 => .ok (.mulhsu f.d f.s1 f.s2)
  | 0x33, 0x01, 3 => .ok (.mulhu f.d f.s1 f.s2)
  | 0x33, 0x01, 4 => .ok (.div f.d f.s1 f.s2)
  | 0x33, 0x01, 5 => .ok (.divu f.d f.s1 f.s2)
  | 0x33, 0x01, 6 => .ok (.rem f.d f.s1 f.s2)
  | 0x33, 0x01, 7 => .ok (.remu f.d f.s1 f.s2)
  | 0x3B, 0x00, 0 => .ok (.addw f.d f.s1 f.s2)
  | 0x3B, 0x20, 0 => .ok (.subw f.d f.s1 f.s2)
  | 0x3B, 0x00, 1 => .ok (.sllw f.d f.s1 f.s2)
  | 0x3B, 0x00, 5 => .ok (.srlw f.d f.s1 f.s2)
  | 0x3B, 0x20, 5 => .ok (.sraw f.d f.s1 f.s2)
  | 0x3B, 0x01, 0 => .ok (.mulw f.d f.s1 f.s2)
  | 0x3B, 0x01, 4 => .ok (.divw f.d f.s1 f.s2)
  | 0x3B, 0x01, 5 => .ok (.divuw f.d f.s1 f.s2)
  | 0x3B, 0x01, 6 => .ok (.remw f.d f.s1 f.s2)
  | 0x3B, 0x01, 7 => .ok (.remuw f.d f.s1 f.s2)
  | _, _, _ => .error .selector

/-- Major opcodes OP-IMM, OP-IMM-32, LOAD and JALR (R66; R312, R317, R334, R336, R345, R359, R360, R416). -/
def decodeImm (f : R32) : Except DecodeError Instr :=
  match f.op.toNat, f.f3.toNat with
  | 0x13, 0 => .ok (.addi f.d f.s1 f.immI)
  | 0x13, 2 => .ok (.slti f.d f.s1 f.immI)
  | 0x13, 3 => .ok (.sltiu f.d f.s1 f.immI)
  | 0x13, 4 => .ok (.xori f.d f.s1 f.immI)
  | 0x13, 6 => .ok (.ori f.d f.s1 f.immI)
  | 0x13, 7 => .ok (.andi f.d f.s1 f.immI)
  | 0x1B, 0 => .ok (.addiw f.d f.s1 f.immI)
  | 0x03, 0 => .ok (.lb f.d f.s1 f.immI)
  | 0x03, 1 => .ok (.lh f.d f.s1 f.immI)
  | 0x03, 2 => .ok (.lw f.d f.s1 f.immI)
  | 0x03, 3 => .ok (.ld f.d f.s1 f.immI)
  | 0x03, 4 => .ok (.lbu f.d f.s1 f.immI)
  | 0x03, 5 => .ok (.lhu f.d f.s1 f.immI)
  | 0x03, 6 => .ok (.lwu f.d f.s1 f.immI)
  | 0x67, 0 => .ok (.jalr f.d f.s1 f.immI)
  | 0x13, 1 =>
    if f.f7.extractLsb' 1 6 = 0 then .ok (.slli f.d f.s1 (f.f7.extractLsb' 0 1 ++ f.s2)) else .error .selector
  | 0x13, 5 =>
    if f.f7.extractLsb' 1 6 = 0 then .ok (.srli f.d f.s1 (f.f7.extractLsb' 0 1 ++ f.s2))
    else if f.f7.extractLsb' 1 6 = 16 then .ok (.srai f.d f.s1 (f.f7.extractLsb' 0 1 ++ f.s2))
    else .error .selector
  | 0x1B, 1 => if f.f7 = 0 then .ok (.slliw f.d f.s1 f.s2) else .error .selector
  | 0x1B, 5 =>
    if f.f7 = 0 then .ok (.srliw f.d f.s1 f.s2)
    else if f.f7 = 0x20 then .ok (.sraiw f.d f.s1 f.s2)
    else .error .selector
  | _, _ => .error .selector

/-- Major opcodes STORE and BRANCH (R354, R321). -/
def decodeStoreBranch (f : R32) : Except DecodeError Instr :=
  match f.op.toNat, f.f3.toNat with
  | 0x23, 0 => .ok (.sb f.s2 f.s1 f.immS)
  | 0x23, 1 => .ok (.sh f.s2 f.s1 f.immS)
  | 0x23, 2 => .ok (.sw f.s2 f.s1 f.immS)
  | 0x23, 3 => .ok (.sd f.s2 f.s1 f.immS)
  | 0x63, 0 => .ok (.beq f.s1 f.s2 f.immB)
  | 0x63, 1 => .ok (.bne f.s1 f.s2 f.immB)
  | 0x63, 4 => .ok (.blt f.s1 f.s2 f.immB)
  | 0x63, 5 => .ok (.bge f.s1 f.s2 f.immB)
  | 0x63, 6 => .ok (.bltu f.s1 f.s2 f.immB)
  | 0x63, 7 => .ok (.bgeu f.s1 f.s2 f.immB)
  | _, _ => .error .selector

/-- Major opcode MISC-MEM (R67): fm is bits [31:28], pred [27:24], succ [23:20]. -/
def decodeMiscMem (f : R32) : Except DecodeError Instr :=
  if f.d = 0 && f.s1 = 0 then
    match f.f3.toNat with
    | 0 =>
      if f.f7.extractLsb' 3 4 = 0 then
        .ok (.fence (f.f7.extractLsb' 0 3 ++ f.s2.extractLsb' 4 1) (f.s2.extractLsb' 0 4))
      else if f.immI = 0x833 then .ok .fenceTso
      else .error .selector
    | 1 => if f.immI = 0 then .ok .fenceI else .error .selector
    | _ => .error .selector
  else .error .selector

/-- Major opcode SYSTEM (R67, R323, R325). -/
def decodeSystem (f : R32) : Except DecodeError Instr :=
  match f.f3.toNat with
  | 0 =>
    if f.d = 0 && f.s1 = 0 then
      (if f.immI = 0 then .ok .ecall else if f.immI = 1 then .ok .ebreak else .error .selector)
    else .error .selector
  | 1 => .ok (.csrrw f.d f.s1 f.immI)
  | 2 => .ok (.csrrs f.d f.s1 f.immI)
  | 3 => .ok (.csrrc f.d f.s1 f.immI)
  | 5 => .ok (.csrrwi f.d f.s1 f.immI)
  | 6 => .ok (.csrrsi f.d f.s1 f.immI)
  | 7 => .ok (.csrrci f.d f.s1 f.immI)
  | _ => .error .selector

/-- A 32-bit instruction by its major opcode (R66). -/
def decode32 (f : R32) : Except DecodeError Instr :=
  match f.op.toNat with
  | 0x33 | 0x3B => decodeOp f
  | 0x13 | 0x1B | 0x03 | 0x67 => decodeImm f
  | 0x23 | 0x63 => decodeStoreBranch f
  | 0x37 => .ok (.lui f.d f.immU)
  | 0x17 => .ok (.auipc f.d f.immU)
  | 0x6F => .ok (.jal f.d f.immJ)
  | 0x0F => decodeMiscMem f
  | 0x73 => decodeSystem f
  | _ => .error .major

/-! ### F64 instructions -/

/-- The fields of an F64 word (R68). -/
def F64.ofWord (w : BitVec 64) : F64 :=
  { imm := w.extractLsb' 51 13, rm := w.extractLsb' 48 3, et := w.extractLsb' 45 3, k := w.extractLsb' 42 3,
    mm := w.extractLsb' 40 2, func := w.extractLsb' 32 8, oc := w.extractLsb' 30 2, s3 := w.extractLsb' 25 5,
    s2 := w.extractLsb' 20 5, s1 := w.extractLsb' 15 5, grp := w.extractLsb' 12 3, d := w.extractLsb' 7 5 }

/-- The F64 word with these fields (R68). -/
def F64.toWord (f : F64) : BitVec 64 :=
  f.imm ++ f.rm ++ f.et ++ f.k ++ f.mm ++ f.func ++ f.oc ++ f.s3 ++ f.s2 ++ f.s1 ++ f.grp ++ f.d ++ 0x3F#7

/-- The mask operand (R15). -/
def F64.mask (f : F64) : MaskSel := { mm := f.mm, k := f.k }

/-- k and mm are 0: the form takes no mask (R81). -/
def F64.noMask (f : F64) : Except DecodeError Unit := need (f.mm = 0 && f.k = 0) .mask

/-- The s2 operand by its class (R70), for a form that accepts 00 (v), 01 (x) and 10 (i). -/
def F64.src (f : F64) (v x i : Bool) : Except DecodeError Src :=
  match f.oc.toNat with
  | 0 => do need v .operandClass; need (f.imm = 0) .reserved; return .vec f.s2
  | 1 => do need x .operandClass; need (f.imm = 0) .reserved; return .xreg f.s2
  | 2 => do need i .operandClass; need (f.s2 = 0) .reserved; return .imm f.imm
  | _ => .error .operandClass

/-- A two-source form of group VI (R74, R380). -/
def F64.vecOp (f : F64) (v x i : Bool) : Except DecodeError VecOp := do
  let b ← f.src v x i
  need (f.rm = 0 && f.s3 = 0) .reserved
  need (etInt f.et) .code
  need f.mask.ok .mask
  return { d := f.d, s1 := f.s1, b := b, et := f.et, m := f.mask }

/-- A one-source form of group VI. -/
def F64.vecUn (f : F64) : Except DecodeError VecUn := do
  need (f.oc = 3) .operandClass
  need (f.imm = 0 && f.rm = 0 && f.s3 = 0 && f.s2 = 0) .reserved
  need (etInt f.et) .code
  need f.mask.ok .mask
  return { d := f.d, s1 := f.s1, et := f.et, m := f.mask }

/-- rm as a rounding mode, or 000 on a form that does not round (R73, R392). -/
def F64.rounding (f : F64) (rounds : Bool) : Except DecodeError Unit :=
  if rounds then need (rmOk f.rm) .code else need (f.rm = 0) .reserved

/-- A two- or three-source form of group VF (R75, R392). -/
def F64.fltOp (f : F64) (rounds fused : Bool) : Except DecodeError FltOp := do
  let b ← f.src true true false
  f.rounding rounds
  need (fused || f.s3 = 0) .reserved
  need (etFlt f.et) .code
  need f.mask.ok .mask
  return { d := f.d, s1 := f.s1, b := b, s3 := f.s3, rm := f.rm, et := f.et, m := f.mask }

/-- A one-source form of group VF. -/
def F64.fltUn (f : F64) (rounds : Bool) : Except DecodeError FltUn := do
  need (f.oc = 3) .operandClass
  f.rounding rounds
  need (f.imm = 0 && f.s3 = 0 && f.s2 = 0) .reserved
  need (etFlt f.et) .code
  need f.mask.ok .mask
  return { d := f.d, s1 := f.s1, rm := f.rm, et := f.et, m := f.mask }

/-- VCVT (R75, R389). -/
def F64.cvt (f : F64) : Except DecodeError CvtOp := do
  need (f.oc = 3) .operandClass
  need (f.imm.extractLsb' 11 2 = 0 && f.s3 = 0 && f.s2 = 0) .reserved
  let o : CvtOp :=
    { d := f.d, s1 := f.s1, fmt := f.imm.extractLsb' 0 5, sew := f.imm.extractLsb' 5 3,
      sat := f.imm.extractLsb' 8 1 = 1, usrc := f.imm.extractLsb' 9 1 = 1, udst := f.imm.extractLsb' 10 1 = 1,
      rm := f.rm, et := f.et, m := f.mask }
  need o.ok .code
  return o

/-- The selector and the buffer record of group VM (R69, R71). -/
def F64.sel (f : F64) : BitVec 3 := f.imm.extractLsb' 0 3
def F64.recNo (f : F64) : BitVec 8 := f.imm.extractLsb' 3 8

/-- A vector load or store (R76, R376): class 01 with or without s2, or class 00. -/
def F64.memOp (f : F64) (oc : BitVec 2) (s2 : Bool) : Except DecodeError MemOp := do
  need (f.oc = oc) .operandClass
  need (f.imm.extractLsb' 11 2 = 0 && f.rm = 0 && f.s3 = 0 && (s2 || f.s2 = 0)) .reserved
  need (selOk f.sel f.recNo && etInt f.et) .code
  need f.mask.ok .mask
  return { d := f.d, s1 := f.s1, s2 := f.s2, sel := f.sel, n := f.recNo, et := f.et, m := f.mask }

/-- VSPILL and VFILL (R398). -/
def F64.spillOp (f : F64) : Except DecodeError SpillOp := do
  need (f.oc = 1) .operandClass
  need (f.imm.extractLsb' 11 2 = 0 && f.rm = 0 && f.s3 = 0 && f.s2 = 0 && f.et = 0) .reserved
  f.noMask
  need (selOk f.sel f.recNo) .code
  return { d := f.d, s1 := f.s1, sel := f.sel, n := f.recNo }

/-- A scalar AMO (R313). -/
def F64.amoOp (f : F64) (cas : Bool) : Except DecodeError AmoOp := do
  need (f.oc = 1) .operandClass
  need (f.et = 0 && (cas || f.s3 = 0)) .reserved
  f.noMask
  need (selOk f.sel f.recNo && scopeOk f.rm) .code
  return { d := f.d, s1 := f.s1, s2 := f.s2, s3 := f.s3, sel := f.sel, n := f.recNo,
           aq := f.imm.extractLsb' 12 1 = 1, rl := f.imm.extractLsb' 11 1 = 1, scope := f.rm }

/-- A VAMO (R382). -/
def F64.vamoOp (f : F64) : Except DecodeError VAmoOp := do
  need (f.oc = 0) .operandClass
  need (f.et = 0) .reserved
  need (selOk f.sel f.recNo && scopeOk f.rm) .code
  need f.mask.ok .mask
  return { d := f.d, s1 := f.s1, s2 := f.s2, s3 := f.s3, sel := f.sel, n := f.recNo,
           aq := f.imm.extractLsb' 12 1 = 1, rl := f.imm.extractLsb' 11 1 = 1, scope := f.rm, m := f.mask }

/-- Which of the register fields, rm and et a form of the groups MX, SY and CT leaves unused: each named
field must be 0 (R81), with mm and k (R77, R79, R80). -/
def F64.plain (f : F64) (oc : BitVec 2) (unused : Bool) : Except DecodeError Unit := do
  need (f.oc = oc) .operandClass
  f.noMask
  need unused .reserved

/-- Group VI (R74). -/
def decodeVI (f : F64) : Except DecodeError Instr :=
  match f.func.toNat with
  | 0x00 => do return .vadd (← f.vecOp true true true)
  | 0x01 => do return .vsub (← f.vecOp true true true)
  | 0x02 => do return .vmul (← f.vecOp true true true)
  | 0x03 => do return .vmulh (← f.vecOp true true true)
  | 0x04 => do return .vmulhu (← f.vecOp true true true)
  | 0x05 => do return .vdiv (← f.vecOp true true true)
  | 0x06 => do return .vdivu (← f.vecOp true true true)
  | 0x07 => do return .vrem (← f.vecOp true true true)
  | 0x08 => do return .vremu (← f.vecOp true true true)
  | 0x09 => do return .vmin (← f.vecOp true true true)
  | 0x0A => do return .vminu (← f.vecOp true true true)
  | 0x0B => do return .vmax (← f.vecOp true true true)
  | 0x0C => do return .vmaxu (← f.vecOp true true true)
  | 0x0D => do return .vand (← f.vecOp true true true)
  | 0x0E => do return .vor (← f.vecOp true true true)
  | 0x0F => do return .vxor (← f.vecOp true true true)
  | 0x10 => do return .vsll (← f.vecOp true true true)
  | 0x11 => do return .vsrl (← f.vecOp true true true)
  | 0x12 => do return .vsra (← f.vecOp true true true)
  | 0x13 => do return .vsadd (← f.vecOp true true true)
  | 0x14 => do return .vsaddu (← f.vecOp true true true)
  | 0x15 => do return .vssub (← f.vecOp true true true)
  | 0x16 => do return .vssubu (← f.vecOp true true true)
  | 0x17 => do need (f.s1 = 0) .reserved; return .vmv (← f.vecOp true true true)
  | 0x18 => do need (kOk f.d) .register; return .vcmpEq (← f.vecOp true true true)
  | 0x19 => do need (kOk f.d) .register; return .vcmpNe (← f.vecOp true true true)
  | 0x1A => do need (kOk f.d) .register; return .vcmpLt (← f.vecOp true true true)
  | 0x1B => do need (kOk f.d) .register; return .vcmpLe (← f.vecOp true true true)
  | 0x1C => do need (kOk f.d) .register; return .vcmpGt (← f.vecOp true true true)
  | 0x1D => do need (kOk f.d) .register; return .vcmpGe (← f.vecOp true true true)
  | 0x1E => do need (kOk f.d) .register; return .vcmpLtu (← f.vecOp true true true)
  | 0x1F => do need (kOk f.d) .register; return .vcmpLeu (← f.vecOp true true true)
  | 0x20 => do need (kOk f.d) .register; return .vcmpGtu (← f.vecOp true true true)
  | 0x21 => do need (kOk f.d) .register; return .vcmpGeu (← f.vecOp true true true)
  | 0x40 => do return .vperm (← f.vecOp true false false)
  | 0x41 => do return .vslideUp (← f.vecOp false true true)
  | 0x42 => do return .vslideDn (← f.vecOp false true true)
  | 0x43 => do need (f.s1 = 0) .reserved; return .vbcast (← f.vecOp false true true)
  | 0x44 => do return .vmvxs (← f.vecOp false true true)
  | 0x48 => do return .vredAdd (← f.vecUn)
  | 0x49 => do return .vredMin (← f.vecUn)
  | 0x4A => do return .vredMax (← f.vecUn)
  | 0x4B => do return .vredMinu (← f.vecUn)
  | 0x4C => do return .vredMaxu (← f.vecUn)
  | 0x4D => do return .vredAnd (← f.vecUn)
  | 0x4E => do return .vredOr (← f.vecUn)
  | 0x4F => do return .vredXor (← f.vecUn)
  | 0x50 => do return .vscanAdd (← f.vecUn)
  | 0x51 => do return .vscanMin (← f.vecUn)
  | 0x52 => do return .vscanMax (← f.vecUn)
  | 0x53 => do return .vscanMinu (← f.vecUn)
  | 0x54 => do return .vscanMaxu (← f.vecUn)
  | 0x58 => do return .vcmprs (← f.vecUn)
  | 0x59 => do need (kOk f.s1) .register; return .vpopc (← f.vecUn)
  | 0x5A => do need (kOk f.s1) .register; return .vfirst (← f.vecUn)
  | _ => .error .func8

/-- Group VF (R75). -/
def decodeVF (f : F64) : Except DecodeError Instr :=
  match f.func.toNat with
  | 0x00 => do return .vfadd (← f.fltOp true false)
  | 0x01 => do return .vfsub (← f.fltOp true false)
  | 0x02 => do return .vfmul (← f.fltOp true false)
  | 0x03 => do return .vfdiv (← f.fltOp true false)
  | 0x04 => do return .vfma (← f.fltOp true true)
  | 0x05 => do return .vfms (← f.fltOp true true)
  | 0x06 => do return .vfnma (← f.fltOp true true)
  | 0x07 => do return .vfnms (← f.fltOp true true)
  | 0x08 => do return .vfmin (← f.fltOp false false)
  | 0x09 => do return .vfmax (← f.fltOp false false)
  | 0x0B => do return .vfsgnj (← f.fltOp false false)
  | 0x0C => do return .vfsgnjn (← f.fltOp false false)
  | 0x0D => do return .vfsgnjx (← f.fltOp false false)
  | 0x18 => do need (kOk f.d) .register; return .vfcmpEq (← f.fltOp false false)
  | 0x19 => do need (kOk f.d) .register; return .vfcmpNe (← f.fltOp false false)
  | 0x1A => do need (kOk f.d) .register; return .vfcmpLt (← f.fltOp false false)
  | 0x1B => do need (kOk f.d) .register; return .vfcmpLe (← f.fltOp false false)
  | 0x1C => do need (kOk f.d) .register; return .vfcmpGt (← f.fltOp false false)
  | 0x1D => do need (kOk f.d) .register; return .vfcmpGe (← f.fltOp false false)
  | 0x0A => do return .vfsqrt (← f.fltUn true)
  | 0x10 => do return .vfrcp (← f.fltUn false)
  | 0x11 => do return .vfrsq (← f.fltUn false)
  | 0x12 => do return .vfexp2 (← f.fltUn false)
  | 0x13 => do return .vflog2 (← f.fltUn false)
  | 0x14 => do return .vfsin (← f.fltUn false)
  | 0x15 => do return .vfcos (← f.fltUn false)
  | 0x20 => do return .vfclass (← f.fltUn false)
  | 0x30 => do return .vfredSum (← f.fltUn true)
  | 0x31 => do return .vfredMin (← f.fltUn false)
  | 0x32 => do return .vfredMax (← f.fltUn false)
  | 0x33 => do return .vfscanSum (← f.fltUn true)
  | 0x28 => do return .vcvt (← f.cvt)
  | _ => .error .func8

/-- Group VM (R76). -/
def decodeVM (f : F64) : Except DecodeError Instr :=
  match f.func.toNat with
  | 0x00 => do return .vld (← f.memOp 1 false)
  | 0x01 => do return .vlds (← f.memOp 1 true)
  | 0x02 => do return .vldx (← f.memOp 0 true)
  | 0x08 => do return .vst (← f.memOp 1 false)
  | 0x09 => do return .vsts (← f.memOp 1 true)
  | 0x0A => do return .vstx (← f.memOp 0 true)
  | 0x03 => do need (f.sel = 1) .code; return .vldCh (← f.memOp 1 false)
  | 0x10 => do return .vspill (← f.spillOp)
  | 0x11 => do return .vfill (← f.spillOp)
  | 0x20 => do return .vamoaddW (← f.vamoOp)
  | 0x21 => do return .vamoandW (← f.vamoOp)
  | 0x22 => do return .vamoorW (← f.vamoOp)
  | 0x23 => do return .vamoxorW (← f.vamoOp)
  | 0x24 => do return .vamoswapW (← f.vamoOp)
  | 0x25 => do return .vamominW (← f.vamoOp)
  | 0x26 => do return .vamomaxW (← f.vamoOp)
  | 0x27 => do return .vamominuW (← f.vamoOp)
  | 0x28 => do return .vamomaxuW (← f.vamoOp)
  | 0x29 => do return .vamocasW (← f.vamoOp)
  | 0x30 => do return .vamoaddD (← f.vamoOp)
  | 0x31 => do return .vamoandD (← f.vamoOp)
  | 0x32 => do return .vamoorD (← f.vamoOp)
  | 0x33 => do return .vamoxorD (← f.vamoOp)
  | 0x34 => do return .vamoswapD (← f.vamoOp)
  | 0x35 => do return .vamominD (← f.vamoOp)
  | 0x36 => do return .vamomaxD (← f.vamoOp)
  | 0x37 => do return .vamominuD (← f.vamoOp)
  | 0x38 => do return .vamomaxuD (← f.vamoOp)
  | 0x39 => do return .vamocasD (← f.vamoOp)
  | 0x40 => do return .amoaddW (← f.amoOp false)
  | 0x41 => do return .amoandW (← f.amoOp false)
  | 0x42 => do return .amoorW (← f.amoOp false)
  | 0x43 => do return .amoxorW (← f.amoOp false)
  | 0x44 => do return .amoswapW (← f.amoOp false)
  | 0x45 => do return .amominW (← f.amoOp false)
  | 0x46 => do return .amomaxW (← f.amoOp false)
  | 0x47 => do return .amominuW (← f.amoOp false)
  | 0x48 => do return .amomaxuW (← f.amoOp false)
  | 0x49 => do return .amocasW (← f.amoOp true)
  | 0x50 => do return .amoaddD (← f.amoOp false)
  | 0x51 => do return .amoandD (← f.amoOp false)
  | 0x52 => do return .amoorD (← f.amoOp false)
  | 0x53 => do return .amoxorD (← f.amoOp false)
  | 0x54 => do return .amoswapD (← f.amoOp false)
  | 0x55 => do return .amominD (← f.amoOp false)
  | 0x56 => do return .amomaxD (← f.amoOp false)
  | 0x57 => do return .amominuD (← f.amoOp false)
  | 0x58 => do return .amomaxuD (← f.amoOp false)
  | 0x59 => do return .amocasD (← f.amoOp true)
  | _ => .error .func8

/-- Group MX (R77, R200). The tensor identifier is imm13[5:0]. -/
def decodeMX (f : F64) : Except DecodeError Instr := do
  let tn : BitVec 6 := f.imm.extractLsb' 0 6
  need (f.imm.extractLsb' 6 7 = 0) .reserved
  match f.func.toNat with
  | 0x00 => do f.plain 0 (f.imm = 0 && f.rm = 0 && f.et = 0 && f.s3 = 0); return .mma f.d f.s1 f.s2
  | 0x01 => do f.plain 3 (f.rm = 0 && f.et = 0 && f.s3 = 0 && f.s2 = 0 && f.s1 = 0); return .mmr f.d tn
  | 0x02 => do f.plain 3 (f.rm = 0 && f.et = 0 && f.s3 = 0 && f.s2 = 0 && f.d = 0); return .mldb tn f.s1
  | 0x03 => do f.plain 3 (f.rm = 0 && f.et = 0 && f.s3 = 0 && f.s2 = 0); return .mconv f.d tn f.s1
  | 0x04 => do
    f.plain 3 (f.s3 = 0 && f.s2 = 0)
    need (etFlt f.et && rmOk f.rm) .code
    return .mstc f.d tn f.s1 f.et f.rm
  | 0x10 => do f.plain 3 (f.rm = 0 && f.et = 0 && f.s3 = 0 && f.s2 = 0 && f.d = 0); return .tdset tn f.s1
  | 0x11 => do f.plain 3 (f.rm = 0 && f.et = 0 && f.s3 = 0 && f.s2 = 0 && f.d = 0); return .tdget tn f.s1
  | _ => .error .func8

/-- The fields common to the forms of group GX (R78): rm, et and s3 are 0, and every form takes a mask. -/
def F64.gx (f : F64) (oc : BitVec 2) (unused : Bool) : Except DecodeError Unit := do
  need (f.oc = oc) .operandClass
  need (f.rm = 0 && f.et = 0 && f.s3 = 0 && unused) .reserved
  need f.mask.ok .mask

/-- Group GX (R78). -/
def decodeGX (f : F64) : Except DecodeError Instr :=
  let n : BitVec 8 := f.imm.extractLsb' 0 8
  match f.func.toNat with
  | 0x00 => do f.gx 0 (f.imm = 0); return .vbox f.d f.s1 f.s2 f.mask
  | 0x01 => do f.gx 0 (f.imm = 0); return .vtri f.d f.s1 f.s2 f.mask
  | 0x08 => do
    f.gx 0 (f.imm.extractLsb' 10 3 = 0)
    match (f.imm.extractLsb' 8 2).toNat with
    | 0 => return .tex f.d f.s1 f.s2 n f.mask
    | 1 => return .texGrad f.d f.s1 f.s2 n f.mask
    | 2 => return .texLod f.d f.s1 f.s2 n f.mask
    | _ => .error .code
  | 0x09 => do f.gx 1 (f.imm.extractLsb' 8 5 = 0); return .txld f.d f.s1 f.s2 n f.mask
  | 0x10 => do f.gx 1 (f.imm = 0 && f.d = 0); return .tcommit f.s1 f.s2 f.mask
  | _ => .error .func8

/-- The fields common to the forms of group SY with no scope (R79). -/
def F64.sy (f : F64) (unused : Bool) : Except DecodeError Unit :=
  f.plain 3 (f.rm = 0 && f.et = 0 && f.s3 = 0 && unused)

/-- Group SY (R79). -/
def decodeSY (f : F64) : Except DecodeError Instr :=
  let aq : Bool := f.imm.extractLsb' 12 1 = 1
  let rl : Bool := f.imm.extractLsb' 11 1 = 1
  let target : BitVec 3 := f.imm.extractLsb' 7 3
  let slot : BitVec 7 := f.imm.extractLsb' 0 7
  let pipe : BitVec 3 := f.imm.extractLsb' 0 3
  match f.func.toNat with
  | 0x00 => do
    f.plain 3 (f.et = 0 && f.s3 = 0 && f.s2 = 0 && f.s1 = 0 && f.d = 0 && f.imm.extractLsb' 0 11 = 0)
    need ((aq || rl) && scopeOk f.rm) .code
    return .phase aq rl f.rm
  | 0x08 => do
    f.plain 3 (f.et = 0 && f.s3 = 0 && f.s2 = 0 && f.d = 0 && f.imm.extractLsb' 10 3 = 0)
    need (targetOk target && scopeOk f.rm) .code
    return .arrive target slot f.s1 f.rm
  | 0x09 => do
    f.plain 3 (f.et = 0 && f.s3 = 0 && f.s2 = 0 && f.s1 = 0 && f.d = 0 && f.imm.extractLsb' 10 3 = 0)
    need (target = 1 && scopeOk f.rm) .code
    return .waitb slot f.rm
  | 0x0A => do
    f.sy (f.s2 = 0 && f.s1 = 0 && f.imm.extractLsb' 10 3 = 0)
    need (target = 1) .code
    return .testb f.d slot
  | 0x10 => do f.sy (f.s2 = 0 && f.d = 0 && f.imm = 0); return .enq f.s1
  | 0x11 => do f.sy (f.s2 = 0 && f.imm = 0); return .enqNb f.d f.s1
  | 0x12 => do f.sy (f.s2 = 0 && f.s1 = 0 && f.d = 0 && f.imm = 0); return .tdone
  | 0x18 => do f.sy (f.s2 = 0 && f.d = 0 && f.imm.extractLsb' 3 10 = 0); return .psend pipe f.s1
  | 0x19 => do f.sy (f.s2 = 0 && f.imm.extractLsb' 3 10 = 0); return .precv f.d pipe f.s1
  | 0x20 => do
    f.sy (f.s2 = 0 && f.d = 0 && f.imm = 0)
    need (1 ≤ f.s1.toNat && f.s1.toNat ≤ 28) .register
    return .xpush f.s1
  | 0x21 => do
    f.sy (f.s2 = 0 && f.imm = 0)
    need (1 ≤ f.s1.toNat && f.s1.toNat ≤ 28) .register
    return .xpushNb f.d f.s1
  | 0x28 => do f.sy (f.d = 0 && f.imm = 0); return .mwait f.s1 f.s2
  | 0x30 => do f.sy (f.s2 = 0 && f.d = 0 && f.imm = 0); return .gendone f.s1
  | 0x31 => do f.sy (f.d = 0 && f.imm = 0); return .genfail f.s1 f.s2
  | 0x32 => do f.sy (f.s2 = 0 && f.d = 0 && f.imm = 0); return .fillrst f.s1
  | _ => .error .func8

/-- Group CT (R48, R80, R356). VTY[14:0] of SETVL is imm13[11:0] above et. -/
def decodeCT (f : F64) : Except DecodeError Instr :=
  match f.func.toNat with
  | 0x00 => do
    f.plain 3 (f.rm = 0 && f.s3 = 0 && f.s2 = 0 && f.imm.extractLsb' 12 1 = 0)
    return .setvl f.d f.s1 (f.imm.extractLsb' 0 12 ++ f.et)
  | 0x01 => do f.sy (f.imm = 0); return .setvlReg f.d f.s1 f.s2
  | 0x08 => do
    f.sy (f.s2 = 0 && f.d = 0 && f.imm = 0)
    need (kOk f.s1) .register
    return .mpush f.s1
  | 0x09 => do f.sy (f.s2 = 0 && f.s1 = 0 && f.d = 0 && f.imm = 0); return .minv
  | 0x0A => do f.sy (f.s2 = 0 && f.s1 = 0 && f.d = 0 && f.imm = 0); return .mpop
  | 0x0C => do f.sy (f.s2 = 0 && f.s1 = 0 && f.d = 0); return .bmz f.imm
  | 0x0D => do f.sy (f.s2 = 0 && f.s1 = 0 && f.d = 0); return .bmnz f.imm
  | 0x10 => do f.plain 3 (f.rm = 0 && f.et = 0 && f.imm = 0); return .jtbl f.d f.s1 f.s2 f.s3
  | 0x18 => do f.sy (f.d = 0 && f.imm = 0); return .hback f.s1 f.s2
  | 0x19 => do f.sy (f.s2 = 0 && f.s1 = 0 && f.d = 0 && f.imm = 0); return .frjoin
  | 0x20 => do f.sy (f.s2 = 0 && f.d = 0 && f.imm = 0); return .tresume f.s1
  | 0x21 => do f.sy (f.s2 = 0 && f.d = 0 && f.imm = 0); return .tkill f.s1
  | 0x28 => do
    f.sy (f.d = 0 && f.imm.extractLsb' 1 12 = 0)
    return (if f.imm = 0 then .tlbinv f.s1 f.s2 else .tlbinvCol f.s1 f.s2)
  | _ => .error .func8

/-- An F64 instruction by its group (R68). -/
def decode64 (f : F64) : Except DecodeError Instr :=
  match f.grp.toNat with
  | 0 => decodeVI f
  | 1 => decodeVF f
  | 2 => decodeVM f
  | 3 => decodeMX f
  | 4 => decodeGX f
  | 5 => decodeSY f
  | 6 => decodeCT f
  | _ => .error .group

/-! ### Lengths and bytes -/

/-- The length in bytes that bits [6:0] of the first word give, or why there is none (R64). -/
def lengthOf (w : BitVec 32) : Except DecodeError Nat :=
  if w.toNat % 4 ≠ 3 then .error .length16
  else if w.toNat / 4 % 8 ≠ 7 then .ok 4
  else if w.toNat / 32 % 2 = 0 then .error .length48
  else if w.toNat / 64 % 2 = 0 then .ok 8
  else .error .length80

/-- The instruction at the start of a list of bytes, lowest address first, and the bytes after it. -/
def decode (bs : List Byte) : Except DecodeError (Instr × List Byte) :=
  match bs with
  | b0 :: b1 :: b2 :: b3 :: rest =>
    let lo : BitVec 32 := b3 ++ b2 ++ b1 ++ b0
    match lengthOf lo with
    | .error e => .error e
    | .ok 4 => (decode32 (R32.ofWord lo)).map (·, rest)
    | .ok _ =>
      match rest with
      | b4 :: b5 :: b6 :: b7 :: rest' => (decode64 (F64.ofWord ((b7 ++ b6 ++ b5 ++ b4 : BitVec 32) ++ lo))).map (·, rest')
      | _ => .error .truncated
  | _ => .error .truncated

/-- The instruction that the decoder reads from an instruction whose bits, numbered as
spec/opcode_table.json numbers them, are w: its bytes in little-endian order (R5), zeros above nbits. -/
def decodeTableWord (nbits w : Nat) : Option Instr :=
  match decode (bytesOf 8 (w % 2 ^ nbits)) with
  | .ok (i, _) => some i
  | .error _ => none

/-! ### The encoder -/

/-- A word of format R (R310). -/
def encR (op : BitVec 7) (f3 : BitVec 3) (f7 : BitVec 7) (d s1 s2 : Reg) : R32 :=
  { f7 := f7, s2 := s2, s1 := s1, f3 := f3, d := d, op := op }
/-- A word of format I. -/
def encI (op : BitVec 7) (f3 : BitVec 3) (d s1 : Reg) (i : BitVec 12) : R32 :=
  { f7 := i.extractLsb' 5 7, s2 := i.extractLsb' 0 5, s1 := s1, f3 := f3, d := d, op := op }
/-- A word of format S (R339). -/
def encS (f3 : BitVec 3) (b a : Reg) (i : BitVec 12) : R32 :=
  { f7 := i.extractLsb' 5 7, s2 := b, s1 := a, f3 := f3, d := i.extractLsb' 0 5, op := 0x23 }
/-- A word of format B; i is imm13b without its bit 0. -/
def encB (f3 : BitVec 3) (a b : Reg) (i : BitVec 12) : R32 :=
  { f7 := i.extractLsb' 11 1 ++ i.extractLsb' 4 6, s2 := b, s1 := a, f3 := f3,
    d := i.extractLsb' 0 4 ++ i.extractLsb' 10 1, op := 0x63 }
/-- A word of format U. -/
def encU (op : BitVec 7) (d : Reg) (i : BitVec 20) : R32 :=
  { f7 := i.extractLsb' 13 7, s2 := i.extractLsb' 8 5, s1 := i.extractLsb' 3 5, f3 := i.extractLsb' 0 3, d := d,
    op := op }
/-- A word of format J; i is imm21 without its bit 0. -/
def encJ (d : Reg) (i : BitVec 20) : R32 :=
  { f7 := i.extractLsb' 19 1 ++ i.extractLsb' 4 6, s2 := i.extractLsb' 0 4 ++ i.extractLsb' 10 1,
    s1 := i.extractLsb' 14 5, f3 := i.extractLsb' 11 3, d := d, op := 0x6F }

/-- The fields of a standard instruction; none for any other. -/
def encode32 : Instr → Option R32
  | .add d a b => some (encR 0x33 0 0x00 d a b)
  | .sub d a b => some (encR 0x33 0 0x20 d a b)
  | .sll d a b => some (encR 0x33 1 0x00 d a b)
  | .slt d a b => some (encR 0x33 2 0x00 d a b)
  | .sltu d a b => some (encR 0x33 3 0x00 d a b)
  | .xor d a b => some (encR 0x33 4 0x00 d a b)
  | .srl d a b => some (encR 0x33 5 0x00 d a b)
  | .sra d a b => some (encR 0x33 5 0x20 d a b)
  | .or d a b => some (encR 0x33 6 0x00 d a b)
  | .and d a b => some (encR 0x33 7 0x00 d a b)
  | .mul d a b => some (encR 0x33 0 0x01 d a b)
  | .mulh d a b => some (encR 0x33 1 0x01 d a b)
  | .mulhsu d a b => some (encR 0x33 2 0x01 d a b)
  | .mulhu d a b => some (encR 0x33 3 0x01 d a b)
  | .div d a b => some (encR 0x33 4 0x01 d a b)
  | .divu d a b => some (encR 0x33 5 0x01 d a b)
  | .rem d a b => some (encR 0x33 6 0x01 d a b)
  | .remu d a b => some (encR 0x33 7 0x01 d a b)
  | .addw d a b => some (encR 0x3B 0 0x00 d a b)
  | .subw d a b => some (encR 0x3B 0 0x20 d a b)
  | .sllw d a b => some (encR 0x3B 1 0x00 d a b)
  | .srlw d a b => some (encR 0x3B 5 0x00 d a b)
  | .sraw d a b => some (encR 0x3B 5 0x20 d a b)
  | .mulw d a b => some (encR 0x3B 0 0x01 d a b)
  | .divw d a b => some (encR 0x3B 4 0x01 d a b)
  | .divuw d a b => some (encR 0x3B 5 0x01 d a b)
  | .remw d a b => some (encR 0x3B 6 0x01 d a b)
  | .remuw d a b => some (encR 0x3B 7 0x01 d a b)
  | .addi d a i => some (encI 0x13 0 d a i)
  | .slti d a i => some (encI 0x13 2 d a i)
  | .sltiu d a i => some (encI 0x13 3 d a i)
  | .xori d a i => some (encI 0x13 4 d a i)
  | .ori d a i => some (encI 0x13 6 d a i)
  | .andi d a i => some (encI 0x13 7 d a i)
  | .addiw d a i => some (encI 0x1B 0 d a i)
  | .lb d a i => some (encI 0x03 0 d a i)
  | .lh d a i => some (encI 0x03 1 d a i)
  | .lw d a i => some (encI 0x03 2 d a i)
  | .ld d a i => some (encI 0x03 3 d a i)
  | .lbu d a i => some (encI 0x03 4 d a i)
  | .lhu d a i => some (encI 0x03 5 d a i)
  | .lwu d a i => some (encI 0x03 6 d a i)
  | .jalr d a i => some (encI 0x67 0 d a i)
  | .slli d a n => some (encR 0x13 1 (0#6 ++ n.extractLsb' 5 1) d a (n.extractLsb' 0 5))
  | .srli d a n => some (encR 0x13 5 (0#6 ++ n.extractLsb' 5 1) d a (n.extractLsb' 0 5))
  | .srai d a n => some (encR 0x13 5 (16#6 ++ n.extractLsb' 5 1) d a (n.extractLsb' 0 5))
  | .slliw d a n => some (encR 0x1B 1 0x00 d a n)
  | .srliw d a n => some (encR 0x1B 5 0x00 d a n)
  | .sraiw d a n => some (encR 0x1B 5 0x20 d a n)
  | .sb b a i => some (encS 0 b a i)
  | .sh b a i => some (encS 1 b a i)
  | .sw b a i => some (encS 2 b a i)
  | .sd b a i => some (encS 3 b a i)
  | .beq a b i => some (encB 0 a b i)
  | .bne a b i => some (encB 1 a b i)
  | .blt a b i => some (encB 4 a b i)
  | .bge a b i => some (encB 5 a b i)
  | .bltu a b i => some (encB 6 a b i)
  | .bgeu a b i => some (encB 7 a b i)
  | .lui d i => some (encU 0x37 d i)
  | .auipc d i => some (encU 0x17 d i)
  | .jal d i => some (encJ d i)
  | .fence p s => some (encI 0x0F 0 0 0 (0#4 ++ p ++ s))
  | .fenceTso => some (encI 0x0F 0 0 0 0x833)
  | .fenceI => some (encI 0x0F 1 0 0 0)
  | .ecall => some (encI 0x73 0 0 0 0)
  | .ebreak => some (encI 0x73 0 0 0 1)
  | .csrrw d a c => some (encI 0x73 1 d a c)
  | .csrrs d a c => some (encI 0x73 2 d a c)
  | .csrrc d a c => some (encI 0x73 3 d a c)
  | .csrrwi d a c => some (encI 0x73 5 d a c)
  | .csrrsi d a c => some (encI 0x73 6 d a c)
  | .csrrci d a c => some (encI 0x73 7 d a c)
  | _ => none

/-- Every field 0 but the group, the function code and the class. -/
def F64.blank (grp : BitVec 3) (func : BitVec 8) (oc : BitVec 2) : F64 :=
  { imm := 0, rm := 0, et := 0, k := 0, mm := 0, func := func, oc := oc, s3 := 0, s2 := 0, s1 := 0, grp := grp,
    d := 0 }

/-- Place the s2 operand (R70). -/
def F64.withSrc (f : F64) : Src → F64
  | .vec r => { f with oc := 0, s2 := r }
  | .xreg r => { f with oc := 1, s2 := r }
  | .imm i => { f with oc := 2, imm := i }

def VecOp.enc (o : VecOp) (func : BitVec 8) : F64 :=
  { (F64.blank 0 func 0).withSrc o.b with d := o.d, s1 := o.s1, et := o.et, mm := o.m.mm, k := o.m.k }
def VecUn.enc (o : VecUn) (func : BitVec 8) : F64 :=
  { F64.blank 0 func 3 with d := o.d, s1 := o.s1, et := o.et, mm := o.m.mm, k := o.m.k }
def FltOp.enc (o : FltOp) (func : BitVec 8) : F64 :=
  { (F64.blank 1 func 0).withSrc o.b with
    d := o.d, s1 := o.s1, s3 := o.s3, rm := o.rm, et := o.et, mm := o.m.mm, k := o.m.k }
def FltUn.enc (o : FltUn) (func : BitVec 8) : F64 :=
  { F64.blank 1 func 3 with d := o.d, s1 := o.s1, rm := o.rm, et := o.et, mm := o.m.mm, k := o.m.k }
def CvtOp.enc (o : CvtOp) : F64 :=
  { F64.blank 1 0x28 3 with
    d := o.d, s1 := o.s1, rm := o.rm, et := o.et, mm := o.m.mm, k := o.m.k
    imm := 0#2 ++ BitVec.ofBool o.udst ++ BitVec.ofBool o.usrc ++ BitVec.ofBool o.sat ++ o.sew ++ o.fmt }
/-- imm13 of group VM: aq, rl, record and selector (R69). -/
def immVM (aq rl : Bool) (n : BitVec 8) (sel : BitVec 3) : BitVec 13 :=
  BitVec.ofBool aq ++ BitVec.ofBool rl ++ n ++ sel
def MemOp.enc (o : MemOp) (func : BitVec 8) (oc : BitVec 2) : F64 :=
  { F64.blank 2 func oc with
    d := o.d, s1 := o.s1, s2 := o.s2, et := o.et, mm := o.m.mm, k := o.m.k, imm := immVM false false o.n o.sel }
def SpillOp.enc (o : SpillOp) (func : BitVec 8) : F64 :=
  { F64.blank 2 func 1 with d := o.d, s1 := o.s1, imm := immVM false false o.n o.sel }
def AmoOp.enc (o : AmoOp) (func : BitVec 8) : F64 :=
  { F64.blank 2 func 1 with
    d := o.d, s1 := o.s1, s2 := o.s2, s3 := o.s3, rm := o.scope, imm := immVM o.aq o.rl o.n o.sel }
def VAmoOp.enc (o : VAmoOp) (func : BitVec 8) : F64 :=
  { F64.blank 2 func 0 with
    d := o.d, s1 := o.s1, s2 := o.s2, s3 := o.s3, rm := o.scope, mm := o.m.mm, k := o.m.k
    imm := immVM o.aq o.rl o.n o.sel }
/-- A form of group GX, with imm13[9:8] and the record (R78). -/
def encGX (func : BitVec 8) (oc : BitVec 2) (d s1 s2 : Reg) (lod : BitVec 2) (n : BitVec 8) (m : MaskSel) : F64 :=
  { F64.blank 4 func oc with d := d, s1 := s1, s2 := s2, mm := m.mm, k := m.k, imm := 0#3 ++ lod ++ n }
/-- A form of group MX that names a tensor identifier (R77). -/
def encMX (func : BitVec 8) (d s1 : Reg) (tn : BitVec 6) : F64 :=
  { F64.blank 3 func 3 with d := d, s1 := s1, imm := 0#7 ++ tn }
/-- A form of group SY or CT with registers only. -/
def encRegs (grp : BitVec 3) (func : BitVec 8) (d s1 s2 : Reg) : F64 :=
  { F64.blank grp func 3 with d := d, s1 := s1, s2 := s2 }
/-- A barrier form: target and slot (R79). -/
def encSlot (func : BitVec 8) (target : BitVec 3) (slot : BitVec 7) (scope : BitVec 3) (d s1 : Reg) : F64 :=
  { F64.blank 5 func 3 with d := d, s1 := s1, rm := scope, imm := 0#3 ++ target ++ slot }

/-- The fields of an F64 instruction; none for a standard instruction or an event. -/
def encode64 : Instr → Option F64
  | .vadd o => some (o.enc 0x00)
  | .vsub o => some (o.enc 0x01)
  | .vmul o => some (o.enc 0x02)
  | .vmulh o => some (o.enc 0x03)
  | .vmulhu o => some (o.enc 0x04)
  | .vdiv o => some (o.enc 0x05)
  | .vdivu o => some (o.enc 0x06)
  | .vrem o => some (o.enc 0x07)
  | .vremu o => some (o.enc 0x08)
  | .vmin o => some (o.enc 0x09)
  | .vminu o => some (o.enc 0x0A)
  | .vmax o => some (o.enc 0x0B)
  | .vmaxu o => some (o.enc 0x0C)
  | .vand o => some (o.enc 0x0D)
  | .vor o => some (o.enc 0x0E)
  | .vxor o => some (o.enc 0x0F)
  | .vsll o => some (o.enc 0x10)
  | .vsrl o => some (o.enc 0x11)
  | .vsra o => some (o.enc 0x12)
  | .vsadd o => some (o.enc 0x13)
  | .vsaddu o => some (o.enc 0x14)
  | .vssub o => some (o.enc 0x15)
  | .vssubu o => some (o.enc 0x16)
  | .vmv o => some (o.enc 0x17)
  | .vcmpEq o => some (o.enc 0x18)
  | .vcmpNe o => some (o.enc 0x19)
  | .vcmpLt o => some (o.enc 0x1A)
  | .vcmpLe o => some (o.enc 0x1B)
  | .vcmpGt o => some (o.enc 0x1C)
  | .vcmpGe o => some (o.enc 0x1D)
  | .vcmpLtu o => some (o.enc 0x1E)
  | .vcmpLeu o => some (o.enc 0x1F)
  | .vcmpGtu o => some (o.enc 0x20)
  | .vcmpGeu o => some (o.enc 0x21)
  | .vperm o => some (o.enc 0x40)
  | .vslideUp o => some (o.enc 0x41)
  | .vslideDn o => some (o.enc 0x42)
  | .vbcast o => some (o.enc 0x43)
  | .vmvxs o => some (o.enc 0x44)
  | .vredAdd o => some (o.enc 0x48)
  | .vredMin o => some (o.enc 0x49)
  | .vredMax o => some (o.enc 0x4A)
  | .vredMinu o => some (o.enc 0x4B)
  | .vredMaxu o => some (o.enc 0x4C)
  | .vredAnd o => some (o.enc 0x4D)
  | .vredOr o => some (o.enc 0x4E)
  | .vredXor o => some (o.enc 0x4F)
  | .vscanAdd o => some (o.enc 0x50)
  | .vscanMin o => some (o.enc 0x51)
  | .vscanMax o => some (o.enc 0x52)
  | .vscanMinu o => some (o.enc 0x53)
  | .vscanMaxu o => some (o.enc 0x54)
  | .vcmprs o => some (o.enc 0x58)
  | .vpopc o => some (o.enc 0x59)
  | .vfirst o => some (o.enc 0x5A)
  | .vfadd o => some (o.enc 0x00)
  | .vfsub o => some (o.enc 0x01)
  | .vfmul o => some (o.enc 0x02)
  | .vfdiv o => some (o.enc 0x03)
  | .vfma o => some (o.enc 0x04)
  | .vfms o => some (o.enc 0x05)
  | .vfnma o => some (o.enc 0x06)
  | .vfnms o => some (o.enc 0x07)
  | .vfmin o => some (o.enc 0x08)
  | .vfmax o => some (o.enc 0x09)
  | .vfsgnj o => some (o.enc 0x0B)
  | .vfsgnjn o => some (o.enc 0x0C)
  | .vfsgnjx o => some (o.enc 0x0D)
  | .vfcmpEq o => some (o.enc 0x18)
  | .vfcmpNe o => some (o.enc 0x19)
  | .vfcmpLt o => some (o.enc 0x1A)
  | .vfcmpLe o => some (o.enc 0x1B)
  | .vfcmpGt o => some (o.enc 0x1C)
  | .vfcmpGe o => some (o.enc 0x1D)
  | .vfsqrt o => some (o.enc 0x0A)
  | .vfrcp o => some (o.enc 0x10)
  | .vfrsq o => some (o.enc 0x11)
  | .vfexp2 o => some (o.enc 0x12)
  | .vflog2 o => some (o.enc 0x13)
  | .vfsin o => some (o.enc 0x14)
  | .vfcos o => some (o.enc 0x15)
  | .vfclass o => some (o.enc 0x20)
  | .vfredSum o => some (o.enc 0x30)
  | .vfredMin o => some (o.enc 0x31)
  | .vfredMax o => some (o.enc 0x32)
  | .vfscanSum o => some (o.enc 0x33)
  | .vcvt o => some o.enc
  | .vld o => some (o.enc 0x00 1)
  | .vlds o => some (o.enc 0x01 1)
  | .vldx o => some (o.enc 0x02 0)
  | .vst o => some (o.enc 0x08 1)
  | .vsts o => some (o.enc 0x09 1)
  | .vstx o => some (o.enc 0x0A 0)
  | .vldCh o => some (o.enc 0x03 1)
  | .vspill o => some (o.enc 0x10)
  | .vfill o => some (o.enc 0x11)
  | .vamoaddW o => some (o.enc 0x20)
  | .vamoandW o => some (o.enc 0x21)
  | .vamoorW o => some (o.enc 0x22)
  | .vamoxorW o => some (o.enc 0x23)
  | .vamoswapW o => some (o.enc 0x24)
  | .vamominW o => some (o.enc 0x25)
  | .vamomaxW o => some (o.enc 0x26)
  | .vamominuW o => some (o.enc 0x27)
  | .vamomaxuW o => some (o.enc 0x28)
  | .vamocasW o => some (o.enc 0x29)
  | .vamoaddD o => some (o.enc 0x30)
  | .vamoandD o => some (o.enc 0x31)
  | .vamoorD o => some (o.enc 0x32)
  | .vamoxorD o => some (o.enc 0x33)
  | .vamoswapD o => some (o.enc 0x34)
  | .vamominD o => some (o.enc 0x35)
  | .vamomaxD o => some (o.enc 0x36)
  | .vamominuD o => some (o.enc 0x37)
  | .vamomaxuD o => some (o.enc 0x38)
  | .vamocasD o => some (o.enc 0x39)
  | .amoaddW o => some (o.enc 0x40)
  | .amoandW o => some (o.enc 0x41)
  | .amoorW o => some (o.enc 0x42)
  | .amoxorW o => some (o.enc 0x43)
  | .amoswapW o => some (o.enc 0x44)
  | .amominW o => some (o.enc 0x45)
  | .amomaxW o => some (o.enc 0x46)
  | .amominuW o => some (o.enc 0x47)
  | .amomaxuW o => some (o.enc 0x48)
  | .amocasW o => some (o.enc 0x49)
  | .amoaddD o => some (o.enc 0x50)
  | .amoandD o => some (o.enc 0x51)
  | .amoorD o => some (o.enc 0x52)
  | .amoxorD o => some (o.enc 0x53)
  | .amoswapD o => some (o.enc 0x54)
  | .amominD o => some (o.enc 0x55)
  | .amomaxD o => some (o.enc 0x56)
  | .amominuD o => some (o.enc 0x57)
  | .amomaxuD o => some (o.enc 0x58)
  | .amocasD o => some (o.enc 0x59)
  | .mma d s1 s2 => some { F64.blank 3 0x00 0 with d := d, s1 := s1, s2 := s2 }
  | .mmr d tn => some (encMX 0x01 d 0 tn)
  | .mldb tn s1 => some (encMX 0x02 0 s1 tn)
  | .mconv d tn s1 => some (encMX 0x03 d s1 tn)
  | .mstc vs tn s1 et rm => some { encMX 0x04 vs s1 tn with et := et, rm := rm }
  | .tdset tn s1 => some (encMX 0x10 0 s1 tn)
  | .tdget tn s1 => some (encMX 0x11 0 s1 tn)
  | .vbox d s1 s2 m => some (encGX 0x00 0 d s1 s2 0 0 m)
  | .vtri d s1 s2 m => some (encGX 0x01 0 d s1 s2 0 0 m)
  | .tex d s1 s2 n m => some (encGX 0x08 0 d s1 s2 0 n m)
  | .texGrad d s1 s2 n m => some (encGX 0x08 0 d s1 s2 1 n m)
  | .texLod d s1 s2 n m => some (encGX 0x08 0 d s1 s2 2 n m)
  | .txld d s1 s2 n m => some (encGX 0x09 1 d s1 s2 0 n m)
  | .tcommit s1 s2 m => some (encGX 0x10 1 0 s1 s2 0 0 m)
  | .phase aq rl scope => some { F64.blank 5 0x00 3 with rm := scope, imm := BitVec.ofBool aq ++ BitVec.ofBool rl ++ 0#11 }
  | .arrive target slot s1 scope => some (encSlot 0x08 target slot scope 0 s1)
  | .waitb slot scope => some (encSlot 0x09 1 slot scope 0 0)
  | .testb d slot => some (encSlot 0x0A 1 slot 0 d 0)
  | .enq s1 => some (encRegs 5 0x10 0 s1 0)
  | .enqNb d s1 => some (encRegs 5 0x11 d s1 0)
  | .tdone => some (encRegs 5 0x12 0 0 0)
  | .psend pipe s1 => some { encRegs 5 0x18 0 s1 0 with imm := 0#10 ++ pipe }
  | .precv d pipe s1 => some { encRegs 5 0x19 d s1 0 with imm := 0#10 ++ pipe }
  | .xpush s1 => some (encRegs 5 0x20 0 s1 0)
  | .xpushNb d s1 => some (encRegs 5 0x21 d s1 0)
  | .mwait s1 s2 => some (encRegs 5 0x28 0 s1 s2)
  | .gendone s1 => some (encRegs 5 0x30 0 s1 0)
  | .genfail s1 s2 => some (encRegs 5 0x31 0 s1 s2)
  | .fillrst s1 => some (encRegs 5 0x32 0 s1 0)
  | .setvl d s1 ty =>
    some { F64.blank 6 0x00 3 with d := d, s1 := s1, et := ty.extractLsb' 0 3, imm := 0#1 ++ ty.extractLsb' 3 12 }
  | .setvlReg d s1 s2 => some (encRegs 6 0x01 d s1 s2)
  | .mpush n => some (encRegs 6 0x08 0 n 0)
  | .minv => some (encRegs 6 0x09 0 0 0)
  | .mpop => some (encRegs 6 0x0A 0 0 0)
  | .bmz off => some { F64.blank 6 0x0C 3 with imm := off }
  | .bmnz off => some { F64.blank 6 0x0D 3 with imm := off }
  | .jtbl d s1 s2 s3 => some { encRegs 6 0x10 d s1 s2 with s3 := s3 }
  | .hback s1 s2 => some (encRegs 6 0x18 0 s1 s2)
  | .frjoin => some (encRegs 6 0x19 0 0 0)
  | .tresume s1 => some (encRegs 6 0x20 0 s1 0)
  | .tkill s1 => some (encRegs 6 0x21 0 s1 0)
  | .tlbinv s1 s2 => some (encRegs 6 0x28 0 s1 s2)
  | .tlbinvCol s1 s2 => some { encRegs 6 0x28 0 s1 s2 with imm := 1 }
  | _ => none

/-- The bytes of an instruction, lowest address first; none for an event, which no bytes name. -/
def encode (i : Instr) : List Byte :=
  match encode32 i with
  | some f => bytesOf 4 f.toWord.toNat
  | none =>
    match encode64 i with
    | some f => bytesOf 8 f.toWord.toNat
    | none => []

/-- Whether an instruction has an encoding; an event has none. -/
def encodes (i : Instr) : Bool := (encode32 i).isSome || (encode64 i).isSome

/-- The bytes that an instruction occupies (R64). -/
def sizeOf (i : Instr) : Nat := if (encode32 i).isSome then 4 else 8

end Sys2Proof
end

