-- ==== Sys2Proof/Machine/Issue.lean ====
section
/-! DEFINITION. Which context issues next (R25, R30), the fetch of its instruction (R53, R54, R64, R65), and
what passes with time. -/

namespace Sys2Proof.Machine

/-! ### Waiting contexts (R30) -/

/-- What a context waits for has come about. -/
def wakes (s : State) (c : CtxId) : Wait → Bool
  | .barrier n => decide (slotN (readSlot s c.core n) ≤ 0)
  | .pipe n send =>
    match (s.core c.core).gang with
    | none => true
    | some g =>
      let p := Table.get Pipe.empty g.pipe n
      if send then decide (p.full < 16) || g.done.getLsbD (pipeRoles g n).2
      else decide (0 < p.full) || g.done.getLsbD (pipeRoles g n).1
  | .word _ noticed => noticed
  | .fifo chain =>
    let p := s.partAt c.core c.part
    decide (p.fifo.length < 16) && (!chain || decide (p.trackers.length < 4))
  | .tailSlot => !(s.partAt c.core c.part).tfg.live
  | .ring _ => decide ((s.core c.core).mc = (s.core c.core).sc)
  | .tile _ answer => answer.isSome
  | .chain _ ps _ => !(s.partAt c.core c.part).trackers.any (fun t => ps.any (fun p => expects t p.1 p.2))
  | .lines => !(releaseHeld s c || releaseHeld s c.other)
  | .held line => !lineHeld s line
  | .snoop line _ => !ownedAway s line
  | .queueRoom h => (match (s.partAt c.core c.part).task with
    | some id => queueRoom s h (s.taskAt id).colour (some c.core)
    | none => true)

/-- The task that a context belongs to is on the partition and not parked. -/
def ctxLive (s : State) (c : CtxId) : Bool :=
  (s.ctx c).valid && (match (s.partAt c.core c.part).task with
    | some id => (s.taskAt id).live
    | none => false)

/-- The context issues when it is served; none does on a core whose grace period is over (R272). -/
def ready (s : State) (c : CtxId) : Bool :=
  ctxLive s c && ((s.ctx c).wait.isNone || (s.ctx c).woken) && !bellBegan s c.core 20000

/-- The contexts whose wait is over and that have not been woken. -/
def toWake (s : State) : List CtxId :=
  (s.ctxs.map (fun e => CtxId.ofKey e.1)).filter (fun c =>
    ctxLive s c && (match (s.ctx c).wait with
      | some w => !(s.ctx c).woken && wakes s c w
      | none => false))

/-- CONTEXT_WAKE (R30, R197): the context issues again, and its task runs. -/
def execContextWake (core part : Nat) (tail : Bool) (s : State) : Out :=
  let c : CtxId := { core := core, part := part, tail := tail }
  match (s.ctx c).wait with
  | none => .next s
  | some _ =>
    let s1 := s.setCtx c { s.ctx c with woken := true }
    match (s1.partAt core part).task with
    | some id =>
      let t := s1.taskAt id
      .next (if t.state = .waiting then s1.setTask id { t with state := .running } else s1)
    | none => .next s1

/-! ### The order of issue (R25) -/

/-- The partition that is served next: the first with a ready context, from the one that `turn` names on. -/
def nextPart (s : State) : Option CtxId :=
  let rs := (s.ctxs.map (fun e => CtxId.ofKey e.1)).filter (ready s)
  match rs.find? (fun c => decide (s.turn.partKey ≤ c.partKey)) with
  | some c => some c
  | none => rs.head?

/-- The context that issues: where both of a partition are ready, the one that did not issue last. -/
def pick (s : State) : Option CtxId :=
  match nextPart s with
  | none => none
  | some c =>
    let m : CtxId := { c with tail := false }
    let t : CtxId := { c with tail := true }
    if ready s m && ready s t then
      some (if Table.get 1 (s.core c.core).issued c.part = 0 then t else m)
    else some c

/-- The context acts: it is noted as the one that issued last of its partition. -/
def serve (s : State) (c : CtxId) : State :=
  let k := s.core c.core
  let s1 := s.setCore c.core { k with issued := Table.set k.issued c.part (if c.tail then 1 else 0) }
  { s1 with turn := c }

/-- The partition after the one that has issued is served next. -/
def passTurn (s : State) (c : CtxId) : State :=
  { s with turn := CtxId.ofKey ((c.partKey + 1) * 2) }

/-! ### Fetch -/

/-- n bytes as a core fetches them: a context's own unpublished store, what the instruction cache holds of the line, or
else the newest published byte (R134, R329). -/
def codeBytes (s : State) (l n : Nat) : List Byte :=
  match l1iBytes s.myCore.l1i l n with
  | none => seen s s.me.pend l n
  | some bs => (bs.zip (upTo n)).map (fun b => (Table.find s.me.pend (l + b.2)).getD b.1)

/-- The place of a fetch of 4 bytes, or why it cannot be made. A fetch is no read of the task's signature and meets no
poison check (log 17). -/
def fetchAt (s : State) (a : Word) : Except Halt Target :=
  checkAcc s { s.who with atomic := false } (accGv a 4 .fetch false) false

/-- A fetch of 4 bytes. -/
def fetch4 (s : State) (a : Word) : Except Halt (List Byte) := (fetchAt s a).map (fun t => codeBytes s t.loc 4)

/-- What the fetch at the PC comes to: an instruction, a fault with CAUSE and DETAIL, bytes that are no instruction, or a
wait for a line that another device owns (R290). -/
inductive Fetched where
  | instr (i : Instr)
  | fault (cause detail : Nat) (straddle : Bool)
  | bad
  | stalled (line : Nat)
  deriving DecidableEq, Repr

/-- What halts the fetch of one half. -/
def fetchHalt (straddle : Bool) : Halt → Fetched
  | .trap t => .fault t.cause.code t.detail straddle
  | .wait (.snoop line _) => .stalled line
  | _ => .fault 5 2 straddle

/-- The fetch at the PC, in the order of R65. -/
def fetch (s : State) : Fetched :=
  match fetch4 s s.pc with
  | .error h => fetchHalt false h
  | .ok b0 =>
    match lengthOf (BitVec.ofNat 32 (ofBytes b0)) with
    | .error _ => .bad
    | .ok n =>
      match (if n = 8 then fetch4 s (s.pc + 4) else .ok []) with
      | .error h => fetchHalt true h
      | .ok b1 =>
        match decode (b0 ++ b1) with
        | .ok r => .instr r.1
        | .error _ => .bad

/-- What a fetch of 4 bytes leaves behind: its translation, a lease on a line of another device (R287), and, where the path
is cached, the line in the core's instruction cache, filled through the L2 (R120, R136). -/
def noteFetch (s : State) (a : Word) : State :=
  match fetchAt s a with
  | .error _ => noteWalk s s.turn.core s.task.colour a
  | .ok t =>
    let s1 := s.keepTlb s.turn.core t.tlb
    if (l1iBytes s1.myCore.l1i t.loc 4).isSome then s1.setMyCore { s1.myCore with l1i := l1iTouch s1.myCore.l1i (lineOf t.loc) [] }
    else
      let s2 := noteRead s1 t 4
      if t.cache ≠ 0 ∨ (s.bar0.unsync && isPeer t.home) then s2
      else s2.setMyCore { s2.myCore with l1i := l1iTouch s2.myCore.l1i (lineOf t.loc) (s2.mem.read (lineOf t.loc * 128) 128) }

/-- The state in which a context has fetched at its PC. -/
def afterFetch (s : State) : State :=
  let s1 := noteFetch s s.pc
  match fetch4 s s.pc with
  | .ok b0 => match lengthOf (BitVec.ofNat 32 (ofBytes b0)) with
    | .ok 8 => noteFetch s1 (s.pc + 4)
    | _ => s1
  | .error _ => s1

/-! ### What an issue sets off -/

/-- Parked tasks that nothing holds back any more (R267). -/
def becameReady (e : Nat × Task) : Bool :=
  decide (e.2.state = .parked) && e.2.waitsOn.isEmpty && !e.2.trapOpen && e.2.pending.isNone && e.2.retryAt.isNone

/-- Parked tasks enter the order in which they became ready (R173). -/
def settle (s : State) : State :=
  let new := ((s.tasks.filter becameReady).map (·.1)).filter (fun id => !s.sched.readyQ.contains id)
  if new.isEmpty then s else { s with sched := { s.sched with readyQ := s.sched.readyQ ++ new } }

/-- Event 01 counts every cycle of a task on a core, and event 08 each cycle in which the task's state is waiting, once
whatever contexts it has: the wait of a tail-pending task's tail does not count (R90; DESIGN CHOICE log 5). -/
def countWaits (s : State) : State :=
  s.tasks.foldl (fun s e =>
    if e.2.pcsel.isEmpty ∨ !e.2.live then s
    else
      let s1 := countEvent s e.1 1 1
      if e.2.state = .waiting then countEvent s1 e.1 8 1 else s1) s

/-- One step's time passes: a nanosecond of TIME and one cc of the counters (log 5). -/
def tick (s : State) : State := { countWaits s with time := s.time + 1 }

end Sys2Proof.Machine
end

