-- ==== Sys2Proof/Machine/Float.lean ====
section
/-! DEFINITION. Floating-point numbers (R97 to R105): formats, exact values, the one rounding (R100, R101), the
operations of R392 and R393, conversions (R102), and block codes and scales (R103, R104, R110). -/

namespace Sys2Proof.Machine

/-! ### Formats (R97, R98) -/

/-- A binary format: exponent and fraction widths, bias, whether it has infinities and whether its NaNs can
signal. -/
structure FloatFmt where
  eb   : Nat
  fb   : Nat
  bias : Nat
  infs : Bool
  sigs : Bool
  deriving DecidableEq, Repr

def fmtF64 : FloatFmt := { eb := 11, fb := 52, bias := 1023, infs := true, sigs := true }
def fmtF32 : FloatFmt := { eb := 8, fb := 23, bias := 127, infs := true, sigs := true }
def fmtF16 : FloatFmt := { eb := 5, fb := 10, bias := 15, infs := true, sigs := true }
def fmtBF16 : FloatFmt := { eb := 8, fb := 7, bias := 127, infs := true, sigs := true }
def fmtE4M3 : FloatFmt := { eb := 4, fb := 3, bias := 7, infs := false, sigs := false }
def fmtE5M2 : FloatFmt := { eb := 5, fb := 2, bias := 15, infs := true, sigs := false }
def fmtE2M1 : FloatFmt := { eb := 2, fb := 1, bias := 1, infs := false, sigs := false }

/-- The format of a format code's elements or codes (R86). -/
def fmtOf (code : Nat) : FloatFmt := match code with
  | 1 => fmtF64
  | 2 => fmtF32
  | 3 => fmtF16
  | 4 => fmtBF16
  | 5 => fmtE4M3
  | 6 => fmtE5M2
  | 8 => fmtE4M3
  | 9 => fmtE5M2
  | _ => fmtE2M1

/-- The width of a value without its sign. -/
def FloatFmt.mag (f : FloatFmt) : Nat := f.eb + f.fb
/-- The smallest exponent of a normal value: 1 − bias. -/
def FloatFmt.emin (f : FloatFmt) : Int := 1 - f.bias
/-- The code of the largest finite value. -/
def FloatFmt.top (f : FloatFmt) : Nat :=
  if f.infs then (2 ^ f.eb - 1) * 2 ^ f.fb - 1
  else if f.eb = 4 then 0x7E
  else 2 ^ f.mag - 1
/-- The canonical NaN (R99); E2M1 has none, and no operation that writes an E2M1 code asks for it. -/
def FloatFmt.nan (f : FloatFmt) : Nat :=
  if f.infs then (2 ^ f.eb - 1) * 2 ^ f.fb + 2 ^ (f.fb - 1) else 2 ^ f.mag - 1
/-- A code with a sign. -/
def FloatFmt.signed (f : FloatFmt) (neg : Bool) (code : Nat) : Nat := (if neg then 2 ^ f.mag else 0) + code
/-- Infinity; in E4M3, which has none, the canonical NaN (R101). -/
def FloatFmt.inf (f : FloatFmt) (neg : Bool) : Nat :=
  if f.infs then f.signed neg ((2 ^ f.eb - 1) * 2 ^ f.fb) else f.nan

/-! ### Values -/

/-- A value: NaN (signalling or not), infinity, or (−1)^neg × m × 2^e. -/
inductive Num where
  | nan (sig : Bool)
  | inf (neg : Bool)
  | fin (neg : Bool) (m : Nat) (e : Int)
  deriving DecidableEq, Repr

def Num.isNan : Num → Bool
  | .nan _ => true
  | _ => false
/-- NV for a signalling NaN. -/
def Num.sig : Num → Nat
  | .nan true => flNV
  | _ => 0
def Num.neg : Num → Num
  | .nan s => .nan s
  | .inf n => .inf (!n)
  | .fin n m e => .fin (!n) m e

/-- The value of a code (R97, R98). -/
def FloatFmt.value (f : FloatFmt) (code : Nat) : Num :=
  let neg := code.testBit f.mag
  let c := code % 2 ^ f.mag
  let ef := c / 2 ^ f.fb
  let ff := c % 2 ^ f.fb
  if f.infs && decide (ef = 2 ^ f.eb - 1) then
    (if ff = 0 then .inf neg else .nan (f.sigs && !ff.testBit (f.fb - 1)))
  else if decide (f.eb = 4) && decide (c = 0x7F) then .nan false
  else if ef = 0 then .fin neg ff (f.emin - f.fb)
  else .fin neg (2 ^ f.fb + ff) ((ef : Int) - f.bias - f.fb)

/-- An integer as a value. -/
def Num.ofInt (i : Int) : Num := .fin (decide (i < 0)) i.natAbs 0

/-- A signed dyadic number m × 2^e as a value. -/
def Num.ofDyadic (m : Int) (e : Int) : Num := .fin (decide (m < 0)) m.natAbs e

/-! ### Rounding (R100) -/

/-- m × 2^e as a multiple of 2^q, rounded in a mode (0 RNE, 1 RTZ, 2 RDN, 3 RUP, 4 RMM): the multiple, and
whether it is inexact. -/
def roundTo (rm : Nat) (neg : Bool) (m : Nat) (e q : Int) : Nat × Bool :=
  if q ≤ e then (m * 2 ^ (e - q).toNat, false)
  else
    let sh := (q - e).toNat
    let k := m / 2 ^ sh
    let r := m % 2 ^ sh
    let half := 2 ^ (sh - 1)
    let up := match rm with
      | 0 => decide (half < r) || (decide (r = half) && decide (k % 2 = 1))
      | 2 => neg && decide (r ≠ 0)
      | 3 => !neg && decide (r ≠ 0)
      | 4 => decide (half ≤ r)
      | _ => false
    (if up then k + 1 else k, decide (r ≠ 0))

/-- The exponent of the leading bit of m × 2^e. -/
def leadExp (m : Nat) (e : Int) : Int := e + Nat.log2 m

/-- The result of an overflow (R100, R101). -/
def overflowTo (f : FloatFmt) (rm : Nat) (neg sat : Bool) : Nat :=
  let toInf := match rm with
    | 1 => false
    | 2 => neg
    | 3 => !neg
    | _ => true
  if toInf && !sat then f.inf neg else f.signed neg f.top

/-- Round (−1)^neg × m × 2^e into a format: the code and the flags. Tininess is detected after rounding
(R100). -/
def roundFin (f : FloatFmt) (rm : Nat) (sat neg : Bool) (m : Nat) (e : Int) : Nat × Nat :=
  if m = 0 then (f.signed neg 0, 0)
  else
    let le := leadExp m e
    let q := max le f.emin - f.fb
    let (k, inexact) := roundTo rm neg m e q
    let code := k + (q + f.fb - f.emin).toNat * 2 ^ f.fb
    if f.top < code then (overflowTo f rm neg sat, flOF + flNX)
    else
      let free := (roundTo rm neg m e (le - f.fb)).1
      let tiny := decide (le < f.emin) && !(decide (le = f.emin - 1) && decide (free = 2 ^ (f.fb + 1)))
      (f.signed neg code, (if inexact then flNX else 0) + (if inexact && tiny then flUF else 0))

/-- Round a value into a format. -/
def roundNum (f : FloatFmt) (rm : Nat) (sat : Bool) : Num → Nat × Nat
  | .nan s => (f.nan, if s then flNV else 0)
  | .inf n => (if sat then f.signed n f.top else f.inf n, 0)
  | .fin n m e => roundFin f rm sat n m e

/-! ### Exact arithmetic -/

/-- (−1)^neg × m as an integer. -/
def signedInt (neg : Bool) (m : Nat) : Int := if neg then -(m : Int) else m

/-- The exact sum of two finite values; a zero sum of opposite signs is −0 under RDN (R393). -/
def addFin (rm : Nat) (n1 : Bool) (m1 : Nat) (e1 : Int) (n2 : Bool) (m2 : Nat) (e2 : Int) : Num :=
  let e := min e1 e2
  let t := signedInt n1 (m1 * 2 ^ (e1 - e).toNat) + signedInt n2 (m2 * 2 ^ (e2 - e).toNat)
  if t = 0 then .fin (if n1 = n2 then n1 else decide (rm = 2)) 0 e else .ofDyadic t e

/-- a + b, exact, with NV where R393 says. -/
def addNum (rm : Nat) (a b : Num) : Num × Nat :=
  let nv := a.sig ||| b.sig
  match a, b with
  | .nan _, _ => (.nan false, nv)
  | _, .nan _ => (.nan false, nv)
  | .inf n1, .inf n2 => if n1 = n2 then (.inf n1, 0) else (.nan false, flNV)
  | .inf n1, .fin _ _ _ => (.inf n1, 0)
  | .fin _ _ _, .inf n2 => (.inf n2, 0)
  | .fin n1 m1 e1, .fin n2 m2 e2 => (addFin rm n1 m1 e1 n2 m2 e2, 0)

/-- a × b, exact. -/
def mulNum (a b : Num) : Num × Nat :=
  let nv := a.sig ||| b.sig
  match a, b with
  | .nan _, _ => (.nan false, nv)
  | _, .nan _ => (.nan false, nv)
  | .inf n1, .inf n2 => (.inf (n1 != n2), 0)
  | .inf n1, .fin n2 m2 _ => if m2 = 0 then (.nan false, flNV) else (.inf (n1 != n2), 0)
  | .fin n1 m1 _, .inf n2 => if m1 = 0 then (.nan false, flNV) else (.inf (n1 != n2), 0)
  | .fin n1 m1 e1, .fin n2 m2 e2 => (.fin (n1 != n2) (m1 * m2) (e1 + e2), 0)

/-- A quotient or root known to the bits of m, with the rest marked in one bit below them. -/
def withSticky (neg : Bool) (m : Nat) (e : Int) (more : Bool) : Num := .fin neg (2 * m + (if more then 1 else 0)) (e - 1)

/-- a / b to more bits than the format holds. -/
def divNum (f : FloatFmt) (a b : Num) : Num × Nat :=
  let nv := a.sig ||| b.sig
  match a, b with
  | .nan _, _ => (.nan false, nv)
  | _, .nan _ => (.nan false, nv)
  | .inf _, .inf _ => (.nan false, flNV)
  | .inf n1, .fin n2 _ _ => (.inf (n1 != n2), 0)
  | .fin n1 _ _, .inf n2 => (.fin (n1 != n2) 0 0, 0)
  | .fin n1 m1 e1, .fin n2 m2 e2 =>
    if m2 = 0 then (if m1 = 0 then (.nan false, flNV) else (.inf (n1 != n2), flDZ))
    else if m1 = 0 then (.fin (n1 != n2) 0 0, 0)
    else
      let sh := f.fb + 4 + Nat.log2 m2
      let q := m1 * 2 ^ sh / m2
      (withSticky (n1 != n2) q (e1 - e2 - sh) (decide (m1 * 2 ^ sh % m2 ≠ 0)), 0)

/-- The integer square root, bit by bit from bit n down. -/
def isqrtFrom (v : Nat) : Nat → Nat → Nat
  | 0, r => if (r + 1) * (r + 1) ≤ v then r + 1 else r
  | n + 1, r => isqrtFrom v n (if (r + 2 ^ (n + 1)) * (r + 2 ^ (n + 1)) ≤ v then r + 2 ^ (n + 1) else r)
def isqrt (v : Nat) : Nat := isqrtFrom v (Nat.log2 v / 2 + 1) 0

/-- √a to more bits than the format holds. -/
def sqrtNum (f : FloatFmt) (a : Num) : Num × Nat :=
  match a with
  | .nan s => (.nan false, if s then flNV else 0)
  | .inf n => if n then (.nan false, flNV) else (.inf false, 0)
  | .fin n m e =>
    if m = 0 then (.fin n 0 0, 0)
    else if n then (.nan false, flNV)
    else
      let sh := 2 * (f.fb + 4) + (if (e - 2 * (f.fb + 4 : Nat)) % 2 = 0 then 0 else 1)
      let v := m * 2 ^ sh
      let r := isqrt v
      (withSticky false r ((e - sh) / 2) (decide (r * r ≠ v)), 0)

/-! ### Operations on codes: the result's code and the flags (R392, R393) -/

/-- One rounding of an exact result. -/
def finishOp (f : FloatFmt) (rm : Nat) (r : Num × Nat) : Nat × Nat :=
  let o := roundNum f rm false r.1
  (o.1, o.2 ||| r.2)

def fAdd (f : FloatFmt) (rm a b : Nat) : Nat × Nat := finishOp f rm (addNum rm (f.value a) (f.value b))
def fSub (f : FloatFmt) (rm a b : Nat) : Nat × Nat := finishOp f rm (addNum rm (f.value a) (f.value b).neg)
def fMul (f : FloatFmt) (rm a b : Nat) : Nat × Nat := finishOp f rm (mulNum (f.value a) (f.value b))
def fDiv (f : FloatFmt) (rm a b : Nat) : Nat × Nat := finishOp f rm (divNum f (f.value a) (f.value b))
def fSqrt (f : FloatFmt) (rm a : Nat) : Nat × Nat := finishOp f rm (sqrtNum f (f.value a))

/-- A fused form: a × b, negated where np, plus c, negated where nc. -/
def fFused (np nc : Bool) (f : FloatFmt) (rm a b c : Nat) : Nat × Nat :=
  let p := mulNum (f.value a) (f.value b)
  let p1 := if np then p.1.neg else p.1
  let c1 := if nc then (f.value c).neg else f.value c
  let r := addNum rm p1 c1
  finishOp f rm (r.1, r.2 ||| p.2)

/-- A total order of finite values and infinities that puts −0 below +0 (R99): a < b. -/
def numLess (a b : Num) : Bool :=
  match a, b with
  | .inf n1, .inf n2 => n1 && !n2
  | .inf n1, .fin _ _ _ => n1
  | .fin _ _ _, .inf n2 => !n2
  | .fin n1 m1 e1, .fin n2 m2 e2 =>
    let e := min e1 e2
    let x := signedInt n1 (m1 * 2 ^ (e1 - e).toNat)
    let y := signedInt n2 (m2 * 2 ^ (e2 - e).toNat)
    decide (x < y) || (decide (x = y) && n1 && !n2 && decide (m1 = 0))
  | _, _ => false

/-- VFMIN and VFMAX on codes (R99). -/
def fMinMax (max' : Bool) (f : FloatFmt) (a b : Nat) : Nat × Nat :=
  let x := f.value a
  let y := f.value b
  let nv := x.sig ||| y.sig
  if x.isNan && y.isNan then (f.nan, nv)
  else if x.isNan then (b, nv)
  else if y.isNan then (a, nv)
  else (if max' then (if numLess x y then b else a) else (if numLess y x then b else a), nv)

/-- The sign-injection forms: sg gives the sign from the signs of a and b. -/
def fSign (sg : Bool → Bool → Bool) (f : FloatFmt) (a b : Nat) : Nat × Nat :=
  if (f.value a).isNan then (f.nan, 0)
  else (f.signed (sg (a.testBit f.mag) (b.testBit f.mag)) (a % 2 ^ f.mag), 0)

/-- Values of equal size. -/
def numEq (a b : Num) : Bool :=
  match a, b with
  | .fin _ 0 _, .fin _ 0 _ => true
  | .nan _, _ => false
  | _, .nan _ => false
  | _, _ => !numLess a b && !numLess b a

/-- The value is less, with −0 and +0 equal. -/
def numLt (a b : Num) : Bool := numLess a b && !numEq a b

/-- A compare's truth and flags (R395): c is 0 EQ, 1 NE, 2 LT, 3 LE, 4 GT, 5 GE. -/
def fCompare (c : Nat) (f : FloatFmt) (a b : Nat) : Bool × Nat :=
  let x := f.value a
  let y := f.value b
  let un := x.isNan || y.isNan
  let nv := if 2 ≤ c then (if un then flNV else 0) else x.sig ||| y.sig
  let t := match c with
    | 0 => numEq x y
    | 1 => !numEq x y
    | 2 => numLt x y
    | 3 => numLt x y || numEq x y
    | 4 => numLt y x
    | _ => numLt y x || numEq x y
  (if un then decide (c = 1) else t, nv)

/-- The class of a value, one bit of ten (R394). -/
def fClass (f : FloatFmt) (a : Nat) : Nat :=
  match f.value a with
  | .inf n => if n then 1 else 2 ^ 7
  | .nan s => if s then 2 ^ 8 else 2 ^ 9
  | .fin n m _ =>
    if m = 0 then (if n then 2 ^ 3 else 2 ^ 4)
    else if m < 2 ^ f.fb then (if n then 2 ^ 2 else 2 ^ 5)
    else (if n then 2 ^ 1 else 2 ^ 6)

/-- A value that passes unchanged, a NaN made canonical (R114). -/
def fPass (f : FloatFmt) (a : Nat) : Nat × Nat :=
  match f.value a with
  | .nan s => (f.nan, if s then flNV else 0)
  | _ => (a, 0)

/-! ### Conversions (R101, R102) -/

/-- A value as an integer of n bits (R102). -/
def numToInt (rm n : Nat) (sat uns : Bool) (x : Num) : Nat × Nat :=
  let lo : Int := if uns then 0 else -(2 ^ (n - 1) : Int)
  let hi : Int := if uns then 2 ^ n - 1 else 2 ^ (n - 1) - 1
  let put := fun (i : Int) => (BitVec.ofInt n i).toNat
  match x with
  | .nan _ => (put (if sat then 0 else lo), flNV)
  | .inf neg => (put (if sat then (if neg then lo else hi) else lo), flNV)
  | .fin neg m e =>
    let (k, inexact) := roundTo rm neg m e 0
    let v := signedInt neg k
    if v < lo then (put lo, flNV)
    else if hi < v then (put (if sat then hi else lo), flNV)
    else (put v, if inexact then flNX else 0)

/-- An integer of another width (R102). -/
def intResize (src dst : Nat) (usrc udst sat : Bool) (v : Nat) : Nat :=
  let x : Int := if usrc then v else signNat v src
  if sat && decide (dst < src) then
    let lo : Int := if udst then 0 else -(2 ^ (dst - 1) : Int)
    let hi : Int := if udst then 2 ^ dst - 1 else 2 ^ (dst - 1) - 1
    (BitVec.ofInt dst (if x < lo then lo else if hi < x then hi else x)).toNat
  else (BitVec.ofInt dst x).toNat

/-! ### Blocks (R103, R104, R105, R110) -/

/-- The value of a 4-bit FB4 code of type T, in units of 1/8 (R104). -/
def fb4Value (t c : Nat) : Num :=
  let mag := fun (l : List Nat) => Num.fin (decide (8 ≤ c)) ((l.drop (c % 8)).headD 0) (-3)
  match t with
  | 0 => .ofInt (signNat c 4)
  | 1 => mag [0, 4, 8, 12, 16, 24, 32, 48]
  | 2 => mag [0, 1, 2, 4, 8, 16, 32, 64]
  | _ => mag [0, 8, 16, 24, 32, 48, 64, 96]

/-- The exponent of a scale byte; none where every element of the block is NaN (R103, R104). -/
def scaleExp (fmt scale : Nat) : Option Int :=
  if fmt = 12 then (if scale % 64 = 63 then none else some ((scale % 64 : Int) - 32))
  else (if scale = 255 then none else some ((scale : Int) - 127))

/-- A code's value without its block's scale. -/
def codeValue (fmt scale code : Nat) : Num := if fmt = 12 then fb4Value (scale / 64 % 4) code else (fmtOf fmt).value code

/-- A value times 2^x. -/
def Num.scale (x : Int) : Num → Num
  | .fin n m e => .fin n m (e + x)
  | v => v

/-- The value of an element of a block (R105). -/
def blockValue (fmt scale code : Nat) : Num :=
  match scaleExp fmt scale with
  | none => .nan false
  | some x => (codeValue fmt scale code).scale x

/-- The exponent of the largest code of a destination (R110). -/
def blockEmax (fmt : Nat) : Int := match fmt with
  | 8 => 8
  | 9 => 15
  | _ => 2

/-- floor(log2 A) of the largest finite magnitude among some values; none where it is 0. -/
def largestExp (xs : List Num) : Option Int :=
  xs.foldl (fun acc x => match x with
    | .fin _ m e => if m = 0 then acc else (match acc with
        | none => some (leadExp m e)
        | some l => some (max l (leadExp m e)))
    | _ => acc) none

/-- A finite value. -/
def Num.isFin : Num → Bool
  | .fin _ _ _ => true
  | _ => false

/-- The block's scale byte and the exponent that it stands for; none where the block holds a NaN or an
infinity (R110). -/
def blockScale (fmt : Nat) (xs : List Num) : Nat × Option Int :=
  let fb := decide (fmt = 12)
  if xs.any (fun x => !x.isFin) then (if fb then 64 + 63 else 255, none)
  else match largestExp xs with
    | none => (if fb then 64 else 0, some (if fb then -32 else -127))
    | some l =>
      let x := if fb then min (max (l - 2) (-32)) 30 else min (max (l - blockEmax fmt) (-127)) 127
      (if fb then 64 + (x + 32).toNat else (x + 127).toNat, some x)

/-- The code of a value in a block with scale exponent x; clamped or rounded, it sets NX alone (R110). -/
def blockCode (fmt rm : Nat) (x : Int) (v : Num) : Nat × Nat :=
  let f := if fmt = 12 then fmtE2M1 else fmtOf fmt
  let r := roundNum f rm true (v.scale (-x))
  (r.1, if r.2 = 0 then 0 else flNX)

/-- The codes of a block's active values, their flags and the scale byte. -/
def encodeBlock (fmt rm : Nat) (xs : List Num) : List Nat × Nat × Nat :=
  let (byte, x) := blockScale fmt xs
  let nv := orAll (xs.map Num.sig)
  match x with
  | none => (xs.map (fun _ => 0), nv, byte)
  | some x =>
    let cs := xs.map (blockCode fmt rm x)
    (cs.map (·.1), nv ||| orAll (cs.map (·.2)), byte)

/-! ### Sums of products (R111 to R113) -/

/-- A dyadic number m × 2^e plus another. -/
def dyAdd (a b : Int × Int) : Int × Int :=
  let e := min a.2 b.2
  (a.1 * 2 ^ (a.2 - e).toNat + b.1 * 2 ^ (b.2 - e).toNat, e)

/-- What a sum of products comes to so far: NaN, infinities of both signs, flags, and the exact finite sum. -/
structure Dot where
  nan : Bool
  pos : Bool
  neg : Bool
  fl  : Nat
  sum : Int × Int
  deriving DecidableEq, Repr

def Dot.zero : Dot := { nan := false, pos := false, neg := false, fl := 0, sum := (0, 0) }

/-- Add a product of two operands (R113). -/
def Dot.step (d : Dot) (a b : Num) : Dot :=
  let p := mulNum a b
  match p.1 with
  | .nan _ => { d with nan := true, fl := d.fl ||| p.2 }
  | .inf n => if n then { d with neg := true } else { d with pos := true }
  | .fin n m e => { d with sum := if m = 0 then d.sum else if d.sum.1 = 0 then (signedInt n m, e) else dyAdd d.sum (signedInt n m, e) }

/-- The sum as a value. Infinities of both signs among the products set NV, also beside a NaN (R113). A zero sum
of products is +0. -/
def Dot.value (d : Dot) : Num × Nat :=
  if d.pos && d.neg then (.nan false, d.fl ||| flNV)
  else if d.nan then (.nan false, d.fl)
  else if d.pos then (.inf false, d.fl)
  else if d.neg then (.inf true, d.fl)
  else (.ofDyadic d.sum.1 d.sum.2, d.fl)

/-- The sum of the products of two lists of operands. -/
def dot (as bs : List Num) : Num × Nat := ((as.zip bs).foldl (fun d p => d.step p.1 p.2) Dot.zero).value

end Sys2Proof.Machine
end

