-- ==== Sys2Proof/Machine/Approx.lean ====
section
/-! DEFINITION. The approximations of group VF (R396, R397). An exact value is enclosed between two dyadic
numbers; a result of FP16 and BF16 is its correct rounding, and one of FP32 and FP64 is a free value among the
codes that the error bound allows. -/

namespace Sys2Proof.Machine

/-- Two signed numbers of one scale: (lo, hi, e) encloses the exact value between lo × 2^e and hi × 2^e. -/
structure Encl where
  lo : Int
  hi : Int
  e  : Int
  deriving DecidableEq, Repr

/-- Bits after the point in the fixed-point computations. -/
def fxBits : Nat := 320

/-! ### 1/x and 1/√x -/

/-- 1/m × 2^-e, to fxBits bits. -/
def rcpEncl (m : Nat) (e : Int) : Encl :=
  let sh := fxBits + Nat.log2 m
  let q := 2 ^ sh / m
  { lo := q, hi := q + 1, e := -(sh : Int) - e }

/-- 1/√(m × 2^e). -/
def rsqEncl (m : Nat) (e : Int) : Encl :=
  let odd := e % 2 ≠ 0
  let m1 := if odd then 2 * m else m
  let e1 := if odd then e - 1 else e
  let sh := 2 * fxBits + 2 * (Nat.log2 m1 / 2 + 1)
  let r := isqrt (2 ^ sh / m1)
  { lo := r, hi := r + 2, e := -((sh / 2 : Nat) : Int) - e1 / 2 }

/-! ### 2^x -/

/-- 2^f for f = n / 2^bits with 0 ≤ f < 1, in fixed point: the product of the roots 2^(1/2), 2^(1/4), … of the
bits of n. c encloses the current root, r the product. -/
def exp2Loop (n : Nat) : Nat → Nat × Nat → Nat × Nat → Nat × Nat
  | 0, _, r => r
  | i + 1, c, r =>
    let c1 := (isqrt (c.1 * 2 ^ fxBits), isqrt (c.2 * 2 ^ fxBits) + 1)
    exp2Loop n i c1
      (if n.testBit i then (r.1 * c1.1 / 2 ^ fxBits, r.2 * c1.2 / 2 ^ fxBits + 1) else r)

/-- 2^(±m × 2^e). -/
def exp2Encl (neg : Bool) (m : Nat) (e : Int) : Encl :=
  let bits : Nat := 256
  let x := signedInt neg m
  let n : Int := if 0 ≤ e + bits then x * 2 ^ (e + bits).toNat else x / 2 ^ (-(e + bits)).toNat
  let cut := decide (e + bits < 0)
  let ip := n / 2 ^ bits
  let fp := (n - ip * 2 ^ bits).toNat
  let (lo, hi) := exp2Loop fp bits (2 ^ (fxBits + 1), 2 ^ (fxBits + 1)) (2 ^ fxBits, 2 ^ fxBits)
  -- an operand cut below the last bit of the fixed point adds at most 2^-256 to it
  let hi' := if cut then hi + hi / 2 ^ 250 + 1 else hi
  { lo := lo, hi := hi', e := ip - (fxBits : Int) }

/-! ### log2 x -/

/-- Bits of log2 y for 1 ≤ y < 2 by squaring; y is enclosed in fixed point. acc collects the bits; the loop
stops where the enclosure no longer decides a bit. -/
def log2Loop : Nat → Nat × Nat → Nat → Nat → Nat × Nat
  | 0, _, acc, k => (acc, k)
  | n + 1, y, acc, k =>
    let one := 2 ^ (4 * fxBits)
    let a := y.1 * y.1 / one
    let b := y.2 * y.2 / one + 1
    if 2 * one ≤ a then log2Loop n (a / 2, b / 2 + 1) (2 * acc + 1) (k + 1)
    else if b < 2 * one then log2Loop n (a, b) (2 * acc) (k + 1)
    else (acc, k)

/-- log2(m × 2^e). -/
def log2Encl (m : Nat) (e : Int) : Encl :=
  let l := Nat.log2 m
  let y := m * 2 ^ (4 * fxBits) / 2 ^ l
  let (acc, k) := log2Loop 256 (y, y) 0 0
  { lo := (e + l) * 2 ^ k + acc, hi := (e + l) * 2 ^ k + acc + 1, e := -(k : Int) }

/-! ### sin x and cos x -/

/-- Terms of arctan(1/n) in fixed point with p bits: t is 2^p / n^(2k+1). -/
def atanLoop (n2 : Nat) : Nat → Nat → Nat → Int → Int
  | 0, _, _, s => s
  | fuel + 1, k, t, s =>
    atanLoop n2 fuel (k + 1) (t / n2) (if k % 2 = 0 then s + (t / (2 * k + 1) : Nat) else s - (t / (2 * k + 1) : Nat))

/-- π in fixed point with p bits, within 2^12 units (Machin's formula). -/
def piFx (p : Nat) : Int :=
  16 * atanLoop 25 (p / 4 + 2) 0 (2 ^ p / 5) 0 - 4 * atanLoop (239 * 239) (p / 4 + 2) 0 (2 ^ p / 239) 0

/-- Taylor's series of sin (odd) or cos at r, in fixed point. -/
def sinLoop (r2 : Int) : Nat → Nat → Int → Int → Int
  | 0, _, _, s => s
  | fuel + 1, k, t, s => sinLoop r2 fuel (k + 2) (-(t * r2 / 2 ^ fxBits) / ((k + 1) * (k + 2) : Nat)) (s + t)

/-- sin (cosine false) or cos of ±m × 2^e, m not 0. -/
def sinEncl (cosine neg : Bool) (m : Nat) (e : Int) : Encl :=
  let le := leadExp m e
  if le < -100 then
    (if cosine then { lo := 2 ^ 150 - 1, hi := 2 ^ 150, e := -150 }
     else
       let x := signedInt neg m
       let a := x * (2 ^ 180 - 1)
       let b := x * 2 ^ 180
       { lo := min a b, hi := max a b, e := e - 180 })
  else
    -- x, π/2 and the remainder r in fixed point; the quotient k by π/2 has at most le + 1 bits
    let p := fxBits + le.toNat + 16
    let x : Int := if 0 ≤ e + p then signedInt neg m * 2 ^ (e + p).toNat else signedInt neg m / 2 ^ (-(e + p)).toNat
    let h := piFx (p + 64) / 2
    let k := (x * 2 ^ 64 + h / 2) / h
    let r := (x * 2 ^ 64 - k * h) / 2 ^ (p + 64 - fxBits)
    let r2 := r * r / 2 ^ fxBits
    let sn := sinLoop r2 50 1 r 0
    let cs := sinLoop r2 50 0 (2 ^ fxBits) 0
    let q := (k + (if cosine then 1 else 0)) % 4
    let v := if q = 0 then sn else if q = 1 then cs else if q = 2 then -sn else -cs
    { lo := v - 2 ^ 24, hi := v + 2 ^ 24, e := -(fxBits : Int) }

/-! ### From an enclosure to a result -/

/-- A dyadic number rounded into a format in a mode, as a signed count of codes from 0. -/
def ordCode (f : FloatFmt) (rm : Nat) (m e : Int) : Int :=
  let neg := decide (m < 0)
  let r := if m = 0 then 0 else
    let le := leadExp m.natAbs e
    let q := max le f.emin - f.fb
    let k := (roundTo rm neg m.natAbs e q).1
    k + (q + f.fb - f.emin).toNat * 2 ^ f.fb
  signedInt neg r

/-- The value of a signed count of codes, as a dyadic number. -/
def ordValue (f : FloatFmt) (n : Int) : Int × Int :=
  match f.value n.natAbs with
  | .fin _ m e => (if n < 0 then -(m : Int) else m, e)
  | _ => (0, 0)

/-- m × 2^e lies beyond the largest finite value. -/
def beyondTop (f : FloatFmt) (m e : Int) : Bool :=
  let t := ordValue f f.top
  let x := min e t.2
  decide (t.1 * 2 ^ (t.2 - x).toNat < m.natAbs * 2 ^ (e - x).toNat)

/-- The exact value is tiny: it lies below the smallest normal value when it is rounded with an unbounded
exponent (R100). -/
def tinyEncl (f : FloatFmt) (v : Encl) : Bool :=
  let le := leadExp v.lo.natAbs v.e
  decide (v.lo = 0) || (decide (le < f.emin)
    && !(decide (le = f.emin - 1) && decide ((roundTo 0 false v.lo.natAbs v.e (le - f.fb)).1 = 2 ^ (f.fb + 1))))

/-- An inexact result of an operation for an operand, from the enclosure of the exact value: ulps is the
bound in ulps, absE an absolute bound 2^absE if larger. The pick among the codes within the bound is the
free value approxPick (R396). -/
def approxResult (op code : Nat) (f : FloatFmt) (ulps : Nat) (absE : Option Int) (x : Nat) (v : Encl) : Nat × Nat :=
  let neg := decide (v.hi ≤ 0)
  if beyondTop f (if neg then v.hi else v.lo) v.e then (f.inf neg, flOF + flNX)
  else
    let fl := flNX + (if tinyEncl f v then flUF else 0)
    if ulps = 0 then
      let r := ordCode f 0 v.lo v.e
      let n := if (f.top : Int) < r then (f.top : Int) else if r < -(f.top : Int) then -(f.top : Int) else r
      (f.signed neg n.natAbs, fl)
    else
      let a := ordValue f (ordCode f 2 v.lo v.e)
      let b := ordValue f (ordCode f 3 v.hi v.e)
      let ulp := dyAdd b (-a.1, a.2)
      let bound0 := (ulp.1 * ulps, ulp.2)
      let bound := match absE with
        | some e => (let d := dyAdd (1, e) (-bound0.1, bound0.2)
                     if 0 < d.1 then (1, e) else bound0)
        | none => bound0
      let lo := dyAdd (v.lo, v.e) (-bound.1, bound.2)
      let hi := dyAdd (v.hi, v.e) bound
      -- below the smallest subnormal only 0 and the smallest subnormal are left (R397)
      let under := decide (-1 ≤ ordCode f 2 v.lo v.e) && decide (ordCode f 3 v.hi v.e ≤ 1)
      let n0 := max (ordCode f 3 lo.1 lo.2) (if under then (if neg then -1 else 0) else -(f.top : Int))
      let n1 := min (ordCode f 2 hi.1 hi.2) (if under then (if neg then 0 else 1) else f.top)
      let pick := Config.approxPick op code x
      let n := n0 + ((pick / 2) % ((n1 - n0).toNat + 1) : Nat)
      (f.signed (if n = 0 then decide (pick % 2 = 1) else decide (n < 0)) n.natAbs, fl)

/-! ### The six functions (R397) -/

/-- m is a power of two. -/
def isPow2 (m : Nat) : Bool := decide (m = 2 ^ Nat.log2 m)

/-- An exact result. -/
def exactOp (f : FloatFmt) (v : Num) : Nat × Nat := roundNum f 0 false v

/-- Bounds in ulps by format: correctly rounded (0) in FP16 and BF16. -/
def ulpsOf (code d s : Nat) : Nat := match code with
  | 1 => d
  | 2 => s
  | _ => 0

/-- The absolute bound of VFSIN and VFCOS. -/
def absOf (code : Nat) : Option Int := match code with
  | 1 => some (-53)
  | 2 => some (-24)
  | _ => none

/-- VFRCP. -/
def fRcp (code : Nat) (f : FloatFmt) (x : Nat) : Nat × Nat :=
  match f.value x with
  | .nan s => (f.nan, if s then flNV else 0)
  | .inf n => (f.signed n 0, 0)
  | .fin n m e =>
    if m = 0 then (f.inf n, flDZ)
    else if isPow2 m && !beyondTop f 1 (-(leadExp m e)) then exactOp f (.fin n 1 (-(leadExp m e)))
    else
      let v := if isPow2 m then { lo := 2, hi := 2, e := -(leadExp m e) - 1 } else rcpEncl m e
      approxResult 0 code f (ulpsOf code 1 1) none x (if n then { lo := -v.hi, hi := -v.lo, e := v.e } else v)

/-- VFRSQ. -/
def fRsq (code : Nat) (f : FloatFmt) (x : Nat) : Nat × Nat :=
  match f.value x with
  | .nan s => (f.nan, if s then flNV else 0)
  | .inf n => if n then (f.nan, flNV) else (f.signed false 0, 0)
  | .fin n m e =>
    if m = 0 then (f.inf n, flDZ)
    else if n then (f.nan, flNV)
    else if isPow2 m && decide (leadExp m e % 2 = 0) then exactOp f (.fin false 1 (-(leadExp m e) / 2))
    else approxResult 1 code f (ulpsOf code 1 1) none x (rsqEncl m e)

/-- A finite value is an integer. -/
def isInt (m : Nat) (e : Int) : Bool := decide (0 ≤ e) || decide (m % 2 ^ (-e).toNat = 0)

/-- VFEXP2. An operand of more than 2^20 in size gives what its sign says. -/
def fExp2 (code : Nat) (f : FloatFmt) (x : Nat) : Nat × Nat :=
  match f.value x with
  | .nan s => (f.nan, if s then flNV else 0)
  | .inf n => if n then (f.signed false 0, 0) else (f.inf false, 0)
  | .fin n m e =>
    if m = 0 then exactOp f (.fin false 1 0)
    else if 20 < leadExp m e then
      (if n then approxResult 2 code f (ulpsOf code 1 2) none x { lo := 0, hi := 1, e := -(2 ^ 20 : Int) }
       else (f.inf false, flOF + flNX))
    else
      let i : Int := signedInt n (m * 2 ^ e.toNat / 2 ^ (-e).toNat)
      if isInt m e && !beyondTop f 1 i && decide (f.emin - f.fb ≤ i) then exactOp f (.fin false 1 i)
      else if isInt m e then approxResult 2 code f (ulpsOf code 1 2) none x { lo := 2, hi := 2, e := i - 1 }
      else approxResult 2 code f (ulpsOf code 1 2) none x (exp2Encl n m e)

/-- VFLOG2. -/
def fLog2 (code : Nat) (f : FloatFmt) (x : Nat) : Nat × Nat :=
  match f.value x with
  | .nan s => (f.nan, if s then flNV else 0)
  | .inf n => if n then (f.nan, flNV) else (f.inf false, 0)
  | .fin n m e =>
    if m = 0 then (f.inf true, flDZ)
    else if n then (f.nan, flNV)
    else if isPow2 m then roundNum f 0 false (.ofInt (leadExp m e))
    else approxResult 3 code f (ulpsOf code 1 2) none x (log2Encl m e)

/-- VFSIN (cosine false) and VFCOS. -/
def fSinCos (cosine : Bool) (code : Nat) (f : FloatFmt) (x : Nat) : Nat × Nat :=
  match f.value x with
  | .nan s => (f.nan, if s then flNV else 0)
  | .inf _ => (f.nan, flNV)
  | .fin n m e =>
    if m = 0 then (if cosine then exactOp f (.fin false 1 0) else (f.signed n 0, 0))
    else approxResult (if cosine then 5 else 4) code f (ulpsOf code 1 2) (absOf code) x (sinEncl cosine n m e)

end Sys2Proof.Machine
end

