-- ==== Sys2Proof/Machine/Exact.lean ====
section
/-! DEFINITION. Exact arithmetic on rational numbers, rounded once (R16), for the graphics operations of
R214, R222, R225 and R229. -/

namespace Sys2Proof.Machine

/-- 2^e. -/
def pow2 (e : Int) : Rat := if 0 ≤ e then ((2 ^ e.toNat : Nat) : Rat) else 1 / ((2 ^ (-e).toNat : Nat) : Rat)

/-- A finite value as a rational number; 0 for NaN and infinity. -/
def Num.rat : Num → Rat
  | .fin n m e => ((signedInt n m : Int) : Rat) * pow2 e
  | _ => 0

/-- A rational number, to more bits than any format holds; a real 0 is +0. -/
def ratNum (q : Rat) : Num :=
  let n := q.num.natAbs
  let k := 80 + Nat.log2 q.den
  withSticky (decide (q < 0)) (n * 2 ^ k / q.den) (-(k : Int)) (decide (n * 2 ^ k % q.den ≠ 0))

/-- An exact real rounded once to FP32. -/
def ratF32 (rm : Nat) (q : Rat) : Nat := if q = 0 then 0 else (roundNum fmtF32 rm false (ratNum q)).1

/-- Round(real, RNE) to FP16. -/
def ratF16 (q : Rat) : Nat := if q = 0 then 0 else (roundNum fmtF16 0 false (ratNum q)).1

/-- The value of an FP32 code, where it is finite. -/
def f32Rat (code : Nat) : Rat := (fmtF32.value code).rat
def f32Nan (code : Nat) : Bool := (fmtF32.value code).isNan
def f32Fin (code : Nat) : Bool := (fmtF32.value code).isFin
/-- +infinity in FP32. -/
def f32Inf : Nat := 0x7F800000
/-- 1 in FP32. -/
def f32One : Nat := 0x3F800000

/-- A real number or an infinity. -/
inductive Ext where
  | ninf | real (q : Rat) | pinf
  deriving DecidableEq, Repr

/-- a ≤ b. -/
def Ext.le : Ext → Ext → Bool
  | .ninf, _ => true
  | _, .pinf => true
  | .real a, .real b => decide (a ≤ b)
  | _, _ => false
def Ext.max (a b : Ext) : Ext := if a.le b then b else a
def Ext.min (a b : Ext) : Ext := if a.le b then a else b

/-- An FP32 code that is no NaN. -/
def f32Ext (code : Nat) : Ext := match fmtF32.value code with
  | .inf n => if n then .ninf else .pinf
  | v => .real v.rat

/-- Rounded to FP32 in a mode. -/
def Ext.code (rm : Nat) : Ext → Nat
  | .ninf => 0xFF800000
  | .pinf => f32Inf
  | .real q => ratF32 rm q

end Sys2Proof.Machine
end

