-- ==== Sys2Proof/Machine/Ray.lean ====
section
/-! DEFINITION. The tie rule (R214), the box test (R219, R225), the triangle test (R222), and the single tests
in lanes, VBOX and VTRI (R225, R386, R412). -/

namespace Sys2Proof.Machine

/-! ### The tie rule (R214) -/

/-- A point of the plane; x runs to the right and y downward. -/
structure Pt where
  x : Rat
  y : Rat
  deriving DecidableEq, Repr

def cross (a b : Pt) : Rat := a.x * b.y - a.y * b.x
def Pt.sub (a b : Pt) : Pt := { x := a.x - b.x, y := a.y - b.y }

/-- The edge from a to b is a tie edge of a triangle with sign s. -/
def tieEdge (s : Rat) (a b : Pt) : Bool :=
  decide (0 < s * (a.y - b.y)) || (decide (a.y = b.y) && decide (0 < s * (b.x - a.x)))

/-- A point with edge value f lies inside the edge. -/
def insideEdge (s f : Rat) (a b : Pt) : Bool := decide (0 < f) || (decide (f = 0) && tieEdge s a b)

/-- The sign of a number. -/
def signRat (q : Rat) : Rat := if q < 0 then -1 else if q = 0 then 0 else 1

/-- F(p) of an edge. -/
def edgeValue (s : Rat) (a b p : Pt) : Rat := s * cross (b.sub a) (p.sub a)

/-- p lies inside the triangle. -/
def insideTri (a b c p : Pt) : Bool :=
  let s := signRat (cross (b.sub a) (c.sub a))
  decide (s ≠ 0) && insideEdge s (edgeValue s a b p) a b && insideEdge s (edgeValue s b c p) b c
    && insideEdge s (edgeValue s c a p) c a

/-! ### Rays -/

/-- A ray's origin, direction and interval, as FP32 codes. -/
structure RayRec where
  org  : List Nat
  dir  : List Nat
  tmin : Nat
  tmax : Nat
  deriving DecidableEq, Repr

/-- Component i of a list of codes. -/
def nth (l : List Nat) (i : Nat) : Nat := (l.drop i).headD 0

def RayRec.hasNan (r : RayRec) : Bool := (r.org ++ r.dir).any f32Nan || f32Nan r.tmin || f32Nan r.tmax
/-- The origin and the direction are finite. -/
def RayRec.finite (r : RayRec) : Bool := (r.org ++ r.dir).all f32Fin

/-! ### Boxes (R219, R225) -/

/-- The interval of t for which one coordinate lies in the closed slab; none where it never does. -/
def slab (o d : Rat) (lo hi : Ext) : Option (Ext × Ext) :=
  if d = 0 then (if lo.le (.real o) && (Ext.real o).le hi then some (.ninf, .pinf) else none)
  else
    let at' := fun (e : Ext) => match e with
      | .real q => Ext.real ((q - o) / d)
      | .ninf => if 0 < d then .ninf else .pinf
      | .pinf => if 0 < d then .pinf else .ninf
    if lo = .pinf ∨ hi = .ninf then none
    else some (if 0 < d then (at' lo, at' hi) else (at' hi, at' lo))

/-- The entry t of the segment from tmin to tmax into a closed box, exactly, as far as some of the axes bound it; none
for a miss. -/
def boxEntry (axes : List Nat) (org dir : List Rat) (tmin tmax : Ext) (lo hi : List Ext) : Option Ext :=
  let ts := axes.map (fun a => slab ((org.drop a).headD 0) ((dir.drop a).headD 0) ((lo.drop a).headD .pinf) ((hi.drop a).headD .ninf))
  let r := ts.foldl (fun acc t => match acc, t with
    | some (a, b), some (c, d) => some (a.max c, b.min d)
    | _, _ => none) (some (tmin, tmax))
  match r with
  | none => none
  | some (a, b) => if a.le b && decide (a ≠ .pinf) && decide (b ≠ .ninf) then some a else none

/-- An infinite origin or direction keeps the segment's coordinate on an axis out of the closed slab for every t: that
coordinate is the infinite origin, or, where the segment does not hold t = 0, where an infinite direction leads. -/
def apart (r : RayRec) (a : Nat) (lo hi : Ext) : Bool :=
  let out := fun (e : Ext) => (decide (e = .pinf) && decide (hi ≠ .pinf)) || (decide (e = .ninf) && decide (lo ≠ .ninf))
  let ahead := !(f32Ext r.tmin).le (.real 0)
  match f32Ext (nth r.org a), f32Ext (nth r.dir a) with
  | .real _, .real _ => false
  | o, .real _ => out o
  | o, d =>
    let goal := if ahead then d else if d = .pinf then .ninf else .pinf
    (ahead || !(Ext.real 0).le (f32Ext r.tmax)) && out goal && (decide (o = goal) || !(decide (o = .pinf) || decide (o = .ninf)))

/-- VBOX's result for one ray and one box: a miss on one axis is one. none where the spec states no entry, for an infinite
origin or direction on an axis that settles no miss (DESIGN CHOICE log 33). -/
def vboxResult (r : RayRec) (box : List Nat) : Option Nat :=
  if r.hasNan || box.any f32Nan then some f32Inf
  else
    let axes := (upTo 3).filter (fun a => f32Fin (nth r.org a) && f32Fin (nth r.dir a))
    if (upTo 3).any (fun a => apart r a (f32Ext (nth box a)) (f32Ext (nth box (3 + a)))) then some f32Inf
    else match boxEntry axes (r.org.map f32Rat) (r.dir.map f32Rat) (f32Ext r.tmin) (f32Ext r.tmax)
      ((box.take 3).map f32Ext) ((box.drop 3).map f32Ext) with
    | some e => if r.finite then some (e.code 2) else none
    | none => some f32Inf

/-! ### Triangles (R222) -/

/-- What a triangle test comes to. -/
inductive TriHit where
  | miss
  | hit (t u v : Nat) (front : Bool)
  | inside (u v : Option Nat) (front : Bool)
                                -- inside the triangle, but the spec states no t, and no u or v where none
  deriving DecidableEq, Repr

/-- |x| of an FP32 code, for comparing magnitudes. -/
def magCode (c : Nat) : Nat := c % 2 ^ 31

/-- kz, kx and ky (R222 step 1). -/
def rayAxes (dir : List Nat) : Nat × Nat × Nat :=
  let m := fun i => magCode (nth dir i)
  let kz := if m 1 ≤ m 0 ∧ m 2 ≤ m 0 then 0 else if m 2 ≤ m 1 then 1 else 2
  let kx := (kz + 1) % 3
  let ky := (kx + 1) % 3
  if numLt (fmtF32.value (nth dir kz)) (.fin false 0 0) then (kz, ky, kx) else (kz, kx, ky)

/-- A vertex in ray space: x, y and z as codes (R222 step 3). -/
def project (r : RayRec) (v : List Nat) : List Nat :=
  let (kz, kx, ky) := rayAxes r.dir
  let dz := nth r.dir kz
  let sx := (fDiv fmtF32 0 (nth r.dir kx) dz).1
  let sy := (fDiv fmtF32 0 (nth r.dir ky) dz).1
  let sz := (fDiv fmtF32 0 f32One dz).1
  let a := fun i => (fSub fmtF32 0 (nth v i) (nth r.org i)).1
  [(fFused true false fmtF32 0 sx (a kz) (a kx)).1, (fFused true false fmtF32 0 sy (a kz) (a ky)).1,
   (fMul fmtF32 0 sz (a kz)).1]

/-- A point in ray space by its x and y codes. -/
def flatPt (p : List Nat) : Pt := { x := f32Rat (nth p 0), y := f32Rat (nth p 1) }
def flatFin (p : List Nat) : Bool := f32Fin (nth p 0) && f32Fin (nth p 1)

/-- An edge value in FP32, the difference of two rounded products, and its exact value. -/
def edgeCode (p q : List Nat) : Nat :=
  (fSub fmtF32 0 (fMul fmtF32 0 (nth p 0) (nth q 1)).1 (fMul fmtF32 0 (nth p 1) (nth q 0)).1).1
def edgeExact (p q : List Nat) : Rat := cross (flatPt p) (flatPt q)

/-- The value of an edge: its FP32 value, or the exact one where that is 0; none where it is not finite. -/
def edgeF32 (p q : List Nat) : Option Rat :=
  let e := edgeCode p q
  if !f32Fin e then none else if f32Rat e = 0 then some (edgeExact p q) else some (f32Rat e)

/-- The sign of an edge value: that of the exact value over the projected coordinates, or of an infinite FP32 value;
none where it is a NaN. -/
def edgeSign (p q : List Nat) : Option Rat :=
  if flatFin p && flatFin q then some (signRat (edgeExact p q))
  else match fmtF32.value (edgeCode p q) with
    | .inf n => some (if n then -1 else 1)
    | _ => none

/-- t lies in the ray's interval. -/
def inRange (r : RayRec) (t : Nat) : Bool :=
  let le := fun (a b : Nat) => (fCompare 3 fmtF32 a b).1
  le r.tmin t && le t r.tmax

/-- The infinity that the depths make t: some of them have overflowed, and each of those counts towards the same infinity
under edge values of sum d; none where they do not agree, or one counts with 0. -/
def depthInf (d : Rat) (terms : List (Rat × Nat)) : Option Nat :=
  let inf := terms.filter (fun p => !f32Fin p.2)
  let neg := fun (p : Rat × Nat) => xor (decide (p.1 / d < 0)) (decide (2 ^ 31 ≤ p.2))
  if inf.isEmpty || inf.any (fun p => f32Nan p.2 || decide (p.1 = 0)) then none
  else if inf.all neg then some 0xFF800000 else if inf.all (fun p => !neg p) then some f32Inf else none

/-- The triangle test, before culling. verts holds V0, V1 and V2. Edge signs decide it, also where a value overflows: edges
of both signs, or none, are a miss, and so is an edge value that is a NaN, which is neither above 0 nor 0 (R214). A depth
that overflows is an infinity (R100), and so is t. -/
def triTest (r : RayRec) (verts : List Nat) : TriHit :=
  if r.hasNan || verts.any f32Nan then .miss
  else
    let p := fun i => project r ((verts.drop (3 * (i % 3))).take 3)
    let signs := (upTo 3).map (fun i => edgeSign (p (i + 1)) (p (i + 2)))
    if signs.contains (some 1) && signs.contains (some (-1)) then .miss
    else if signs.contains none then .miss
    else
      let s : Rat := if signs.contains (some 1) then 1 else if signs.contains (some (-1)) then -1 else 0
      let edgeIn := fun (i : Nat) => insideEdge s (s * (((signs.drop i).headD none).getD 0)) (flatPt (p (i + 1))) (flatPt (p (i + 2)))
      if s = 0 ∨ !(upTo 3).all edgeIn then .miss
      else
        let front := decide (0 < s)
        match edgeF32 (p 1) (p 2), edgeF32 (p 2) (p 0), edgeF32 (p 0) (p 1) with
        | some e0, some e1, some e2 =>
          let d := e0 + e1 + e2
          let u := ratF32 0 (e1 / d)
          let v := ratF32 0 (e2 / d)
          if (upTo 3).any (fun i => !f32Fin (nth (p i) 2)) then
            match depthInf d [(e0, nth (p 0) 2), (e1, nth (p 1) 2), (e2, nth (p 2) 2)] with
            | some t => if inRange r t then .hit t u v front else .miss
            | none => .inside (some u) (some v) front
          else
            let z := fun i => f32Rat (nth (p i) 2)
            let t := ratF32 0 ((e0 * z 0 + e1 * z 1 + e2 * z 2) / d)
            if inRange r t then .hit t u v front else .miss
        | _, _, _ => .inside none none front

/-! ### VBOX and VTRI -/

/-- Registers r to r + n − 1 of one element at SEW 32. -/
def State.column (s : State) (r n i : Nat) : List Nat := (upTo n).map (fun j => s.elem (r + j) 32 i)

/-- The ray of element i in the tile at s1 (R225). -/
def rayAt (s : State) (r i : Nat) : RayRec :=
  let c := s.column r 8 i
  { org := c.take 3, dir := (c.drop 3).take 3, tmin := nth c 6, tmax := nth c 7 }

/-- The type that the graphics element forms need (R225, R230). -/
def rayType (s : State) : ElTy := vtyType s.me.vty
def rayTypeOk (s : State) : Bool := decide ((rayType s).fmt = 2) && decide ((rayType s).sew = 32) && decide (s.gf = 1)

/-- The execution checks of a graphics element form. -/
def rayCheck (s : State) (limits : Bool) : Except Halt Unit := do
  vecCheck s (rayType s) true [] none
  illegalIf (!rayTypeOk s)
  illegalIf (!limits)

/-- Write n result registers of the active elements, and apply the mask and tail rules to each. -/
def writeColumns (s : State) (d n : Nat) (m : MaskSel) (res : List (Nat × List Nat)) : State :=
  (upTo n).foldl (fun s j => (s.setElems (d + j) 32 (res.map (fun r => (r.1, nth r.2 j)))).agnostic (d + j) 32 (s.unselected m)) s

/-- Draw a free value for an unstated result, 32 bits for each element and register. -/
def State.drawIf (s : State) (need : Bool) : Nat × State := if need then s.draw else (0, s)
/-- The FP32 result that a free value stands for, for register j of element i: a NaN is the canonical one (R99). -/
def freeWord (f i j : Nat) : Nat := (fPass fmtF32 (f / 2 ^ (128 * i + 32 * j) % 2 ^ 32)).1

/-- The test leaves something unstated. -/
def TriHit.open : TriHit → Bool
  | .inside _ _ _ => true
  | _ => false

/-- A test's outcome once free values stand for what is unstated: t, u, v and whether the front is hit, or none for a
miss. free gives FP32 values by number. A hit counts only within the ray's interval (R222). -/
def TriHit.given (r : RayRec) (free : Nat → Nat) : TriHit → Option (Nat × Nat × Nat × Bool)
  | .miss => none
  | .hit t u v front => some (t, u, v, front)
  | .inside u v front => if inRange r (free 0) then some (free 0, u.getD (free 1), v.getD (free 2), front) else none

/-- VBOX (R386). -/
def execVbox (d s1 s2 : Reg) (m : MaskSel) (s : State) : Out :=
  finish s (do
    rayCheck s (decide (s1.toNat ≤ 24) && decide (s2.toNat ≤ 26))
    let res := (s.active m).map (fun i => (i, vboxResult (rayAt s s1.toNat i) (s.column s2.toNat 6 i)))
    let (f, r) := s.drawIf (res.any (fun p => p.2.isNone))
    .ok ((writeColumns r d.toNat 1 m (res.map (fun p => (p.1, [p.2.getD (freeWord f p.1 0)])))).clearFmask.retire 8))

/-- VTRI (R412). -/
def execVtri (d s1 s2 : Reg) (m : MaskSel) (s : State) : Out :=
  finish s (do
    rayCheck s (decide (s1.toNat ≤ 24) && decide (s2.toNat ≤ 23) && decide (d.toNat ≤ 29))
    let res := (s.active m).map (fun i => (i, triTest (rayAt s s1.toNat i) (s.column s2.toNat 9 i)))
    let (f, r) := s.drawIf (res.any (fun p => p.2.open))
    let vals := res.map (fun p => (p.1, match TriHit.given (rayAt s s1.toNat p.1) (freeWord f p.1) p.2 with
      | some (t, u, v, _) => [t, u, v]
      | none => [f32Inf, 0, 0]))
    .ok ((writeColumns r d.toNat 3 m vals).clearFmask.retire 8))

end Sys2Proof.Machine
end

