-- ==== Sys2Proof/Machine/Tile.lean ====
section
/-! DEFINITION. Ordered blending: TCOMMIT (R234, R362), the commit unit of an L2 slice (R235 to R237) and its
stall fault (R238). -/

namespace Sys2Proof.Machine

/-! ### Tile headers (R232) -/

def tlNext (h : BitVec 512) : Nat := bitsOf h 75 64
def tlRetire (h : BitVec 512) : Nat := bitsOf h 63 32
def tlOp (h : BitVec 512) : Nat := bitsOf h 82 80
/-- RGBA16F. -/
def tlHalf (h : BitVec 512) : Bool := bitOf h 83

/-- n bytes of the tile with its header at a place, as the commit unit sees them: its own writes that no retire event has
published yet, over memory (R152). -/
def tileBytes (s : State) (hdr l n : Nat) : Nat := ofBytes (seen s (Table.get [] s.blends hdr) l n)

/-- The header at a place, as the commit unit sees it. -/
def tileHeader (s : State) (l : Nat) : BitVec 512 := BitVec.ofNat 512 (tileBytes s l l 64)

/-- Bytes of a pixel. -/
def pixelBytes (h : BitVec 512) : Nat := if tlHalf h then 8 else 4

/-! ### Blending (R236) -/

/-- A channel of RGBA8: s over d, with source alpha a. -/
def blend8 (op s a d : Nat) : Nat := match op with
  | 0 => min (s + (d * (255 - a) + 127) / 255) 255
  | 1 => min (s + d) 255
  | 2 => min s d
  | 3 => max s d
  | _ => s

/-- A channel of RGBA16F, rounded once. -/
def blend16 (op s a d : Nat) : Nat :=
  let v := fmtF16.value
  match op with
  | 0 => (roundNum fmtF16 0 false (addNum 0 (v s) (mulNum (v d) (addNum 0 numF16One (v a).neg).1).1).1).1
  | 1 => (fAdd fmtF16 0 s d).1
  | 2 => (fPass fmtF16 (fMinMax false fmtF16 s d).1).1
  | 3 => (fPass fmtF16 (fMinMax true fmtF16 s d).1).1
  | _ => (fPass fmtF16 s).1
where
  numF16One : Num := .fin false 1 0

/-- A pixel: the source colour c blended into d. -/
def blendPixel (h : BitVec 512) (c d : Nat) : Nat :=
  let w := 2 * pixelBytes h
  let ch := fun (v i : Nat) => v / 2 ^ (w * i) % 2 ^ w
  let f := fun i => if tlHalf h then blend16 (tlOp h) (ch c i) (ch c 3) (ch d i) else blend8 (tlOp h) (ch c i) (ch c 3) (ch d i)
  f 0 + 2 ^ w * f 1 + 2 ^ (2 * w) * f 2 + 2 ^ (3 * w) * f 3

/-- The lines of a tile. -/
def tileLines (o : TileOffer) (h : BitVec 512) : List Nat := linesOf o.hdr (64 + 64 * pixelBytes h)

/-- The commit unit may write the 4 KiB of a tile that hold a place: in a procedural block only while the task still
generates it (R245). What of a blend it may not write it leaves unwritten (DESIGN CHOICE log 19). -/
def tilePage (s : State) (o : TileOffer) (page : Nat) : Bool :=
  let t := s.taskAt o.task
  let a := o.addr + BitVec.ofNat 64 (page * 4096) - BitVec.ofNat 64 o.hdr
  match translate s t.core t.colour a with
  | .ok (e, _) => !bitOf e.leaf 8 || (match blockAt s a with | some b => isGenOf s o.task b | none => false)
  | .error _ => true

/-- The pixels that a commit writes: each covered one, blended into the newest value. -/
def blendPixels (s : State) (o : TileOffer) : Table Byte :=
  let h := tileHeader s o.hdr
  let n := pixelBytes h
  ((upTo 64).filter (fun i => o.mask.getLsbD i)).flatMap (fun i =>
    let l := o.hdr + 64 + n * i
    tableAt l (bytesOf n (blendPixel h ((o.colours.drop i).headD 0) (tileBytes s o.hdr l n))))

/-- Blend a commit into its tile and advance NEXT (R235). A blend of part of a poisoned sector is refused there and counted
(R146). The writes stay the commit unit's own until the commit with LAST, whose retire event publishes them with the new
RETIRE (R152, R237). -/
def blendCommit (s : State) (o : TileOffer) : State :=
  let h := tileHeader s o.hdr
  let may := fun (t : Table Byte) =>
    let pages := ((t.map (fun b => b.1 / 4096)).eraseDups).filter (tilePage s o)
    t.filter (fun b => pages.contains (b.1 / 4096))
  let px := may (blendPixels s o)
  let next := may (tableAt (o.hdr + 8) (bytesOf 2 ((tlNext h + 1) % 4096)))
  let s1 := (sectorsOf px).foldl (fun s x => verifyAt s (x * 32)) s
  let s2 := countRefusals (toL2 s1 (sectorsOf px |>.map (· / 4)) false) px
  let mine := overlay (overlay (Table.get [] s.blends o.hdr) (admitted s1 px)) next
  if o.last then
    let all := overlay mine (may (tableAt (o.hdr + 4) (bytesOf 4 ((tlRetire h + 1) % 2 ^ 32))))
    land (countRefusals { s2 with blends := Table.del s2.blends o.hdr } all) (some (s.taskAt o.task).colour) none 0 all
  else { s2 with blends := Table.set s2.blends o.hdr mine }

/-! ### The commit unit (R235) -/

/-- The commits of a tile that a slice holds, oldest first. -/
def heldOf (d : Slice) (hdr : Nat) : List Held := d.held.filter (fun h => h.offer.hdr = hdr)

/-- A tile that the commit unit refuses. -/
def badTile (h : BitVec 512) (o : TileOffer) : Bool :=
  decide (bitsOf h 511 84 ≠ 0) || decide (bitsOf h 79 76 ≠ 0) || decide (4 < tlOp h)
    || decide (o.sew ≠ (if tlHalf h then 64 else 32)) || decide (o.room < 64 + 64 * pixelBytes h)

/-- What the commit unit does with an offer; asks: it asks for a line of the tile that another device or the host holds
(R162, R284). -/
inductive Verdict where
  | refused (detail : Nat) | waits | asks (line : Nat) | held | blended
  deriving DecidableEq, Repr

def verdict (s : State) (o : TileOffer) : Verdict :=
  let h := tileHeader s o.hdr
  let sl := s.slice (sliceOf o.hdr)
  let d := (o.ticket + 4096 - tlNext h) % 4096
  if badTile h o then .refused 1
  else if (heldOf sl o.hdr).any (fun x => decide (x.offer.ticket = o.ticket)) then .refused 2
  else if 2048 ≤ d then .refused 3
  else if 64 ≤ d then .waits
  else if d = 0 then (match (tileLines o h).find? (lineHeld s) with
    | some line => if asked s line then .waits else .asks line
    | none => .blended)
  else if sl.held.length < 1024 then .held
  else .waits

/-- The colour is switched in on a die: some core of it holds the colour. -/
def colourIn (s : State) (die colour : Nat) : Bool :=
  s.cores.any (fun c => decide (dieOf c.1 = die) && decide (c.2.colour = some colour))

/-- The stall clock of a tile starts again, or ends where nothing is held (R238). -/
def restartStall (s : State) (hdr : Nat) : State :=
  let n := sliceOf hdr
  let sl := s.slice n
  let raised := sl.raised.filter (fun x => x ≠ hdr)
  match heldOf sl hdr with
  | [] => s.setSlice n { sl with stalled := Table.del sl.stalled hdr, raised := raised }
  | h :: _ =>
    let inNow := colourIn s h.die h.colour
    s.setSlice n { sl with stalled := Table.set sl.stalled hdr { since := if inNow then s.time else 0, frozen := !inNow },
                           raised := raised }

/-- Blend held commits while the one with ticket NEXT is held. -/
def blendHeld (hdr : Nat) : Nat → State → State
  | 0, s => s
  | fuel + 1, s =>
    let sl := s.slice (sliceOf hdr)
    match (heldOf sl hdr).find? (fun x => x.offer.ticket = tlNext (tileHeader s hdr)) with
    | none => s
    | some x => blendHeld hdr fuel (blendCommit (s.setSlice (sliceOf hdr) { sl with held := sl.held.filter (fun y => y ≠ x) }) x.offer)

/-- Accept a commit that is blended at once, then all that follow it. -/
def acceptBlend (s : State) (o : TileOffer) : State :=
  let s1 := blendCommit s o
  restartStall (blendHeld o.hdr ((s1.slice (sliceOf o.hdr)).held.length + 1) s1) o.hdr

/-- Accept a commit that is held. -/
def acceptHold (s : State) (o : TileOffer) : State :=
  let n := sliceOf o.hdr
  let sl := s.slice n
  let t := s.taskAt o.task
  let first := (heldOf sl o.hdr).isEmpty
  let s1 := s.setSlice n { sl with held := sl.held ++ [{ offer := o, since := s.time, colour := t.colour, die := t.die, recNo := t.recNo }] }
  if first then restartStall s1 o.hdr else s1

/-- The context whose offer this is. -/
def offerer (s : State) (o : TileOffer) : Option CtxId :=
  (s.ctxs.map (fun e => CtxId.ofKey e.1)).find? (fun c => decide ((s.ctx c).wait = some (.tile o none)))

/-- A refusal reaches the context, which traps when it issues. -/
def refuseOffer (s : State) (c : CtxId) (o : TileOffer) (detail next : Nat) : State :=
  s.setCtx c { s.ctx c with wait := some (.tile o (some (detail, next))) }

/-- An acceptance retires the TCOMMIT (R363), and its task runs again. -/
def retireOffer (s : State) (c : CtxId) : State :=
  let k := s.ctx c
  let s1 := s.setCtx c { k with pc := k.pc + 8, wait := none }
  match (s1.partAt c.core c.part).task with
  | some id =>
    let t := s1.taskAt id
    countEvent (if t.state = .waiting then s1.setTask id { t with state := .running } else s1) id 2 1
  | none => s1

/-- TILE_OFFER (R235). An offer that nobody makes any more has been abandoned. -/
def execTileOffer (o : TileOffer) (s : State) : Out :=
  match offerer s o with
  | none => .next s
  | some c =>
    let next := tlNext (tileHeader s o.hdr)
    match verdict s o with
    | .waits => .next s
    | .asks line => .next (askHolders s line)
    | .refused d => .next (refuseOffer s c o d next)
    | .held => .next (retireOffer (acceptHold s o) c)
    | .blended => .next (retireOffer (acceptBlend s o) c)

/-- Offers that the commit units can answer now. -/
def openOffers (s : State) : List TileOffer :=
  (s.ctxs.filterMap (fun e => match e.2.wait with
    | some (.tile o none) => some o
    | _ => none)).filter (fun o => decide (verdict s o ≠ .waits))

/-! ### The stall fault (R238) -/

/-- Tiles that have been stalled for 1 ms without a report. -/
def stalledTiles (s : State) : List Nat :=
  s.slices.flatMap (fun e => (e.2.stalled.filter (fun t =>
    !t.2.frozen && decide (t.2.since + 1000000 ≤ s.time) && !e.2.raised.contains t.1)).map (·.1))

/-- The report of a stalled tile, where it can be posted. -/
def stallReport (s : State) (hdr : Nat) : Try :=
  let n := sliceOf hdr
  match heldOf (s.slice n) hdr with
  | [] => .no
  | h :: _ =>
    let next := tlNext (tileHeader s hdr)
    let t : Trap := { trapAt .tilefault 0 0 h.offer.addr with aux := BitVec.ofNat 256 (h.offer.addr.toNat + 2 ^ 64 * next) }
    let r := trapRecord t 0 h.colour h.offer.task 0 false false false false
    match postTo s h.die h.recNo h.colour r with
    | .done s1 => .done (s1.setSlice n { s1.slice n with raised := (s1.slice n).raised ++ [hdr] })
    | w => w

/-- TILE_STALL_FAULT (R238): it is reported once, when it can be posted. -/
def execTileStallFault (hdr : Nat) (s : State) : Out :=
  if (stalledTiles s).contains hdr then .next (((stallReport s hdr).next s).getD s) else .next s

/-- Stall clocks run only while the colour of the oldest held commit is switched in. -/
def refreshStalls (s : State) : State :=
  { s with slices := s.slices.map (fun e => (e.1, { e.2 with stalled := e.2.stalled.map (fun t =>
      match heldOf e.2 t.1 with
      | [] => t
      | h :: _ =>
        let inNow := colourIn s h.die h.colour
        if inNow = t.2.frozen then (t.1, { since := s.time - t.2.since, frozen := !inNow }) else t) })) }

/-! ### TCOMMIT (R234, R362) -/

/-- The operand's header address, ticket and LAST. -/
def commitAddr (w : Word) : Word := signWord (bitsOf w 50 0 * 64) 57
def commitTicket (w : Word) : Nat := bitsOf w 63 52
def commitLast (w : Word) : Bool := bitOf w 51

/-- The header's checks as a 64-byte store: the place, and the bytes from it to the end of its page. The commit
unit writes parts of its sectors, so a poisoned one refuses it; no slice is home to a window address, which
traps with CONTAIN (DESIGN CHOICE log 19). -/
def commitPlace (s : State) (h : Word) : Except Halt (Target × Nat) := do
  let a := accGv h 64 .store false
  if inWindow a.ea then
    trapIf (windowPlace s.turn.core a.ea 64).isNone (trapAt .bounds 0 0 a.ea)
    .error (a.fault .contain 2)
  else
    let t ← checkAcc s s.who a false
    trapIf ((sectorsAt t.loc 64).any (badFor s s.me.pend)) (trapAt .poison 1 0 a.ea)
    let room := match translate s s.turn.core s.task.colour a.ea with
      | .ok (e, _) => e.size - (a.ea.toNat % 2 ^ 57 - e.page)
      | .error _ => 0
    .ok (t, room)

/-- Refused (R362 step 5). -/
def tileFault (o : TileOffer) (detail next : Nat) : Trap :=
  { trapAt .tilefault detail 0 o.addr with aux := BitVec.ofNat 256 (o.addr.toNat + 2 ^ 64 * next) }

/-- TCOMMIT (R362). -/
def execTcommit (s1 s2 : Reg) (m : MaskSel) (s : State) : Out :=
  match s.me.wait with
  | some (.tile o (some (d, next))) => finish s (.error (.trap (tileFault o d next)))
  | some (.tile _ none) => .next s
  | _ =>
    finish s (do
      let ty := rayType s
      vecCheck s ty true [s1] none
      illegalIf (decide (s.vl ≠ 64) || decide (s.gf ≠ 1) || (decide (ty.sew ≠ 32) && decide (ty.sew ≠ 64)))
      trapIf s.task.atomic (trapOf .atomirrev 0)
      let w := s.x s2
      let (t, room) ← commitPlace s (commitAddr w)
      s.readyToRelease
      let sel := s.maskSel m
      let o : TileOffer :=
        { hdr := t.loc, addr := gva (commitAddr w), ticket := commitTicket w, last := commitLast w, sew := ty.sew,
          mask := sel.setWidth 64, colours := (upTo 64).map (s.elem s1.toNat ty.sew), task := s.taskId, room := room }
      .ok (waitOn (s.keepTlb s.turn.core t.tlb).releaseMe (.tile o none)))

end Sys2Proof.Machine
end

