-- ==== Sys2Proof/Machine/Sched.lean ====
section
/-! DEFINITION. Dispatch: which record may fill a partition (R173), how a task starts (R29) or returns (R267), the
choice within segments (R175), deques (R179), steals (R180), teams (R181), generators (R251), and back-off. -/

namespace Sys2Proof.Machine

/-! ### What a core may take -/

/-- A parked task that returns to the core on which it parked (R267). -/
def coreBound (t : Task) : Bool := t.spad || decide (t.gang ≠ 0) || t.inPlace.1 || t.inPlace.2

/-- The core holds no task and no parked task returns to it: it may take another split (R21) or colour. -/
def coreEmpty (s : State) (core : Nat) : Bool :=
  (upTo 8).all (fun p => (s.partAt core p).task.isNone)
    && !s.tasks.any (fun e => decide (e.2.state = .parked) && decide (e.2.core = core) && coreBound e.2
      && decide ((s.core core).colour = some e.2.colour))

/-- A bell has saved state of the colour on the core, which is still to be restored (R272). -/
def savedHere (s : State) (core colour : Nat) : Bool :=
  s.saved.any (fun v => decide (v.colour = colour) && (Table.find v.cores core).isSome)

/-- Records under which partition `part` of a core may be filled now (R173). -/
def openRecs (s : State) (core part : Nat) : List (Nat × BindRec) :=
  if s.mgmt.stopped || !s.mgmt.inService || belling s core then []
  else
    let c := s.core core
    let empty := coreEmpty s core
    (s.die (dieOf core)).bind.filter (fun r =>
      bOpen r.2 s.time && bCore r.2 (core % Config.coresPerDie)
        && (decide (bSplit r.2 = c.split) || empty) && decide (part < hartsOf (bSplit r.2))
        && (decide (c.colour = some (bColour r.2)) || empty) && !savedHere s core (bColour r.2))

/-- The record of highest PRIO, then of lowest index. -/
def bestRec : List (Nat × BindRec) → Option (Nat × BindRec)
  | [] => none
  | r :: rs => match bestRec rs with
    | none => some r
    | some b => if bPrio r.2 < bPrio b.2 then some b else some r

/-- A header of a colour matches a KIND 01 record (R173). -/
def recTakes (r : BindRec) (colour : Nat) (h : Header) : Bool :=
  decide (bKind r = 1) && decide (bColour r = colour) && (decide (bTarget r = 0) || decide (hEntry h % 2 ^ 57 = bTarget r))

/-! ### A core takes a colour (R304, R282) -/

/-- The core's L1D is emptied, and its scratchpad, barrier slots, tensor table and matrix state are cleared. -/
def clearCore (s : State) (core : Nat) : State :=
  let c := s.core core
  let lo := scratchLoc core 0
  let mine := fun (l : Nat) => decide (lo ≤ l) && decide (l < lo + 2 ^ 20)
  let s1 := s.setCore core { c with tid := [], latch := Latch.empty, mc := 0, sc := 0, ringSize := 0, ringPos := 0,
                                    ringNo := 0, gang := none, l1d := [] }
  { s1 with narrow := Table.del s1.narrow core,
            mem := s1.mem.filter (fun b => !mine b.1), poison := s1.poison.filter (fun x => !mine (x * 32)),
            badCheck := s1.badCheck.filter (fun x => !mine (x * 32)) }

/-- The core comes under record n of its die. -/
def takeCore (s : State) (core n : Nat) (r : BindRec) : State :=
  let c := s.core core
  if c.colour = some (bColour r) then
    (if coreEmpty s core then s.setCore core { c with split := bSplit r, pkey := bPkey r, die := dieOf core, recNo := n } else s)
  else
    let s1 := clearCore s core
    refreshStalls (s1.setCore core { s1.core core with split := bSplit r, colour := some (bColour r), pkey := bPkey r,
                                                       die := dieOf core, recNo := n })

/-! ### Task start (R29, R420) -/

def imColour (e : BitVec 256) : Nat := bitsOf e 255 240
def imCount (e : BitVec 256) : Nat := bitsOf e 239 231
def imV (e : BitVec 256) : Bool := bitOf e 192
def imPool (e : BitVec 256) : Nat := bitsOf e 191 128
def imLimit (e : BitVec 256) : Nat := bitsOf e 127 64
def imBase (e : BitVec 256) : Nat := bitsOf e 63 0

/-- The pool that a task takes at dispatch (R420). -/
def poolFor (s : State) (colour entry : Nat) : Word × Nat :=
  match s.sched.imageTab.find? (fun e => imV e.2 && decide (imColour e.2 = colour) && decide (imBase e.2 ≤ entry)
      && decide (entry < imLimit e.2)) with
  | some e => (BitVec.ofNat 64 (imPool e.2), imCount e.2)
  | none => (0, 0)

/-- The main context at task start. -/
def startCtx (h : Header) : Ctx :=
  { Ctx.empty with valid := true, pc := BitVec.ofNat 64 (hEntry h),
                   x := [(2, BitVec.ofNat 64 (hFtop h)), (10, BitVec.ofNat 64 (hArg h 0)), (11, BitVec.ofNat 64 (hArg h 1)),
                         (12, BitVec.ofNat 64 (hArg h 2))] }

/-- A generator's fill learns its TASKID (R251). -/
def noteGenerator (s : State) (gen : Option BlockId) (id : Nat) : State :=
  match gen with
  | none => s
  | some b =>
    let slot := match fillOf s b with | some f => f.slot | none => none
    { s with fill := { s.fill with
        fills := s.fill.fills.map (fun f => if f.blk = b then { f with gen := some id } else f),
        slots := s.fill.slots.map (fun x => if x.1 = b.range ∧ some x.2.1 = slot then (x.1, x.2.1, id) else x) } }

/-- A task starts on a free partition under record n: header, colour, gang, role, launch, origin and block come
from t. A task that was aborted keeps its TASKID, and the pool of its first dispatch: its life, for which R420 has it keep
that, goes on (DEDUCED log 75). -/
def startTask (s : State) (core part n : Nat) (r : BindRec) (t : Task) (old : Option Nat) : State :=
  let s1 := takeCore s core n r
  let id := old.getD s1.sched.nextTask
  let s2 := if old.isNone then { s1 with sched := { s1.sched with nextTask := id + 1 } } else s1
  let pool := match old with
    | some i => ((s.taskAt i).pool, (s.taskAt i).poolCnt)
    | none => poolFor s2 t.colour (hEntry t.header)
  let main : CtxId := { core := core, part := part, tail := false }
  let k : Task := { Task.empty with
    header := t.header, colour := t.colour, gang := t.gang, role := t.role, launch := t.launch, state := .dispatched,
    core := core, part := part, die := dieOf core, recNo := n, split := bSplit r, pkey := bPkey r, pool := pool.1,
    poolCnt := pool.2, gen := t.gen, origin := t.origin }
  let s3 := ((s2.setTask id k).setCtx main (startCtx t.header)).setCtx main.other Ctx.empty
  let p := s3.partAt core part
  let s4 := s3.setPartAt core part { p with task := some id, tfg := Tfg.zero, reserved := none }
  acquire (noteGenerator s4 t.gen id) core 3

/-- A parked task returns to a partition under record n (R267); none where its spill area cannot be read. -/
def returnTask (s : State) (core part n : Nat) (r : BindRec) (id : Nat) : Option State :=
  match restoreTask (takeCore s core n r) id core part with
  | none => none
  | some s1 => some (s1.setTask id { s1.taskAt id with die := dieOf core, recNo := n, pkey := bPkey r })

/-! ### Tasks that return without a queue entry -/

/-- The record under which a task of no queue entry, or one bound to a core, goes on. -/
def returnRec (s : State) (core part : Nat) (t : Task) : Option (Nat × BindRec) :=
  bestRec ((openRecs s core part).filter (fun r => decide (bSplit r.2 = t.split)
    && (recTakes r.2 t.colour t.header || (decide (t.gang ≠ 0) && decide (bKind r.2 = 2) && decide (bColour r.2 = t.colour)))))

/-- The task has a copy in a segment or in a deque. -/
def hasCopy (t : Task) : Bool := match t.origin with
  | .segment _ | .deque _ => true
  | _ => false

/-- A ready parked task that partition `part` takes before anything else: it returns to this core, or has no copy. -/
def returnsHere (s : State) (core part : Nat) (id : Nat) : Option State :=
  let t := s.taskAt id
  let held := (s.partAt core part).task
  if !becameReady (id, t) then none
  else if (coreBound t && decide (t.core ≠ core)) || (!coreBound t && hasCopy t) then none
  else if held.isSome && held ≠ some id then none
  else if held.isNone && !(s.partAt core part).fifo.isEmpty then none
  else if held.isNone && (t.inPlace.1 || t.inPlace.2) then none
  else match returnRec s core part t with
    | some (n, r) => returnTask s core part n r id
    | none => none

/-- An aborted task without a copy starts again from its header, on its own core where it is of a gang. -/
def restartsHere (s : State) (core part : Nat) (e : Nat × Task) : Option State :=
  let t := e.2
  if t.state ≠ .queued ∨ hasCopy t ∨ t.waitsOn ≠ [] ∨ t.retryAt ≠ none ∨ (t.gang ≠ 0 ∧ t.core ≠ core) then none
  else if (s.partAt core part).task.isSome then none
  else match returnRec s core part t with
    | some (n, r) => some (startTask s core part n r t (some e.1))
    | none => none

/-! ### Queue entries -/

/-- The record under which a partition takes a queue entry (R173). -/
def entryRec (s : State) (core part : Nat) (e : QEntry) : Option (Nat × BindRec) :=
  let split := match e.run, e.task with
    | true, some id => some (s.taskAt id).split
    | _, _ => none
  bestRec ((openRecs s core part).filter (fun r => recTakes r.2 e.colour e.header
    && (match split with | some x => decide (bSplit r.2 = x) | none => true)))

/-- The state in which the partition has taken the entry's task; none where it may not (R173, R176, R267). -/
def startEntry (s : State) (core part : Nat) (e : QEntry) (origin : Origin) : Option State :=
  match entryRec s core part e with
  | none => none
  | some (n, r) =>
    match e.run, e.task with
    | true, some id =>
      let t := s.taskAt id
      if becameReady (id, t) && !coreBound t then returnTask s core part n r id else none
    | true, none => none
    | false, old =>
      if !e.withheld.isEmpty || (match old with | some id => (s.taskAt id).retryAt.isSome | none => false) then none
      else some (startTask s core part n r { Task.empty with header := e.header, colour := e.colour, launch := e.launch,
                                                             gen := e.gen, origin := origin } old)

/-- The partition can take the entry. -/
def matchesHere (s : State) (core part : Nat) (e : QEntry) : Bool := (startEntry s core part e .none).isSome

/-- The entry among those that match which a dispatch from a segment serves (R175). The 16th dispatch serves the
priority whose oldest entry arrived first. -/
def segChoice (g : Seg) (m : List QEntry) : Option QEntry :=
  match m with
  | [] => none
  | first :: _ =>
    let prio := if g.sinceOldest = 15 then hPrio first.header else m.foldl (fun n e => max n (hPrio e.header)) 0
    let ms := m.filter (fun e => hPrio e.header = prio)
    let window := ms.foldl (fun n e => min n (e.arrival / 64)) (ms.headD first).arrival
    let ws := ms.filter (fun e => e.arrival / 64 = window)
    let key := ws.foldl (fun n e => min n (hSkey e.header)) (2 ^ 32)
    ws.find? (fun e => hSkey e.header = key)

/-- The home segments of a die, from the one after `last` on (R174, R175). -/
def homeFrom (die last : Nat) : List Nat :=
  let all := (upTo 32).map (fun i => 32 * die + i)
  all.filter (fun n => decide (last < n)) ++ all.filter (fun n => decide (n ≤ last))

/-- A dispatch from a segment takes the entry. -/
def takeFromSeg (s : State) (core part slice : Nat) (e : QEntry) : Option State :=
  match startEntry s core part e (.segment slice) with
  | none => none
  | some s1 =>
    let id := (s1.partAt core part).task
    let g := s1.seg slice
    let d := dieOf core
    let s2 := s1.setSeg slice { g with
      entries := g.entries.map (fun x => if x.arrival = e.arrival ∧ hPrio x.header = hPrio e.header
        then { x with run := true, task := id } else x),
      sinceOldest := (g.sinceOldest + 1) % 16 }
    some { s2 with sched := { s2.sched with rr := Table.set s2.sched.rr (4 * d + hPrio e.header) slice } }

/-- A segment's offer to a partition: in ring mode none here. -/
def segOffer (s : State) (core part slice : Nat) : List QEntry :=
  if inRingMode s slice then [] else (s.seg slice).entries.filter (matchesHere s core part)

/-- A dispatch from the home segments at a priority, round-robin by slice number (R175). urgent: segments that hold
a matching priority-3 entry serve, whatever their own turn says (R173 step 1). -/
def fromSegs (s : State) (core part prio : Nat) (urgent : Bool) : Option State :=
  let d := dieOf core
  let last := Table.get (32 * d + 31) s.sched.rr (4 * d + prio)
  (homeFrom d last).findSome? (fun n =>
    let m := segOffer s core part n
    match segChoice (s.seg n) m with
    | none => none
    | some e =>
      if (if urgent then m.any (fun x => decide (hPrio x.header = 3)) else decide (hPrio e.header = prio))
      then takeFromSeg s core part n e else none)

/-- What belongs to the entry at HEAD of a ring, beside its header. Of an entry that no ENQ claimed, since software has
written TAIL, nothing is known: it goes in the colour of the record that takes it (DESIGN CHOICE log 15). -/
def ringFirst (s : State) (slice colour : Nat) : RingSlot :=
  Table.get { colour := colour, launch := 0, gen := none } (s.die (homeDie slice)).ringInfo (ringKey slice (ringHead (ringDesc s slice)))

/-- The header at HEAD of a ring that is not empty, read in a colour. -/
def ringHeader (s : State) (slice colour : Nat) : Except Halt Header :=
  let k := ringDesc s slice
  if ringCount k = 0 then .error (.trap (trapOf .bounds 0))
  else (devRead s colour (ringAddr k (ringHead k)).toNat 64).map (fun bs => BitVec.ofNat 512 (ofBytes bs))

/-- A dispatch in ring mode takes the header at HEAD of a home segment's ring, under a record of its colour (R178). -/
def fromRings (s : State) (core part : Nat) : Option State :=
  let d := dieOf core
  if !(s.die d).ringMode then none
  else (homeFrom d (32 * d + 31)).findSome? (fun n =>
    let k := ringDesc s n
    match bestRec ((openRecs s core part).filter (fun r =>
        let e := ringFirst s n (bColour r.2)
        match ringHeader s n e.colour with
        | .ok h => recTakes r.2 e.colour h
        | .error _ => false)) with
    | none => none
    | some (i, r) =>
      let e := ringFirst s n (bColour r)
      match ringHeader s n e.colour with
      | .error _ => none
      | .ok h =>
        let s1 := startTask (devNoted s e.colour (ringAddr k (ringHead k)).toNat 64) core part i r
          { Task.empty with header := h, colour := e.colour, launch := e.launch, gen := e.gen, origin := .ring } none
        let die := s1.die d
        some (s1.setDie d { die with ringDesc := Table.set die.ringDesc (n % 32) (putBits k 159 128 (ringHead k + 1)),
                                     ringInfo := Table.del die.ringInfo (ringKey n (ringHead k)) }))

/-- Take an entry off the core's deque; its copy stays with the die (R174). -/
def takeFromDeque (s : State) (core part : Nat) (e : QEntry) : Option State :=
  let c := s.core core
  let s0 := s.setCore core { c with deque := c.deque.erase e, copies := c.copies ++ [{ e with run := true }], takes := c.takes + 1,
                                    probes := 0 }
  match startEntry s0 core part e (.deque core) with
  | none => none
  | some s1 =>
    let k := s1.core core
    some (s1.setCore core { k with copies := k.copies.dropLast ++ [{ e with run := true, task := (s1.partAt core part).task }] })

/-- A dispatch from the core's own deque: the newest entry, and at every eighth take the oldest (R179). -/
def fromDeque (s : State) (core part : Nat) : Option State :=
  let c := s.core core
  let m := c.deque.filter (matchesHere s core part)
  match (if c.takes % 8 = 7 then m.head? else m.getLast?) with
  | some e => takeFromDeque s core part e
  | none => none

/-- The state after a dispatch to a partition, in the order of R173; none where it takes nothing. It takes no other task
before its FIFO has handed every message over (R367). -/
def dispatchTo (s : State) (core part : Nat) : Option State :=
  let p := s.partAt core part
  if p.reserved.isSome then none
  else match s.sched.readyQ.findSome? (returnsHere s core part) with
    | some s1 => some s1
    | none =>
      if p.task.isSome || !p.fifo.isEmpty then none
      else match s.tasks.findSome? (restartsHere s core part) with
        | some s1 => some s1
        | none =>
          match fromSegs s core part 3 true with
          | some s1 => some s1
          | none => match fromDeque s core part with
            | some s1 => some s1
            | none => match [3, 2, 1, 0].findSome? (fun q => fromSegs s core part q false) with
              | some s1 => some s1
              | none => fromRings s core part

/-- TASK_DISPATCH (R173). -/
def execTaskDispatch (core part : Nat) (s : State) : Out := .next ((dispatchTo s core part).getD s)

/-- A partition that can be filled now, lowest core first. Only cores that some open record names are looked at. -/
def dispatchable (s : State) : Option (Nat × Nat) :=
  let cores := s.dies.flatMap (fun d => (upTo Config.coresPerDie).filterMap (fun i =>
    if d.2.bind.any (fun r => bOpen r.2 s.time && bCore r.2 i) then some (d.1 * Config.coresPerDie + i) else none))
  cores.findSome? (fun c => ((upTo 8).find? (fun p => (dispatchTo s c p).isSome)).map (fun p => (c, p)))

/-! ### Steals (R180) -/

/-- A task's copy has moved. -/
def rehome (s : State) (origin : Origin) (es : List QEntry) : State :=
  es.foldl (fun s e => match e.task with
    | some id => s.setTask id { s.taskAt id with origin := origin }
    | none => s) s

/-- A free partition of a core that finds nothing under steps 1 to 3; one that still hands messages over takes no task
(R367). -/
def idlePart (s : State) (core : Nat) : Option Nat :=
  (upTo 8).find? (fun p => !(openRecs s core p).isEmpty && (s.partAt core p).task.isNone && (s.partAt core p).fifo.isEmpty
    && (s.partAt core p).reserved.isNone && (dispatchTo s core p).isNone)

/-- The entries of a victim's deque that match one of the thief's records. -/
def stealable (s : State) (core part victim : Nat) : List QEntry :=
  if core = victim ∨ dieOf core ≠ dieOf victim then [] else (s.core victim).deque.filter (matchesHere s core part)

/-- STEAL_PROBE (R180): half of the matching entries, oldest first, and the oldest is dispatched. An empty probe is
counted up to four. The stolen entries join the thief's deque with no check of its room, so they can take it beyond the 32 of
R179 (DESIGN CHOICE log 71). -/
def execStealProbe (core victim : Nat) (s : State) : Out :=
  match idlePart s core with
  | none => .next s
  | some p =>
    match stealable s core p victim with
    | [] => .next (s.setCore core { s.core core with probes := min 4 ((s.core core).probes + 1) })
    | e :: es =>
      let got := (e :: es).take ((es.length + 2) / 2)
      let v := s.core victim
      let s1 := rehome (s.setCore victim { v with deque := got.foldl List.erase v.deque }) (.deque core) got
      let c := s1.core core
      let s2 := s1.setCore core { c with deque := c.deque ++ got, probes := 0 }
      .next ((takeFromDeque s2 core p e).getD s2)

/-- A steal that finds work: thief and victim. The spec gives no order of the pseudo-random probes; the lowest
victim is taken (DESIGN CHOICE log 6). -/
def stealDue (s : State) : Option (Nat × Nat) :=
  let victims := (s.cores.filter (fun c => !c.2.deque.isEmpty)).map (·.1)
  if victims.isEmpty then none
  else
    let dies := (victims.map dieOf).eraseDups
    let thieves := dies.flatMap (fun d => (upTo Config.coresPerDie).map (fun i => d * Config.coresPerDie + i))
    thieves.findSome? (fun c => match idlePart s c with
      | none => none
      | some p => (victims.find? (fun v => !(stealable s c p v).isEmpty)).map (fun v => (c, v)))

/-! ### Migration (R181) -/

/-- An entry of a colour at priorities 0 to 2; that of a dispatched task is still held (R176). -/
def waitsFor (colour : Nat) (e : QEntry) : Bool := decide (e.colour = colour) && decide (hPrio e.header < 3)

/-- Such entries that the home segments of a die hold. -/
def waitingAt (s : State) (die colour : Nat) : Nat :=
  ((upTo 32).map (fun i => ((s.seg (32 * die + i)).entries.filter (waitsFor colour)).length)).sum

/-- Partitions of a die that are free under records of a colour. -/
def freeUnder (s : State) (die colour : Nat) : Nat :=
  ((upTo Config.coresPerDie).map (fun i =>
    let c := die * Config.coresPerDie + i
    ((upTo 8).filter (fun p => (s.partAt c p).task.isNone && (s.partAt c p).reserved.isNone
      && (openRecs s c p).any (fun r => decide (bKind r.2 = 1) && decide (bColour r.2 = colour)))).length)).sum

def overloaded (s : State) (die colour : Nat) : Bool := decide (512 < waitingAt s die colour)
def advertises (s : State) (die colour : Nat) : Bool :=
  decide (waitingAt s die colour = 0) && !(s.die die).ringMode && decide (16 ≤ freeUnder s die colour)
    && !s.sched.teams.any (fun t => decide (t.dst = die) && decide (t.colour = colour))

/-- An entry may join a team: queued, or parked and ready and bound to no core. -/
def mayMigrate (s : State) (colour : Nat) (e : QEntry) : Bool :=
  decide (e.colour = colour) && decide (hPrio e.header < 3)
    && (match e.run, e.task with
        | false, none => true
        | false, some id => decide ((s.taskAt id).gang = 0)
        | true, some id => becameReady (id, s.taskAt id) && !coreBound (s.taskAt id)
        | true, none => false)

/-- TEAM_MIGRATE (R181): up to 16 entries with equal AFF, oldest first, leave a segment of an overloaded die. -/
def execTeamMigrate (src dst colour : Nat) (s : State) : Out :=
  if src = dst ∨ !overloaded s src colour ∨ !advertises s dst colour then .next s
  else match ((upTo 32).map (fun i => 32 * src + i)).find? (fun n => (s.seg n).entries.any (mayMigrate s colour)) with
    | none => .next s
    | some n =>
      let g := s.seg n
      let can := g.entries.filter (mayMigrate s colour)
      let aff := match can with | e :: _ => hAff e.header | [] => 0
      let team := (can.filter (fun e => hAff e.header = aff)).take 16
      let s1 := s.setSeg n { g with entries := g.entries.filter (fun e => !team.contains e) }
      .next { s1 with sched := { s1.sched with teams := s1.sched.teams ++ [{ src := src, dst := dst, colour := colour, entries := team }] } }

/-- A migration that is due. -/
def migrationDue (s : State) : Option (Nat × Nat × Nat) :=
  if s.sched.segs.all (fun g => decide (g.2.entries.length ≤ 16)) then none
  else
    let colours := (s.sched.segs.flatMap (fun g => g.2.entries.map (·.colour))).eraseDups
    (upTo Config.dies).findSome? (fun a => colours.findSome? (fun c =>
      if !overloaded s a c || !(upTo 32).any (fun i => (s.seg (32 * a + i)).entries.any (mayMigrate s c)) then none
      else ((upTo Config.dies).find? (fun b => decide (a ≠ b) && advertises s b c)).map (fun b => (a, b, c))))

/-- The least occupied home segment of a die. -/
def leastOccupied (s : State) (die : Nat) : Nat :=
  let ns := (upTo 32).map (fun i => 32 * die + i)
  let least := ns.foldl (fun n i => min n (s.seg i).entries.length) (s.seg (32 * die)).entries.length
  (ns.find? (fun i => (s.seg i).entries.length = least)).getD (32 * die)

/-- A team joins a segment as new arrivals, in its order. -/
def joinSeg (g : Seg) : List QEntry → Seg
  | [] => g
  | e :: es =>
    let p := hPrio e.header
    let n := Table.get 0 g.next p
    joinSeg { g with entries := g.entries ++ [{ e with arrival := n }], next := Table.set g.next p (n + 1) } es

/-- There is room for the oldest team. -/
def teamFits (s : State) : Bool := match s.sched.teams with
  | t :: _ =>
    let g := s.seg (leastOccupied s t.dst)
    decide ((g.entries.filter (fun e => hPrio e.header < 3)).length + t.entries.length ≤ 5760)
      && decide (g.entries.length + t.entries.length ≤ 6144)
  | [] => false

/-- TEAM_ARRIVE (R181). -/
def execTeamArrive (s : State) : Out :=
  match s.sched.teams with
  | [] => .next s
  | t :: ts =>
    if !teamFits s then .next s
    else
      let n := leastOccupied s t.dst
      let s1 := rehome (s.setSeg n (joinSeg (s.seg n) t.entries)) (.segment n) t.entries
      .next { s1 with sched := { s1.sched with teams := ts } }

/-! ### Generators (R251) -/

/-- The lowest free generator slot of a range. -/
def freeSlot (s : State) (range : Nat) : Option Nat :=
  (upTo (rangeSlots (s.range range))).find? (fun j => !s.fill.slots.any (fun x => decide (x.1 = range) && decide (x.2.1 = j)))

/-- The header of a generator in slot j. -/
def generatorHeader (s : State) (b : BlockId) (j : Nat) : Header :=
  let e := s.range b.range
  let pool := rangePool e + j * rangeSlotSize e
  BitVec.ofNat 512 (rangeEntry e + 2 ^ 64 * (pool + rangeSlotSize e) + 2 ^ 128 * pool + 2 ^ 200 * 3 + 2 ^ 206 * 3
    + 2 ^ 208 * (b.block % 2 ^ 16) + 2 ^ 320 * blockBase s b + 2 ^ 384 * b.block + 2 ^ 448 * rangeArg e)

/-- GENERATOR_QUEUE (R251): it waits for a slot, and for room in the segment. -/
def execGeneratorQueue (range block : Nat) (s : State) : Out :=
  let b : BlockId := { range := range, block := block }
  match fillOf s b, freeSlot s range with
  | some f, some j =>
    let h := generatorHeader s b j
    if f.slot.isSome || !queueRoom s h (rangeColour (s.range range)) none then .next s
    else
      let s1 := enqueue s h (rangeColour (s.range range)) 0 (some b) none
      .next { s1 with fill := { s1.fill with
        fills := s1.fill.fills.map (fun x => if x.blk = b then { x with slot := some j } else x),
        slots := s1.fill.slots ++ [(range, j, 0)] } }
  | _, _ => .next s

/-- The first fill whose generator can be queued. -/
def generatorDue (s : State) : Option BlockId :=
  (s.fill.fills.find? (fun f => f.slot.isNone && (match freeSlot s f.blk.range with
    | some j => queueRoom s (generatorHeader s f.blk j) (rangeColour (s.range f.blk.range)) none
    | none => false))).map (·.blk)

/-! ### Back-off and aborts -/

/-- BACKOFF_EXPIRY (R249). -/
def execBackoffExpiry (task : Nat) (s : State) : Out :=
  match (s.taskAt task).retryAt with
  | some t => if t ≤ s.time then .next (s.setTask task { s.taskAt task with retryAt := none }) else .next s
  | none => .next s

/-- Tasks whose back-off has run out. -/
def backoffDue (s : State) : Option Nat :=
  (s.tasks.find? (fun e => match e.2.retryAt with | some t => decide (t ≤ s.time) | none => false)).map (·.1)

/-- ATOMIC_ABORT (R33): writes that others published meet the task's read signature. -/
def execAtomicAbort (task : Nat) (s : State) : Out :=
  let t := s.taskAt task
  if t.atomic && t.live && sigHit s t.reads t.others then .next (abortTask s task []) else .next s

/-! ### Lines that dispatch waits for (R290) -/

/-- Those who hold a line that a dispatch needs are asked for it: a spill area's, a ring's head or a ring's tail. -/
def dispatchAsk (s : State) : Option State :=
  let lines := s.sched.readyQ.filterMap (fun id => awaited (spillRead s id (s.taskAt id).spill (spillBytes (s.taskAt id).split)))
    ++ s.dies.flatMap (fun d => if !d.2.ringMode then [] else (homeFrom d.1 0).filterMap (fun n => awaited (ringHeader s n (ringFirst s n 0).colour)))
    ++ s.fill.fills.filterMap (fun f => match f.slot, freeSlot s f.blk.range with
      | none, some j => ringHeldLine s (generatorHeader s f.blk j) (rangeColour (s.range f.blk.range)) none
      | _, _ => none)
  (lines.find? (fun l => !asked s l)).map (askHolders s)

end Sys2Proof.Machine
end

