-- ==== Sys2Proof/Machine/Launch.lean ====
section
/-! DEFINITION. The launch unit (R165 to R167, R299), graph expansion (R168 to R170), and gangs with their roll
call (R36 to R41, R182). A launch that is done leaves the table of launches. -/

namespace Sys2Proof.Machine

/-! ### Launch records (R165) -/

abbrev LaunchRec := BitVec 512

def lCring (r : LaunchRec) : Nat := bitsOf r 511 448
def lHlist (r : LaunchRec) : Nat := bitsOf r 447 384
def lNwr (r : LaunchRec) : Nat := bitsOf r 383 376
def lNrd (r : LaunchRec) : Nat := bitsOf r 375 368
def lColour (r : LaunchRec) : Nat := bitsOf r 367 352
def lCount (r : LaunchRec) : Nat := bitsOf r 351 320
def lKind (r : LaunchRec) : Nat := bitsOf r 65 64
def lTarget (r : LaunchRec) : Nat := bitsOf r 63 0

/-- A record whose own fields are as R165 says. -/
def launchFields (r : LaunchRec) : Bool :=
  decide (bitsOf r 319 66 = 0) && decide (lNrd r + lNwr r ≤ 64) && decide (lHlist r % 4 = 0) && decide (lCring r % 32 = 0)
    && (match lKind r with
        | 0 => decide (lCount r = 0) && decide (lTarget r = 0)
        | 1 => decide (1 ≤ lCount r) && decide (lCount r ≤ 65536) && decide (lTarget r % 64 = 0)
        | 2 => decide (lCount r = 0) && decide (lTarget r % 16 = 0)
        | _ => decide (lCount r = 0) && decide (lTarget r % 64 = 0))

/-- Items of n bytes from a list of bytes. -/
def chunks (n : Nat) : Nat → List Byte → List Nat
  | 0, _ => []
  | k + 1, bs => ofBytes (bs.take n) :: chunks n k (bs.drop n)

/-- A structure of a launch is malformed (R166). -/
def badLaunch : Halt := .trap (trapOf .illegal 0)

/-- An array of `count` items of n bytes in a colour, or why it cannot be read, or must wait. -/
def readArray (s : State) (colour a n count : Nat) : Except Halt (List Nat) :=
  if count = 0 then .ok [] else (devRead s colour a (n * count)).map (chunks n count)

/-- Headers that are all well formed (R27). -/
def goodHeaders (hs : List Nat) : Except Halt (List Header) :=
  let l := hs.map (BitVec.ofNat 512)
  if l.any malformed then .error badLaunch else .ok l

/-! ### Graphs (R168) -/

/-- The node entries of a graph, or why they cannot be read; a nonzero reserved field makes them malformed. -/
def graphNodes (s : State) (colour a : Nat) : Except Halt (List (BitVec 128)) := do
  let ws ← readArray s colour a 16 1
  if 2 ^ 16 ≤ ws.headD 0 then .error badLaunch
  else
    let ns ← readArray s colour (a + 16) 16 (ws.headD 0)
    let l := ns.map (BitVec.ofNat 128)
    if l.any (fun e => decide (bitsOf e 76 64 ≠ 0) || decide (bitsOf e 47 35 ≠ 0)) then .error badLaunch else .ok l

/-! ### Loaded gang descriptors (R41) -/

def gPmap (g : BitVec 512) : BitVec 32 := BitVec.ofNat 32 (bitsOf g 255 224)
def gRoles (g : BitVec 512) : BitVec 3 := BitVec.ofNat 3 (bitsOf g 218 216)
def gPipes (g : BitVec 512) : BitVec 8 := BitVec.ofNat 8 (bitsOf g 215 208)
def gNcore (g : BitVec 512) : Nat := bitsOf g 207 192
def gHdrs (g : BitVec 512) (role : Nat) : Nat := bitsOf g (63 + 64 * role) (64 * role)
/-- The declared roles in ascending order. -/
def gRoleList (g : BitVec 512) : List Nat := (upTo 3).filter (fun i => (gRoles g).getLsbD i)

/-- A descriptor whose fields R41 allows. -/
def goodGang (g : BitVec 512) : Bool :=
  decide (bitsOf g 511 256 = 0) && decide (bitsOf g 223 219 = 0) && decide (1 ≤ gNcore g) && decide (gNcore g ≤ 96)
    && (gRoleList g).all (fun i => decide (gHdrs g i ≠ 0))
    && ((upTo 8).filter (fun i => (gPipes g).getLsbD i)).all (fun n =>
      let a := bitsOf (gPmap g) (4 * n + 1) (4 * n)
      let b := bitsOf (gPmap g) (4 * n + 3) (4 * n + 2)
      decide (a ≠ b) && decide (a < 3) && decide (b < 3) && (gRoles g).getLsbD a && (gRoles g).getLsbD b)

/-- Every header array of some roles, one after another. -/
def gangHeaders (s : State) (colour : Nat) (g : BitVec 512) : List Nat → Except Halt (List Header)
  | [] => .ok []
  | i :: is => do
    let ws ← readArray s colour (gHdrs g i) 64 (gNcore g)
    let hs ← goodHeaders ws
    let rest ← gangHeaders s colour g is
    .ok (hs ++ rest)

/-- The descriptor of a gang and its headers, role by role, where R41 does not refuse them. -/
def gangLoad (s : State) (colour a : Nat) : Except Halt (List (BitVec 512)) := do
  let ws ← readArray s colour a 64 1
  let g : BitVec 512 := BitVec.ofNat 512 (ws.headD 0)
  if !goodGang g then .error badLaunch
  else
    let hs ← gangHeaders s colour g (gRoleList g)
    .ok (g :: hs)

/-! ### Reading the next record (R299) -/

def recordAddr (s : State) : Nat := s.bar0.lrbase.toNat + 64 * (s.bar0.lrhead.toNat % 2 ^ (s.bar0.lrsize.toNat % 32))

/-- The record's line that another device owns (R290). -/
def recordLine (s : State) : Option Nat :=
  (physical s (recordAddr s)).bind (fun p => (linesOf p.2 64).find? (ownedAway s))

/-- There is a record to read, and no line of it that its owner has been asked for is still away. -/
def recordDue (s : State) : Bool :=
  let b := s.bar0
  b.ready && decide (b.lrsize ≠ 0) && decide (b.lrhead ≠ b.lrtail) && s.sched.accepting.isNone
    && (match recordLine s with | some line => !asked s line | none => true)

/-- LRHEAD moves past a record. -/
def passRecord (b : Bar0) : Bar0 := { b with lrhead := BitVec.ofNat 64 ((b.lrhead.toNat + 1) % 2 ^ 32) }

/-- LAUNCH_RECORD_READ (R299), an acquire at SYSTEM scope by a unit that lies in no core's unit (R150, R157). -/
def execLaunchRecordRead (s0 : State) : Out :=
  if !recordDue s0 then .next s0
  else match recordLine s0 with
  | some line => .next (askHolders s0 line)
  | none =>
    let s := forceOut s0 none
    let a := recordAddr s
    match physical s a with
    | some (home, l) =>
      if (sectorsAt l 64).any s.sectorBad then .next (unreadable ((sectorsAt l 64).foldl (fun s x => verifyAt s (x * 32)) s))
      else
        let n := s.sched.nextLaunch
        let r := { Launch.empty with addr := a, record := BitVec.ofNat 512 (s.pub l 64) }
        let t := noteRead s { loc := l, home := home, cache := if home = .hostPosted then 2 else 0, grain := 512, fill := none, tlb := none } 64
        .next { t with sched := { t.sched with accepting := some n, nextLaunch := n + 1, launches := Table.set t.sched.launches n r } }
    | none => .next (unreadable s)
where
  unreadable (s : State) : State :=
    { s with bar0 := { passRecord s.bar0 with lrerr := s.bar0.lrerr + 1, lrrd := true } }

/-- LAUNCH_DOORBELL (R299): a write to LRTAIL. -/
def execLaunchDoorbell (v : Word) (s : State) : Out :=
  let b := s.bar0
  let n := 2 ^ (b.lrsize.toNat % 32)
  if b.lrsize = 0 then .next s
  else if n < (v.toNat % 2 ^ 32 + 2 ^ 32 - b.lrhead.toNat) % 2 ^ 32 then .next { s with bar0 := { b with lrovf := true } }
  else .next { s with bar0 := { b with lrtail := BitVec.ofNat 64 (v.toNat % 2 ^ 32) } }

/-! ### Completion of a launch (R166, R195) -/

/-- The completion record of a launch, where it names a ring. -/
def launchRecordDue (s : State) (l : Launch) (bad : Bool) : State :=
  if lCring l.record = 0 then s
  else
    let due : DueRecord :=
      { ring := BitVec.ofNat 64 (lCring l.record),
        body := completionRecord s.time l.addr 0 (lColour l.record) (if bad then 1 else 0) 5 (if bad then 4 else 0),
        colour := lColour l.record, scope := 3, task := none, unit := none, tracker := none }
    { s with sched := { s.sched with due := s.sched.due ++ [due] } }

/-- The counters of a node map that still count: those of nodes that have not become ready. -/
def unready (s : State) (map : Nat) : List Nat :=
  (Table.get [] s.sched.maps map).filter (fun m =>
    let e := Table.get 0 (s.die (m / 2 ^ 14)).cnt (m % 2 ^ 14)
    cntV e && decide (cntMap e = map) && !s.sched.readyNodes.any (fun r => decide (r.counter = m)))

/-- Counters are free again. -/
def freeCounters (s : State) (ms : List Nat) : State :=
  ms.foldl (fun s m => let d := s.die (m / 2 ^ 14)
                       s.setDie (m / 2 ^ 14) { d with cnt := Table.set d.cnt (m % 2 ^ 14) (putBits (Table.get 0 d.cnt (m % 2 ^ 14)) 76 76 0) }) s

/-- A launch is over: its handles and its node map are freed, with the counters of nodes that never become ready since a
header before them was not enqueued (R170; DESIGN CHOICE log 69), and its completion record is due. -/
def endLaunch (s0 : State) (id : Nat) (l : Launch) (bad : Bool) : State :=
  let s := match l.map with
    | some m => freeCounters s0 (unready s0 m)
    | none => s0
  let c := s.sched
  let forget := fun (h : Handle) =>
    { writer := if h.writer = some id then none else h.writer, readers := h.readers.filter (fun x => x ≠ id) : Handle }
  let handles := (c.handles.map (fun e => (e.1, forget e.2))).filter (fun e => e.2.writer.isSome || !e.2.readers.isEmpty)
  let s1 := { s with sched := { c with launches := Table.del c.launches id, handles := handles,
                                       maps := (match l.map with | some m => Table.del c.maps m | none => c.maps) },
                     bar0 := if bad then { s.bar0 with lrerr := s.bar0.lrerr + 1 } else s.bar0 }
  launchRecordDue s1 l bad

/-! ### Acceptance (R166, R167) -/

/-- The handle list: handles read and handles written, without handle 0. -/
def handleList (s : State) (r : LaunchRec) : Except Halt (List Nat × List Nat) :=
  (readArray s (lColour r) (lHlist r) 4 (lNrd r + lNwr r)).map (fun l =>
    let w := ((l.drop (lNrd r)).filter (fun h => h ≠ 0)).eraseDups
    (((l.take (lNrd r)).filter (fun h => decide (h ≠ 0) && !w.contains h)).eraseDups, w))

/-- The structures that a launch names: the headers kept, and the tasks or nodes that it starts with. -/
def launchLoad (s : State) (r : LaunchRec) : Except Halt (List (BitVec 512) × Nat) :=
  match lKind r with
  | 0 => .ok ([], 0)
  | 1 => ((readArray s (lColour r) (lTarget r) 64 (lCount r)).bind goodHeaders).map (fun hs => (hs, hs.length))
  | 2 => (graphNodes s (lColour r) (lTarget r)).map (fun ns => ([], ns.length))
  | _ => (gangLoad s (lColour r) (lTarget r)).map (fun l => (l, l.length - 1))

/-- The ranges that acceptance reads of a launch's structures. -/
def launchRanges (s : State) (r : LaunchRec) : List (Nat × Nat) :=
  let t := lTarget r
  (lHlist r, 4 * (lNrd r + lNwr r)) :: (match lKind r with
    | 0 => []
    | 1 => [(t, 64 * lCount r)]
    | 2 => [(t, 16 + 16 * (match graphNodes s (lColour r) t with | .ok ns => ns.length | .error _ => 0))]
    | _ => (t, 64) :: (match gangLoad s (lColour r) t with
      | .ok (g :: _) => (gRoleList g).map (fun i => (gHdrs g i, 64 * gNcore g))
      | _ => []))

/-- The reads of a launch's structures are noted. -/
def noteLaunch (s : State) (r : LaunchRec) : State := (launchRanges s r).foldl (fun s a => devNoted s (lColour r) a.1 a.2) s

/-- Headers that KIND 01 launches hold in the staging storage. -/
def staged (s : State) : Nat :=
  (s.sched.launches.map (fun l => if lKind l.2.record = 1 then l.2.headers.length else 0)).sum
    + (s.sched.graphQ.filter (fun q => match Table.find s.sched.launches q.2.2 with
        | some l => decide (lKind l.record = 1)
        | none => false)).length

/-- The launches that a launch with these handles waits for. -/
def handleWaits (s : State) (rd wr : List Nat) : List Nat :=
  let e := fun (h : Nat) => Table.get { writer := none, readers := [] } s.sched.handles h
  (rd.flatMap (fun h => (e h).writer.toList) ++ wr.flatMap (fun h => (e h).writer.toList ++ (e h).readers)).eraseDups

/-- The table after a launch has been entered. -/
def enterHandles (t : Table Handle) (id : Nat) (rd wr : List Nat) : Table Handle :=
  let t1 := rd.foldl (fun t h =>
    let e := Table.get { writer := none, readers := [] } t h
    Table.set t h { e with readers := e.readers ++ [id] }) t
  wr.foldl (fun t h => Table.set t h { writer := some id, readers := [] }) t1

/-- The record that has been read is accepted or refused; it may have to wait for room, or for a line. -/
def acceptLaunch (s : State) : Try :=
  match s.sched.accepting with
  | none => .no
  | some id =>
    let l := Table.get Launch.empty s.sched.launches id
    let r := l.record
    let pass := fun (s : State) => { s with sched := { s.sched with accepting := none }, bar0 := passRecord s.bar0 }
    if !launchFields r then .done (endLaunch (pass s) id l true)
    else match handleList s r, launchLoad s r with
      | .ok (rd, wr), .ok (hs, n) =>
        let new := ((rd ++ wr).filter (fun h => (Table.find s.sched.handles h).isNone)).length
        if 4096 < s.sched.handles.length + new ∨ (lKind r = 1 ∧ 1048576 < staged s + hs.length) then .no
        else
          let s1 := pass (noteLaunch s r)
          .done { s1 with sched := { s1.sched with
            handles := enterHandles s.sched.handles id rd wr,
            launches := Table.set s.sched.launches id { l with waits := handleWaits s rd wr, headers := hs, left := n } } }
      | a, b => match (awaited a).or (awaited b) with
        | some line => .ask line
        | none => .done (endLaunch (pass (noteLaunch s r)) id l true)

/-- LAUNCH_ACCEPT (R166, R167). -/
def execLaunchAccept (s : State) : Out := .next (((acceptLaunch s).next s).getD s)

/-! ### Release (R167) -/

/-- A graph launch whose waits are over and that has not been expanded. -/
def unexpanded (l : Launch) : Bool := decide (lKind l.record = 2) && l.released && l.map.isNone

/-- The launch's waits are over, and no earlier graph waits for counters. -/
def releasable (s : State) (id : Nat) (l : Launch) : Bool :=
  decide (s.sched.accepting ≠ some id) && !l.released && l.waits.all (fun w => (Table.find s.sched.launches w).isNone)
    && !s.sched.launches.any (fun e => decide (e.1 < id) && unexpanded e.2)

/-- LAUNCH_RELEASE (R167): its headers go to the queue; a graph may be expanded, a gang may be called. -/
def execLaunchRelease (launch : Nat) (s : State) : Out :=
  match Table.find s.sched.launches launch with
  | none => .next s
  | some l =>
    if !releasable s launch l then .next s
    else
      let array := decide (lKind l.record = 1)
      let s1 := onLaunch s launch (fun l => { l with released := true, headers := if array then [] else l.headers })
      .next (if array then
        { s1 with sched := { s1.sched with graphQ := s1.sched.graphQ ++ l.headers.map (fun h => (h, lColour l.record, launch)) } }
        else s1)

/-- The header that each launch has to queue next (R174). -/
def firstOfEach : List Nat → List (BitVec 512 × Nat × Nat) → List (BitVec 512 × Nat × Nat)
  | _, [] => []
  | seen, q :: qs => if seen.contains q.2.2 then firstOfEach seen qs else q :: firstOfEach (q.2.2 :: seen) qs

/-- A header is queued as an ENQ of its colour would be, where there is room (R170, R174). -/
def tryQueue (s : State) (h : Header) (colour launch : Nat) : Try :=
  if queueRoom s h colour none then .done (enqueue s h colour launch none none)
  else match ringHeldLine s h colour none with
    | some line => .ask line
    | none => .no

/-- A header of a launch is queued. -/
def queueOne (s : State) (q : BitVec 512 × Nat × Nat) : Try :=
  tryQueue { s with sched := { s.sched with graphQ := s.sched.graphQ.erase q } } q.1 q.2.1 q.2.2

/-- The graph unit goes on with a node: its next header is read and queued; one that is malformed, or cannot be read, is
not, and its launch will be a malformed one. After the last it clears V (R170). -/
def queueNode (s : State) (r : ReadyNode) : Try :=
  let die := r.counter / 2 ^ 14
  let e := Table.get 0 (s.die die).cnt (r.counter % 2 ^ 14)
  let go := fun (s : State) => { s with sched := { s.sched with
    readyNodes := s.sched.readyNodes.map (fun x => if x = r then { x with next := x.next + 1 } else x) } }
  let skip := onLaunch (go s) (launchOfMap s (cntMap e)) (fun l => { l with left := l.left - 1, bad := true })
  let a := cntBase e + 64 * r.next
  if cntHdrs e ≤ r.next then
    .done (freeCounters { s with sched := { s.sched with readyNodes := s.sched.readyNodes.filter (fun x => x ≠ r) } } [r.counter])
  else match devRead s (cntColour e) a 64 with
    | .error h => match awaited (.error h : Except Halt Unit) with
      | some line => .ask line
      | none => .done (devNoted skip (cntColour e) a 64)
    | .ok bs => match nodeHeader (Table.get [] s.sched.maps (cntMap e)) (BitVec.ofNat 512 (ofBytes bs)) with
      | none => .done (devNoted skip (cntColour e) a 64)
      | some h => match tryQueue (devNoted s (cntColour e) a 64) h (cntColour e) (launchOfMap s (cntMap e)) with
        | .done s1 => .done (go s1)
        | w => w

/-- The node that the graph unit of each die serves: the oldest that is ready. -/
def firstNodes : List Nat → List ReadyNode → List ReadyNode
  | _, [] => []
  | seen, r :: rs =>
    let die := r.counter / 2 ^ 14
    if seen.contains die then firstNodes seen rs else r :: firstNodes (die :: seen) rs

/-- The next header of a launch or of a graph node is queued. -/
def drainQueue (s : State) : Option State :=
  ((firstOfEach [] s.sched.graphQ).findSome? (fun q => (queueOne s q).next s))
    <|> (firstNodes [] s.sched.readyNodes).findSome? (fun r => (queueNode s r).next s)

/-! ### Graph expansion (R169) -/

/-- The lowest free numbers of a table of n entries, as many as asked for. -/
def freeNumbers (t : Nat → Bool) (n want : Nat) : List Nat := ((upTo n).filter (fun i => !t i)).take want

/-- The node map of some nodes: each takes the next free counter of its die; none where one is short. -/
def placeNodes (s : State) : List (Nat × List Nat) → List (BitVec 128) → Option (List Nat)
  | _, [] => some []
  | free, e :: es =>
    let d := bitsOf e 34 32
    match (free.find? (fun f => f.1 = d)).map (·.2) with
    | some (i :: is) =>
      (placeNodes s (free.map (fun f => if f.1 = d then (d, is) else f)) es).map (fun l => (d * 2 ^ 14 + i) :: l)
    | _ => none

/-- The counter entry of a node. -/
def counterEntry (e : BitVec 128) (map colour : Nat) : BitVec 128 :=
  BitVec.ofNat 128 (bitsOf e 127 77 * 2 ^ 77 + 2 ^ 76 + map * 2 ^ 64 + bitsOf e 63 48 * 2 ^ 48 + colour * 2 ^ 32 + bitsOf e 31 0)

/-- The nodes' counters are written. -/
def writeCounters (s : State) (map colour : Nat) : List (Nat × BitVec 128) → State
  | [] => s
  | (m, e) :: es =>
    let d := s.die (m / 2 ^ 14)
    writeCounters (s.setDie (m / 2 ^ 14) { d with cnt := Table.set d.cnt (m % 2 ^ 14) (counterEntry e map colour) }) map colour es

/-- A graph is expanded, once counters, map entries and a map are free. A graph that can no longer be read makes its
launch a malformed one. -/
def expandGraph (s : State) (launch : Nat) : Try :=
  match Table.find s.sched.launches launch with
  | none => .no
  | some l =>
    if !unexpanded l ∨ s.bar0.fwstate = 3 then .no
    else if s.sched.launches.any (fun e => decide (e.1 < launch) && unexpanded e.2) then .no
    else
      let colour := lColour l.record
      match (upTo 4096).find? (fun i => (Table.find s.sched.maps i).isNone) with
      | none => .no
      | some map =>
        match graphNodes s colour (lTarget l.record) with
        | .error h => match awaited (.error h : Except Halt Unit) with
          | some line => .ask line
          | none => .done (onLaunch { s with sched := { s.sched with maps := Table.set s.sched.maps map [] } } launch
              (fun l => { l with map := some map, left := 0, bad := true }))
        | .ok ns =>
          let used := (s.sched.maps.map (fun m => m.2.length)).sum
          if 65536 < used + ns.length then .no
          else
            let free := (upTo 8).map (fun d => (d, freeNumbers (fun i => cntV (Table.get 0 (s.die d).cnt i)) 16384
              (ns.filter (fun e => bitsOf e 34 32 = d)).length))
            match placeNodes s free ns with
            | none => .no
            | some ms =>
              let s0 := devNoted s colour (lTarget l.record) (16 + 16 * ns.length)
              let s1 := onLaunch { s0 with sched := { s0.sched with maps := Table.set s0.sched.maps map ms } } launch
                (fun l => { l with map := some map, left := ns.length })
              let s2 := writeCounters s1 map colour (ms.zip ns)
              let atOnce := ((ms.zip ns).filter (fun p => bitsOf p.2 31 0 = 0)).map (·.1)
              .done (atOnce.foldl (fun s m => nodeReady s (m / 2 ^ 14) (m % 2 ^ 14)) s2)

/-- GRAPH_EXPAND (R169). -/
def execGraphExpand (launch : Nat) (s : State) : Out := .next (((expandGraph s launch).next s).getD s)

/-! ### Done (R166) -/

/-- Every task that the launch created is done. A graph launch that has lost a header does not wait for the nodes that
never become ready for it (R170). -/
def launchOver (s : State) (id : Nat) (l : Launch) : Bool :=
  let never := match l.bad, l.map with
    | true, some m => (unready s m).length
    | _, _ => 0
  l.released && decide (l.left = never) && !s.sched.graphQ.any (fun q => decide (q.2.2 = id))
    && (match lKind l.record with
        | 2 => (match l.map with
          | some m => !s.sched.readyNodes.any (fun r => (Table.get [] s.sched.maps m).contains r.counter)
          | none => false)
        | 3 => l.gang.isSome
        | _ => true)

/-- LAUNCH_DONE (R166). -/
def execLaunchDone (launch : Nat) (s : State) : Out :=
  match Table.find s.sched.launches launch with
  | some l => if launchOver s launch l then .next (endLaunch s launch l l.bad) else .next s
  | none => .next s

/-! ### Gangs (R37, R182) -/

/-- A gang that waits for its roll call. -/
def pendingGang (l : Launch) : Bool := decide (lKind l.record = 3) && l.released && l.gang.isNone

/-- The record that serves a gang's roll call now: die, index and record. -/
def gangRec (s : State) (l : Launch) : Option (Nat × Nat × BindRec) :=
  let g := l.headers.headD 0
  let fits := fun (r : BindRec) => bOpen r s.time && decide (bKind r = 2) && decide (bTarget r = lTarget l.record % 2 ^ 57)
    && decide (bColour r = lColour l.record) && decide ((bCores r).length = gNcore g)
  let all := s.dies.filterMap (fun d => (bestRec (d.2.bind.filter (fun r => fits r.2))).map (fun r => (d.1, r.1, r.2)))
  let top := all.foldl (fun n x => max n (bPrio x.2.2)) 0
  let best := all.filter (fun x => bPrio x.2.2 = top)
  best.find? (fun x => best.all (fun y => decide (x.2.1 ≤ y.2.1)))

/-- Which pending gang a core's partitions are reserved for (R182). -/
def gangFor (s : State) (core : Nat) : Option Nat :=
  let mine := s.sched.launches.filterMap (fun e =>
    if !pendingGang e.2 then none
    else match gangRec s e.2 with
      | some (d, _, r) => if dieOf core = d ∧ bCore r (core % Config.coresPerDie) then some (e.1, bPrio r) else none
      | none => none)
  let top := mine.foldl (fun n x => max n x.2) 0
  (mine.find? (fun x => x.2 = top)).map (·.1)

/-- Partitions of a core that a gang needs under a record: those that the record names, or every one while the core
has another split or colour. -/
def neededParts (s : State) (core : Nat) (g : BitVec 512) (r : BindRec) : List Nat :=
  if (s.core core).split = bSplit r ∧ (s.core core).colour = some (bColour r) then (gRoleList g).map (bRole r) else upTo 8

/-- The device indexes of a record's cores. -/
def recCores (die : Nat) (r : BindRec) : List Nat := (bCores r).map (fun i => die * Config.coresPerDie + i)

/-- The core can run its instance of a gang now: its partitions are free, and no other gang has an instance on the core, whose
ring and latch it would need (DESIGN CHOICE log 81). -/
def coreFits (s : State) (launch core : Nat) (g : BitVec 512) (r : BindRec) : Bool :=
  let empty := coreEmpty s core
  let c := s.core core
  (decide (c.split = bSplit r) || empty) && (decide (c.colour = some (bColour r)) || empty) && !belling s core
    && c.gang.isNone && gangFor s core = some launch
    && (gRoleList g).all (fun i => (s.partAt core (bRole r i)).task.isNone && (s.partAt core (bRole r i)).fifo.isEmpty)

/-- Reserve what has fallen free for the gang on the cores that it wins. -/
def reserveParts (s : State) (launch : Nat) (g : BitVec 512) (r : BindRec) : List Nat → State
  | [] => s
  | c :: cs =>
    if gangFor s c ≠ some launch then reserveParts s launch g r cs
    else
      let want := neededParts s c g r
      let s1 := (upTo 8).foldl (fun s p =>
        let q := s.partAt c p
        let new := if want.contains p && q.task.isNone then some launch else none
        if q.reserved = new then s else s.setPartAt c p { q with reserved := new }) s
      reserveParts s1 launch g r cs

/-- The tasks of one core's instance start. -/
def startInstance (s : State) (launch n : Nat) (l : Launch) (r : BindRec) (core i : Nat) : State × List Nat :=
  let g := l.headers.headD 0
  let roles := gRoleList g
  let size := match bRing r with | 1 => 4 | 2 => 8 | _ => 0
  let s1 := takeCore s core n r
  let s2 := s1.setCore core { s1.core core with
    gang := some { id := launch, roles := gRoles g, pipes := gPipes g, pmap := gPmap g, done := 0, pipe := [] },
    ringSize := size, ringPos := if size = 0 then 0 else i % size, ringNo := if size = 0 then 0 else i / size,
    mc := 0, sc := 0, latch := Latch.empty }
  (roles.zip (upTo roles.length)).foldl (fun (acc : State × List Nat) (x : Nat × Nat) =>
    let h := (l.headers.drop (1 + x.2 * gNcore g + i)).headD 0
    let t := startTask acc.1 core (bRole r x.1) n r { Task.empty with header := h, colour := bColour r, gang := launch, role := x.1, launch := launch, origin := .gang } none
    (t, acc.2 ++ (t.partAt core (bRole r x.1)).task.toList)) (s2, [])

/-- Every instance of a gang starts; a gang without roles is done at once (R37). -/
def startGang (s : State) (launch n : Nat) (l : Launch) (r : BindRec) (cores : List Nat) : State :=
  let out := (cores.zip (upTo cores.length)).foldl (fun (acc : State × List Nat) (c : Nat × Nat) =>
    let a := startInstance acc.1 launch n l r c.1 c.2
    (a.1, acc.2 ++ a.2)) (s, [])
  let s1 := onLaunch out.1 launch (fun l => { l with gang := some launch, left := out.2.length, headers := [] })
  let gang : Gang := { launch := launch, cores := cores, tasks := out.2, ring := bRing r, discarded := 0 }
  gangLeave { s1 with
    sched := { s1.sched with gangs := Table.set s1.sched.gangs launch gang },
    parts := s1.parts.map (fun p => if p.2.reserved = some launch then (p.1, { p.2 with reserved := none }) else p) } launch

/-- What a roll call does now: the gang starts, or partitions are reserved for it. -/
def callRoll (s : State) (launch : Nat) : State :=
  match Table.find s.sched.launches launch with
  | none => s
  | some l =>
    if !pendingGang l then s
    else match gangRec s l with
      | none => s
      | some (d, n, r) =>
        let g := l.headers.headD 0
        let cores := recCores d r
        if !s.mgmt.stopped && cores.all (fun c => coreFits s launch c g r) then startGang s launch n l r cores
        else reserveParts s launch g r cores

/-- ROLL_CALL (R37, R182). -/
def execRollCall (launch : Nat) (s : State) : Out := .next (callRoll s launch)

/-- The roll call of a pending gang that changes something. -/
def rollCallDue (s : State) : Option Nat :=
  ((s.sched.launches.filter (fun e => pendingGang e.2)).map (·.1)).find? (fun id => decide (callRoll s id ≠ s))

/-- Reservations that a gang holds on a core of a record which serves its roll call no longer. -/
def lapsed (s : State) (die : Nat) (r : BindRec) (key : Nat) (p : Part) : Bool :=
  match p.reserved with
  | none => false
  | some launch =>
    let core := key / 8
    let l := Table.get Launch.empty s.sched.launches launch
    decide (dieOf core = die) && bCore r (core % Config.coresPerDie) && decide (bTarget r = lTarget l.record % 2 ^ 57)
      && decide (gangFor s core ≠ some launch)

/-- RESERVATION_LAPSE (R182): at the record's WEND. -/
def execReservationLapse (die rec : Nat) (s : State) : Out :=
  let r := s.bindRec die rec
  if bOpen r s.time then .next s
  else .next { s with parts := s.parts.map (fun p => if lapsed s die r p.1 p.2 then (p.1, { p.2 with reserved := none }) else p) }

/-- A record whose window has closed on reservations. -/
def lapseDue (s : State) : Option (Nat × Nat) :=
  if s.parts.all (fun p => p.2.reserved.isNone) then none
  else s.dies.findSome? (fun d => (d.2.bind.find? (fun r => !bOpen r.2 s.time && s.parts.any (fun p => lapsed s d.1 r.2 p.1 p.2))).map
    (fun r => (d.1, r.1)))

end Sys2Proof.Machine
end

