-- ==== Sys2Proof/Machine/L2.lean ====
section
/-! DEFINITION. The compressed L2 (R136 to R141), check values and array errors (R145 to R147), and the read-back of
L2 tags (R297, R421). -/

namespace Sys2Proof.Machine

/-! ### Stored images (R137) -/

/-- The stored image of a line under a code, padded to whole sectors. -/
def storedImage (ws : List Nat) (code : BitVec 3) (sectors : Nat) : List Byte :=
  let first := bytesOf 4 (ws.headD 0)
  let low := fun (n : Nat) => (ws.drop 1).flatMap (fun w => bytesOf n ((w + 2 ^ 32 - ws.headD 0) % 2 ^ 32))
  let body := match code.toNat with
    | 0 => []
    | 1 => first
    | 3 => first ++ low 1
    | 2 => bytesOf 4 (((ws.zip (upTo 32)).map (fun p => if p.1 ≠ 0 then 2 ^ p.2 else 0)).sum) ++ (ws.filter (fun w => w ≠ 0)).flatMap (bytesOf 4)
    | 4 => first ++ low 2
    | _ => ws.flatMap (bytesOf 4)
  body ++ List.replicate (32 * sectors - body.length) 0

/-! ### Sets (R136, R139, R140) -/

/-- The address of a line at its slice: device offset, remote device offset or host address. -/
def lineAddr (line : Nat) : Nat := line * 128 % 2 ^ (if line * 128 < 2 ^ 60 then 56 else 40)

/-- The set of a line. -/
def setOf (line : Nat) : Nat := lineAddr line / 32768 % 1536

/-- Tags and sector slots of a set that compressed data may take. -/
def tagLimit (d : Slice) : Nat := if d.pinned then 30 else 32
def slotLimit (d : Slice) : Nat := if d.pinned then 56 else 64

/-- Sector slots that some tags take. -/
def slotsOf (ts : List L2Tag) : Nat := (ts.map (·.sectors)).sum

/-- Evict lines in LRU order until `need` slots are free; the line `keep` and lines without sectors stay. The tags
stand most recently used first; the answer counts the evictions. -/
def evictFor (limit keep need : Nat) : Nat → List L2Tag → List L2Tag × Nat
  | 0, ts => (ts, 0)
  | fuel + 1, ts =>
    if slotsOf ts + need ≤ limit then (ts, 0)
    else match ts.reverse.find? (fun t => decide (t.line ≠ keep) && decide (0 < t.sectors)) with
      | none => (ts, 0)
      | some v =>
        let r := evictFor limit keep need fuel (ts.filter (fun t => t.line ≠ v.line))
        (r.1, r.2 + 1)

/-- A set after an access of a line whose encoding is e: the tags, and tag, sector and expansion evictions. A read
of a resident line changes its position only. -/
def accessSet (tags slots : Nat) (ts : List L2Tag) (line : Nat) (e : BitVec 3 × Nat) (write : Bool) : List L2Tag × Nat × Nat × Nat :=
  match ts.find? (fun t => t.line = line) with
  | some t =>
    let rest := ts.filter (fun u => u.line ≠ line)
    if !write then (t :: rest, 0, 0, 0)
    else
      let r := evictFor slots line e.2 32 rest
      ({ t with code := e.1, sectors := e.2, dirty := true } :: r.1, 0, 0, r.2)
  | none =>
    let kept := ts.take (tags - 1)
    let r := evictFor slots line e.2 32 kept
    ({ line := line, code := e.1, sectors := e.2, dirty := write } :: r.1, ts.length - kept.length, r.2, 0)

/-- A line's slice serves an access of it (R136, R138, R139). What an eviction writes back memory holds already. A line of
another device or of the host is held under a directory entry of the proxy (R280). -/
def l2Access (s : State) (line : Nat) (write : Option (BitVec 3 × Nat)) : State :=
  let n := sliceOf (line * 128)
  let d := s.slice n
  let (ts, a, b, c) := accessSet (tagLimit d) (slotLimit d) (Table.get [] d.sets (setOf line)) line (write.getD (encodeLine s line)) write.isSome
  let d1 := { d with sets := Table.set d.sets (setOf line) ts }
  let s1 := s.setSlice n (((d1.bump counterTag a).bump counterSector b).bump counterExpansion c)
  if homeOfLoc (line * 128) = .local then s1 else dirTake s1 [line * 128]

/-- L2_LINE_WRITE (R138). -/
def execL2LineWrite (line : Nat) (s : State) : Out := .next (l2Access s line (some (encodeLine s line)))

/-- The access that reaches the L2 next. -/
def l2Next (s : State) : Option State := match s.l2Due with
  | [] => none
  | (line, op) :: rest =>
    let s1 := { s with l2Due := rest }
    some (match op with
      | .read => l2Access s1 line none
      | .write code sectors => l2Access s1 line (some (code, sectors))
      | .drop => l2Discard s1 line)

/-! ### Pinned queue storage (R140) -/

/-- Some entry of SEGMAP names the slice. -/
def mapped (s : State) (slice : Nat) : Bool := (upTo 256).any (fun n => decide (segmap s n = slice))

/-- A slice that may give its pinned storage up. -/
def unpinnable (s : State) (n : Nat) : Bool := (s.slice n).pinned && !mapped s n && (s.seg n).entries.isEmpty

/-- SLICE_UNPIN (R140). -/
def execSliceUnpin (slice : Nat) (s : State) : Out :=
  if unpinnable s slice then .next (s.setSlice slice { s.slice slice with pinned := false }) else .next s

/-- A slice that is due to unpin. -/
def unpinDue (s : State) : Option Nat := if s.sched.segmap.isEmpty then none else (upTo 256).find? (unpinnable s)

/-- A slice that is due to pin again: it is named, or its segment holds entries. -/
def pinDue (s : State) : Option Nat :=
  if s.sched.segmap.isEmpty then none
  else (upTo 256).find? (fun n => !(s.slice n).pinned && (mapped s n || !(s.seg n).entries.isEmpty))

/-- A set gives up tags and slots for pinned storage: the tags, tag evictions and sector evictions. -/
def shrinkSet (ts : List L2Tag) : List L2Tag × Nat × Nat :=
  let kept := ts.take 30
  let r := evictFor 56 (2 ^ 64) 0 32 kept
  (r.1, ts.length - kept.length, r.2)

/-- A slice starts to pin. -/
def startPin (d : Slice) : Slice :=
  let rs : List (Nat × (List L2Tag × Nat × Nat)) := d.sets.map (fun e => (e.1, shrinkSet e.2))
  let d1 : Slice := { d with pinned := true, sets := rs.map (fun (r : Nat × (List L2Tag × Nat × Nat)) => (r.1, r.2.1)) }
  let tags := (rs.map (fun (r : Nat × (List L2Tag × Nat × Nat)) => r.2.2.1)).sum
  let sectors := (rs.map (fun (r : Nat × (List L2Tag × Nat × Nat)) => r.2.2.2)).sum
  (d1.bump counterTag tags).bump counterSector sectors

/-! ### Check values, poison and array errors (R145 to R147) -/

/-- CRC-16 of R145: one bit, most significant first. -/
def crcStep (c : Nat) (b : Bool) : Nat :=
  let top := decide (c / 2 ^ 15 % 2 = 1)
  let c1 := c * 2 % 2 ^ 16
  if top ≠ b then c1 ^^^ 0x1021 else c1

/-- The check value of some bytes. -/
def checkValue (bs : List Byte) : Nat :=
  bs.foldl (fun c b => (upTo 8).foldl (fun c i => crcStep c (bitOf b (7 - i))) c) 0xFFFF

/-- The home array of a place: a slice, or 256 and the number of a core for its scratchpad. -/
def arrayOf (l : Nat) : Nat := match homeOfLoc l with
  | .scratch c => 256 + c
  | _ => sliceOf l

/-- The place is in global memory, whose sectors carry check values (R145). -/
def isGlobal (l : Nat) : Bool := match homeOfLoc l with
  | .scratch _ => false
  | _ => true

/-- The number of another array of a core. -/
def coreArrayNo (a : CoreArray) (core : Nat) : Nat :=
  256 + (match a with | .l1d => 1 | .l1i => 2 | .vregs => 3) * Config.cores + core

/-- The core's array holds something at a place: a copy of its line, or registers. -/
def arrayHolds (a : CoreArray) (s : State) (core l : Nat) : Bool := match a with
  | .l1d => (s.core core).l1d.any (fun t => l1Holds t l)
  | .l1i => (s.core core).l1i.any (fun e => decide (e.1 = lineOf l))
  | .vregs => true

/-- An array counts soft errors that it has corrected (R147). -/
def countSoft (s : State) (a : Nat) : State :=
  { s with mgmt := { s.mgmt with softErrs := Table.set s.mgmt.softErrs a (Table.get 0 s.mgmt.softErrs a + 1) } }

/-- An array counts n uncorrectable errors (R147). -/
def countBad (s : State) (a n : Nat) : State :=
  { s with mgmt := { s.mgmt with badErrs := Table.set s.mgmt.badErrs a (Table.get 0 s.mgmt.badErrs a + n) } }

/-- An uncorrectable error poisons sectors of a line; its array counts them (R147). One in a scratchpad is only counted: no
check value and no poison bit is there, and the spec states no effect on its bytes (DESIGN CHOICE log 20). -/
def arrayPoison (s : State) (a line : Nat) (sectors : List Nat) : State :=
  let s1 := countBad s a sectors.length
  if isGlobal (line * 128) then poisonSectors s1 line sectors else s1

/-- A corrected error is counted for its array, and at its slice. -/
def arraySoft (s : State) (l : Nat) : State :=
  let s1 := countSoft s (arrayOf l)
  if arrayOf l < 256 then countAt s1 (lineOf l) counterSoft 1 else s1

/-- An error in an array of a core at a place: a copy that the array does not hold has none. One that cannot be corrected
poisons the sector of a copy; one in the vector registers, which hold no line, is only counted (DESIGN CHOICE log 20). -/
def coreArrayError (s : State) (a : CoreArray) (core l : Nat) (corrected : Bool) : State :=
  if !arrayHolds a s core l then s
  else if corrected then countSoft s (coreArrayNo a core)
  else if a = .vregs then countBad s (coreArrayNo a core) 1
  else arrayPoison s (coreArrayNo a core) (lineOf l) [sectorOf l]

/-- ARRAY_ERROR (R147): at the sector that holds a place. A soft error is corrected; an uncorrectable one poisons the
sector; an error in a tag makes the slice fetch a clean line again and poisons all of a dirty one; an error that no
ECC covers leaves a check value that does not match, which the next verification finds. -/
def execArrayError (kind : ArrayErr) (loc : Nat) (s : State) : Out :=
  let line := lineOf loc
  match kind with
  | .soft => .next (arraySoft s loc)
  | .inCore a core corrected => .next (coreArrayError s a core loc corrected)
  | .uncorrectable => .next (arrayPoison s (arrayOf (line * 128)) line [sectorOf loc])
  | .escaped => .next (if s.badCheck.contains (sectorOf loc) || !isGlobal loc then s else { s with badCheck := s.badCheck ++ [sectorOf loc] })
  | .tag =>
    match (Table.get [] (s.slice (sliceOf loc)).sets (setOf line)).find? (fun t => t.line = line) with
    | none => .next s
    | some t =>
      if t.dirty then .next (arrayPoison s (arrayOf (line * 128)) line ((upTo 4).map (fun i => line * 4 + i)))
      else .next (l2Access (l2Discard s line) line none)

/-! ### Read-back of tags (R297, R421) -/

/-- HOME of R421: 0 this device's memory, 1 another device's, 2 the host's. -/
def homeCode (line : Nat) : Nat := match homeOfLoc (line * 128) with
  | .peer _ => 1
  | .hostCoherent | .hostPosted => 2
  | _ => 0

/-- The device identifier that R421 gives beside HOME 01. -/
def homeDev (line : Nat) : Nat := match homeOfLoc (line * 128) with
  | .peer d => d
  | _ => 0

/-- RBDATA for the tag at a way of a set, as a number. Ways are numbered by LRU position (DESIGN CHOICE log 20); the
two tags that hold queue storage stand last, and their line is a free value. -/
def tagData (s : State) (slice set way : Nat) : Nat :=
  let d := s.slice slice
  let ts := Table.get [] d.sets set
  match ts.drop way with
  | t :: _ =>
    let poison := ((upTo 4).map (fun i => if s.poison.contains (t.line * 4 + i) then 2 ^ (57 + i) else 0)).sum
    let status := 2 ^ 63 + (if t.dirty then 2 ^ 61 else 0) + poison + t.code.toNat * 2 ^ 54 + way * 2 ^ 49 + t.sectors * 2 ^ 46 + homeCode t.line
    let checks := ((upTo 4).map (fun i => checkOf s (t.line * 4 + i) * 2 ^ (192 + 16 * i))).sum
    status + lineAddr t.line * 2 ^ 64 + homeDev t.line * 2 ^ 128 + checks
      + ofBytes (storedImage (lineWords s t.line) t.code t.sectors) * 2 ^ 256
  | [] =>
    if d.pinned && decide (30 ≤ way) then
      2 ^ 63 + 2 ^ 62 + 7 * 2 ^ 54 + way * 2 ^ 49 + 4 * 2 ^ 46 + Config.freeBits s.freeCnt % 2 ^ 49 * 128 * 2 ^ 64
        + Config.freeBits (s.freeCnt + 1) % 2 ^ 1088 * 2 ^ 192
    else 0
where
  /-- The stored check value of a sector; a free value that differs from the right one where they do not match. -/
  checkOf (s : State) (sector : Nat) : Nat :=
    let right := checkValue (s.mem.read (sector * 32) 32)
    if s.badCheck.contains sector then (right + 1 + Config.freeBits s.freeCnt % 65535) % 65536 else right

/-- What a read-back command leaves in a slice: bad says that it named nothing. -/
def Slice.readBack (d : Slice) (sel : Word) (bad : Bool) (data : Nat) : Slice :=
  { d with rbsel := sel, rbstat := if bad then 2 else 0, rbdata := BitVec.ofNat 2048 data }

/-- READBACK_L2_TAG (R297): RBSEL kind 0. -/
def execReadbackL2Tag (slice : Nat) (sel : Word) (s : State) : Out :=
  let set := bitsOf sel 10 0
  let bad := decide (1536 ≤ set)
  .next ({ s with freeCnt := s.freeCnt + 2 }.setSlice slice
    ((s.slice slice).readBack sel bad (if bad then 0 else tagData s slice set (bitsOf sel 15 11))))

/-- READBACK_QUEUE_ENTRY (R297): RBSEL kind 1. -/
def execReadbackQueueEntry (slice : Nat) (sel : Word) (s : State) : Out :=
  let i := bitsOf sel 12 0
  let bad := decide (6144 ≤ i)
  let data := match (s.seg slice).entries.drop i with
    | e :: _ => e.header.toNat + 2 ^ 512 * (2 ^ 63 + (if e.run then 2 ^ 62 else 0) + hPrio e.header * 2 ^ 60 + e.colour % 2 ^ 16 * 2 ^ 32
        + e.arrival % 2 ^ 32)
    | [] => 0
  .next (s.setSlice slice ((s.slice slice).readBack sel bad (if bad || inRingMode s slice then 0 else data)))

/-- READBACK_BAD_KIND (R297): a reserved kind. -/
def execReadbackBadKind (slice : Nat) (sel : Word) (s : State) : Out :=
  .next (s.setSlice slice ((s.slice slice).readBack sel true 0))

end Sys2Proof.Machine
end

