-- ==== Sys2Proof/Machine/Coherence.lean ====
section
/-! DEFINITION. Agents outside the device: the host (R284 to R286), leases (R287 to R289), owners and owner loss (R290,
R291), and the directory as the management interface reads it (R280, R292, R421). A host or fabric write that must wait for
a holder asks for the line and stays on the agenda; a read that must wait is made again by its agent. -/

namespace Sys2Proof.Machine

/-! ### Directory entries -/

/-- A line of this device's memory. -/
def ownLine (line : Nat) : Bool := decide (line * 128 + 128 ≤ Config.gddrBytes)

def dirEntry (s : State) (line : Nat) : DirEntry := (dirOf s line).getD DirEntry.empty

/-- Write an entry of a line, which is used so (R281). -/
def setDir (s : State) (line : Nat) (d : DirEntry) : State :=
  let n := sliceOf (line * 128)
  let sl := s.slice n
  dirTake (s.setSlice n { sl with dir := Table.set sl.dir line d }) [line * 128]

/-- An entry without leases. -/
def noLeases (d : DirEntry) : DirEntry := { d with exp := 0, nlease := 0, rdev0 := if d.rown then d.rdev0 else none, rdev1 := none }

/-- A region that is retired holds some byte of a range of device memory (R306). -/
def retiredIn (s : State) (l n : Nat) : Bool :=
  !s.mgmt.retired.isEmpty && decide (0 < n) && (upTo ((l + n - 1) / 2 ^ 21 + 1 - l / 2 ^ 21)).any (fun i => s.mgmt.retired.contains (l / 2 ^ 21 + i))

/-- Places of the four sectors of a line. -/
def lineSectors (line : Nat) : List Nat := (upTo 4).map (fun i => line * 128 + 32 * i)

/-! ### Writes that send notices (R284) -/

/-- A host write, or a fabric write of another device, enters the order of its lines: it makes fresh check values, and
the L1D copies of its grains are marked by a notice, which ends an MWAIT on a word of the grain. -/
def landNotice (s : State) (fabric : Bool) (bytes : Table Byte) : State :=
  let ok := admitted s bytes
  let ss := sectorsOf ok
  let s0 := notePathAt (countRefusals s bytes) 0 (ss.map (· / 4))
  let s1 := { s0 with mem := ok.foldl (fun m b => m.set b.1 b.2) s0.mem,
                      poison := s0.poison.filter (fun p => !ss.contains p),
                      badCheck := s0.badCheck.filter (fun p => !ss.contains p), blends := overBlends s0.blends ok }
  let ls := ss.map (· * 32)
  let hit := fun (c : CtxId) (w : Nat) => ls.any (fun l => ((s.core c.core).l1d).any (fun t => l1Holds t l && decide (regionOf l = regionOf w)
    && decide (l % 512 / t.grain = w % 512 / t.grain)))
  let s2 := notify s1 (fun c w => hit c w || ok.any (fun b => decide (w ≤ b.1) && decide (b.1 < w + 4)))
  let s3 := { s2 with cores := s2.cores.map (fun c => (c.1, { c.2 with l1d := ls.foldl (fun t l => l1Mark t l fabric) c.2.l1d })) }
  meetAtomics (toL2 s3 (ss.map (· / 4)) true) 0 ss

/-- The lines of n bytes from a place. -/
def linesAt (l n : Nat) : List Nat := if n = 0 then [] else (upTo (lineOf (l + n - 1) + 1 - lineOf l)).map (· + lineOf l)

/-- Leases or an owner other than `dev` hold the line. -/
def heldFrom (s : State) (dev : Option Nat) (line : Nat) : Bool := match dirOf s line with
  | some d => decide (0 < d.nlease) || (d.rown && !d.olost && !(dev.isSome && decide (d.rdev0 = dev)))
  | none => false

/-- The lines for which a host write must wait (R288). -/
def hostBlocked (s : State) (place n : Nat) : List Nat :=
  if homeOfLoc place ≠ .local || decide (Config.gddrBytes < place + n) || retiredIn s place n then []
  else (linesAt place n).filter (heldFrom s none)

/-- The lines for which a fabric write of a device must wait (R284, R288, R290). -/
def fabricBlocked (s : State) (dev offset n : Nat) : List Nat :=
  if Config.gddrBytes < offset + n || retiredIn s offset n then []
  else (linesAt offset n).filter (fun l => heldFrom s (some dev) l || (dirEntry s l).hostc)

/-- The line for which a command on a slot of the S-mode trap log must wait: one of the control block, which another device
owns, or the host caches. -/
def logBlocked (s : State) (slot : Nat) : List Nat := match Table.find s.mgmt.stl slot with
  | none => []
  | some r =>
    let id := recAt r 255 192
    if bitOf r 270 then []
    else match spillRead s id (cbAddr r (s.taskAt id).split 0) 1024 with
      | .ok _ => (cbHeld s r).toList
      | e => (awaited e).toList

/-- The lines of this device for which another device's read of a line must wait: its owner's (R287). -/
def readBlocked (s : State) (dev line : Nat) : List Nat :=
  if ownLine line && !ownerGone s line && !retiredIn s (line * 128) 128 && ownedAway s line && decide ((dirEntry s line).rdev0 ≠ some dev)
  then [line] else []

/-- The lines for which a host read must wait (R290). -/
def hostReadBlocked (s : State) (place n : Nat) : List Nat :=
  if Config.gddrBytes < place + n || retiredIn s place n then [] else (linesAt place n).filter (ownedAway s)

/-- The lines of some kind that have a directory entry here and hold bytes of a range of physical addresses. -/
def linesUnder (s : State) (kind : Nat → Bool) (pa n : Nat) : List Nat :=
  let ls := (s.slices.flatMap (fun e => e.2.dir.map (·.1))).filter kind
  if ls.isEmpty then []
  else
    let spots := (pieces 4096 (n / 4096 + 2) pa n).filterMap (fun p => (physical s p.1).map (fun q => (q.2, p.2)))
    ls.filter (fun line => spots.any (fun p => decide (p.1 < line * 128 + 128) && decide (line * 128 < p.1 + p.2)))

/-- The lines for which a firmware command must wait: of the image that STAGE reads, or of the report that ATTEST writes
(R284, R288, R290, R302, R303). -/
def firmwareBlocked (s : State) (attest : Bool) : List Nat :=
  if attest then (if s.bar0.fwstate = 4 then [] else linesUnder s (lineHeld s) s.bar0.fwaddr.toNat 1536)
  else if s.bar0.fwstate = 2 ∨ s.bar0.fwstate = 3 ∨ 2 ^ 26 < s.bar0.fwlen.toNat then []
  else linesUnder s (ownedAway s) s.bar0.fwaddr.toNat s.bar0.fwlen.toNat

/-- The lines for which an event must wait. Such an event asks for them, and stays on the agenda (R285). -/
def writeBlocked (s : State) (i : Instr) : List Nat := match i with
  | .hostWrite place data => hostBlocked s place data.length
  | .hostRead place n => hostReadBlocked s place n
  | .fabricWrite dev offset data => fabricBlocked s dev offset data.length
  | .remoteRead dev line => readBlocked s dev line
  | .stlResume slot => logBlocked s slot.toNat
  | .stlKill slot => logBlocked s slot.toNat
  | .stage => firmwareBlocked s false
  | .attest => firmwareBlocked s true
  | .registerWrite bar offset v =>
    if bar = 0 ∧ offset / 8 * 8 = 0x100 then (if v = 1 ∨ v = 2 then firmwareBlocked s (decide (v = 2)) else [])
    else if bar = 4 then hostBlocked s (offset / 8 * 8) 8
    else if bar = 2 ∧ offset / 8 * 8 % 2 ^ 32 = 0x13008 then logBlocked s (bitsOf v 5 0)
    else []
  | _ => []

/-- The host writes its own memory: the device's copies go, at the proxy's L2 too (R286). -/
def hostOwnWrite (s : State) (bytes : Table Byte) : State :=
  let ss := sectorsOf bytes
  let s1 := { s with mem := bytes.foldl (fun m b => m.set b.1 b.2) s.mem, poison := s.poison.filter (fun p => !ss.contains p),
                     badCheck := s.badCheck.filter (fun p => !ss.contains p), blends := overBlends s.blends bytes }
  let s2 := notify (l1LoseOthers s1 none (ss.map (· * 32))) (fun _ w => bytes.any (fun b => decide (w ≤ b.1) && decide (b.1 < w + 4)))
  { s2 with l2Due := s2.l2Due ++ ((ss.map (· / 4)).eraseDups).map (fun l => (l, L2Op.drop)) }

/-- HOST_WRITE (R284, R285): to device memory at a device offset, or by the host to its own memory, of which the L1Ds
lose their copies (R286). -/
def execHostWrite (place : Nat) (data : List Byte) (s : State) : Out :=
  match homeOfLoc place with
  | .local =>
    if Config.gddrBytes < place + data.length || retiredIn s place data.length then .next s
    else if !(hostBlocked s place data.length).isEmpty then .next ((hostBlocked s place data.length).foldl askHolders s)
    else .next (landNotice s false (tableAt place data))
  | .hostCoherent => .next (hostOwnWrite s (tableAt place data))
  | _ => .next s

/-- HOST_READ (R284): the data is verified as it leaves (R146); a line whose owner is lost answers with an error (R291). Whether the host caches the line over CXL.mem, which
sets HOSTC, is the host's choice: a free value. -/
def execHostRead (place n : Nat) (s : State) : Out :=
  let ls := linesAt place n
  if Config.gddrBytes < place + n || retiredIn s place n || ls.any (ownerGone s) then .next s
  else if !(hostReadBlocked s place n).isEmpty then .next ((hostReadBlocked s place n).foldl askHolders s)
  else
    let (f, s1) := s.draw
    let s2 := (sectorsAt place n).foldl (fun s x => l1ShareOthers (verifyAt s (x * 32)) none (x * 32)) s1
    let s3 := toL2 s2 ls false
    .next (ls.foldl (fun s l => if f.testBit 0 then setDir s l { dirEntry s l with hostc := true } else s) s3)

/-- A device becomes the owner: local holders are invalidated. -/
def grantOwner (s : State) (dev line : Nat) : State :=
  let s1 := l1LoseOthers s none (lineSectors line)
  let d := dirEntry s1 line
  setDir s1 line { noLeases d with rown := true, rdev0 := some dev, snoopAt := none, waiting := d.waiting.filter (fun x => x ≠ dev) }

/-- The oldest device that waits for a line becomes its owner once nothing holds the line, and no agent of this device has
made a write to it that it has still to publish (DESIGN CHOICE log 59); where more of them wait, the new
owner is snooped at once (R288, R290). -/
def grantWaiting (s : State) (line : Nat) : State :=
  match (dirEntry s line).waiting with
  | [] => s
  | dev :: rest =>
    if lineHeld s line || ownerGone s line || unpublished s line then s
    else
      let s1 := grantOwner s dev line
      if rest.isEmpty then s1 else askHolders s1 line

/-- BACK_INVALIDATION_ANSWER (R284). -/
def execBackInvalidationAnswer (line : Nat) (s : State) : Out :=
  match dirOf s line with
  | none => .next s
  | some d =>
    let s1 := grantWaiting (setDir s line { d with hostc := false }) line
    .next { s1 with mgmt := { s1.mgmt with hostPending := s1.mgmt.hostPending.filter (fun x => x ≠ line) } }

/-- HOST_SNOOP (R286): of a line of host memory that the device caches. A snoop for a write drops the copies; one for a
read leaves them shared. -/
def execHostSnoop (line : Nat) (write : Bool) (s : State) : Out :=
  if homeOfLoc (line * 128) ≠ .hostCoherent then .next s
  else if write then .next (l2Discard (l1LoseOthers s none (lineSectors line)) line)
  else
    let share := fun (t : L1Tag) => if t.region = regionOf (line * 128) then
        { t with states := t.states.map (fun g =>
            let lo := t.region * 512 + g.1 * t.grain
            if lo < line * 128 + 128 ∧ line * 128 < lo + t.grain ∧ g.2.has then (g.1, Mesi.shared) else g) }
      else t
    .next { s with cores := s.cores.map (fun c => (c.1, { c.2 with l1d := c.2.l1d.map share })) }

/-! ### Leases that this device holds (R287 to R289, R293) -/

/-- This device drops a line of another device from every cache, with the translations made from it. -/
def dropLine (s : State) (line : Nat) : State :=
  let s1 := l1iDropAll (l2Discard (l1LoseOthers s none (lineSectors line)) line) line
  let keep := fun (e : TlbEntry) => !e.leased.contains line
  { s1 with cores := s1.cores.map (fun c => (c.1, { c.2 with tlb := c.2.tlb.filter keep })),
            clusters := s1.clusters.map (fun c => (c.1, { c.2 with tlb := c.2.tlb.filter keep })),
            mgmt := { s1.mgmt with leased := Table.del s1.mgmt.leased line } }

/-- LEASE_DROP (R287): at EXP − 40 ns. -/
def execLeaseDrop (line : Nat) (s : State) : Out :=
  match Table.find s.mgmt.leased line with
  | some exp => if exp ≤ s.time + 40 then .next (dropLine s line) else .next s
  | none => .next s

/-- A lease that must be dropped now. -/
def leaseDropDue (s : State) : Option Nat := (s.mgmt.leased.find? (fun e => decide (e.2 ≤ s.time + 40))).map (·.1)

/-- LEASE_RECALL (R288). -/
def execLeaseRecall (line : Nat) (s : State) : Out :=
  if (Table.find s.mgmt.leased line).isSome then .next (dropLine s line) else .next s

/-- TIME_UNSYNC (R289). -/
def execTimeUnsync (s : State) : Out :=
  if s.bar0.unsync then .next s
  else
    let s1 := (s.mgmt.leased.map (·.1)).foldl dropLine s
    .next { s1 with bar0 := { s1.bar0 with unsync := true }, mgmt := { s1.mgmt with unsyncs := s1.mgmt.unsyncs + 1 } }

/-- TIME_SYNC_LOCK (R301). -/
def execTimeSyncLock (s : State) : Out := .next { s with bar0 := { s.bar0 with unsync := false } }

/-! ### Leases that this home has granted (R287 to R289) -/

/-- Record a reader. -/
def grantLease (d : DirEntry) (dev exp : Nat) : DirEntry :=
  let d1 := { d with exp := max d.exp exp, nlease := d.nlease + 1 }
  if d.rdev0.isNone then { d1 with rdev0 := some dev }
  else if d.rdev1.isNone then { d1 with rdev1 := some dev }
  else d1

/-- REMOTE_READ (R287): the home snoops an owner first, and answers the read once that has given the line back. An unsynchronised home grants no lease, and no home grants one to a
device that has not reported itself synchronised; which have is a free value (R289). -/
def execRemoteRead (dev line : Nat) (s : State) : Out :=
  if !ownLine line || ownerGone s line || retiredIn s (line * 128) 128 then .next s
  else if !(readBlocked s dev line).isEmpty then .next (askHolders s line)
  else
    let s1 := (lineSectors line).foldl (fun s l => l1ShareOthers (verifyAt s l) none l) (toL2 s [line] false)
    if s.bar0.unsync || !Config.peerSynced dev s.time then .next s1
    else .next (setDir s1 line (grantLease (dirEntry s1 line) dev (s.time + 1000 * s.mgmt.lease.toNat)))

/-- A device returns one lease. -/
def returnLease (d : DirEntry) (dev : Nat) : DirEntry :=
  if d.nlease ≤ 1 then noLeases d
  else if d.rown then { d with nlease := d.nlease - 1 }
  else if d.rdev0 = some dev then { d with nlease := d.nlease - 1, rdev0 := none }
  else if d.rdev1 = some dev then { d with nlease := d.nlease - 1, rdev1 := none }
  else { d with nlease := d.nlease - 1 }

/-- LEASE_RETURN (R288). -/
def execLeaseReturn (dev line : Nat) (s : State) : Out :=
  match dirOf s line with
  | some d => if d.nlease = 0 then .next s else .next (grantWaiting (setDir s line (returnLease d dev)) line)
  | none => .next s

/-- LEASE_EXPIRY (R287): at EXP + 40 ns. -/
def execLeaseExpiry (line : Nat) (s : State) : Out :=
  match dirOf s line with
  | some d => if 0 < d.nlease ∧ !s.bar0.unsync ∧ d.exp + 40 ≤ s.time then .next (grantWaiting (setDir s line (noLeases d)) line) else .next s
  | none => .next s

/-- UNSYNC_LEASE_TIMEOUT (R289): LEASE plus 1 µs after the grant, on the free-running counter. -/
def execUnsyncLeaseTimeout (line : Nat) (s : State) : Out :=
  match dirOf s line with
  | some d => if 0 < d.nlease ∧ s.bar0.unsync ∧ d.exp + 1000 ≤ s.time then .next (grantWaiting (setDir s line (noLeases d)) line) else .next s
  | none => .next s

/-- A granted lease that has run out. -/
def leaseExpiryDue (s : State) : Option Nat :=
  let wait := if s.bar0.unsync then 1000 else 40
  s.slices.findSome? (fun sl => (sl.2.dir.find? (fun e => decide (0 < e.2.nlease) && decide (e.2.exp + wait ≤ s.time))).map (·.1))

/-! ### Exclusive owners (R290, R291) -/

/-- A line that a device waits for and can have now. -/
def grantDue (s : State) : Option Nat :=
  s.slices.findSome? (fun sl => (sl.2.dir.find? (fun e =>
    !e.2.waiting.isEmpty && !lineHeld s e.1 && !ownerGone s e.1 && !unpublished s e.1)).map (·.1))

/-- REMOTE_OWNERSHIP (R290): leases are recalled and an owner or a caching host asked first, and unpublished writes of this
device come first. -/
def execRemoteOwnership (dev line : Nat) (s : State) : Out :=
  if !ownLine line || ownerGone s line || retiredIn s (line * 128) 128 then .next s
  else
    let d := dirEntry s line
    if d.rown && decide (d.rdev0 = some dev) then .next s
    else if lineHeld s line || unpublished s line then
      .next (askHolders (setDir s line { d with waiting := if d.waiting.contains dev then d.waiting else d.waiting ++ [dev] }) line)
    else .next (grantOwner s dev line)

/-- SNOOP_ANSWER (R290): the owner's data enters the line's order, and the oldest waiting device is granted. -/
def execSnoopAnswer (line : Nat) (data : List Byte) (s : State) : Out :=
  match dirOf s line with
  | none => .next s
  | some d =>
    match d.rown && !d.olost, d.snoopAt with
    | true, some t =>
      if t + 200000 < s.time then .next s
      else
        let s1 := setDir s line { d with rown := false, rdev0 := none, snoopAt := none }
        let new := (tableAt (line * 128) (data.take 128)).filter (fun b => decide (s.mem.get b.1 ≠ b.2))
        .next (grantWaiting (land s1 none none 0 new) line)
    | _, _ => .next s

/-- The physical address under which a line of this device is logged: that of the first window which reaches it. -/
def linePa (s : State) (line : Nat) : Nat :=
  let o := line * 128
  let reaches := fun (w : Nat) => match physical s (w * 2 ^ 38 + o % 2 ^ 38) with
    | some (.local, l) => decide (l = o)
    | _ => false
  match s.mgmt.homemap.find? (fun e => reaches e.1) with
  | some e => e.1 * 2 ^ 38 + o % 2 ^ 38
  | none => o

/-- A snoop has gone unanswered for 200 µs. -/
def ownerSilent (s : State) (d : DirEntry) : Bool := d.rown && !d.olost && (match d.snoopAt with
  | some t => decide (t + 200000 ≤ s.time)
  | none => false)

/-- OWNER_LOST (R291). -/
def execOwnerLost (line : Nat) (s : State) : Out :=
  match dirOf s line with
  | none => .next s
  | some d =>
    if !ownerSilent s d then .next s
    else
      let s1 := setDir s line { d with olost := true, snoopAt := none, waiting := [] }
      let sectors := (upTo 4).map (fun i => line * 4 + i)
      let s2 := { s1 with poison := s1.poison ++ sectors.filter (fun x => !s1.poison.contains x) }
      let m := s2.mgmt
      let log := Table.set m.ollog (m.olcount.toNat % 64) (BitVec.ofNat 64 (linePa s line))
      let m1 := { m with olcount := BitVec.ofNat 64 ((m.olcount.toNat + 1) % 2 ^ 32), ollog := log }
      .next (toL2 { s2 with mgmt := m1 } [line] true)

/-- A line whose owner is lost now. -/
def ownerLostDue (s : State) : Option Nat :=
  s.slices.findSome? (fun sl => (sl.2.dir.find? (fun e => ownerSilent s e.2)).map (·.1))

/-- This device gives up a line that it owned. -/
def giveUp (s : State) (line : Nat) : State :=
  let s1 := l1iDropAll (l2Discard (l1LoseOthers s none (lineSectors line)) line) line
  { s1 with mgmt := { s1.mgmt with owned := s1.mgmt.owned.filter (fun x => x ≠ line) } }

/-- LATE_SNOOP_ANSWER (R291): the home refuses it; where this device is the late owner it drops the line and counts. -/
def execLateSnoopAnswer (dev line : Nat) (s : State) : Out :=
  if dev = bitsOf s.mgmt.devid 13 0 ∧ s.mgmt.owned.contains line then
    let s1 := giveUp s line
    .next { s1 with mgmt := { s1.mgmt with refused := s1.mgmt.refused + 1 } }
  else .next s

/-- OWNER_SNOOP (R290): this device returns a line that it owns to its home. Once removed it answers no snoop (R306). -/
def execOwnerSnoop (line : Nat) (s : State) : Out :=
  if s.mgmt.inService && s.mgmt.owned.contains line then .next (giveUp s line) else .next s

/-- FABRIC_WRITE (R290, R284): another device's write at a device offset. -/
def execFabricWrite (dev offset : Nat) (data : List Byte) (s : State) : Out :=
  if Config.gddrBytes < offset + data.length || retiredIn s offset data.length then .next s
  else if !(fabricBlocked s dev offset data.length).isEmpty then .next ((fabricBlocked s dev offset data.length).foldl askHolders s)
  else .next (landNotice s true (tableAt offset data))

/-! ### Entries are made (R281) -/

/-- An entry is evicted: the L1D copies that it records are invalidated, and the eviction is counted. At a proxy slice the
device gives the line up. What an entry of a home records of other devices and of the host is kept until they have given
the line back (DESIGN CHOICE log 25). -/
def dirEvict (s : State) (p : Nat) : State :=
  let s1 := l1LoseOthers s none [p]
  let n := sliceOf p
  let s2 := s1.setSlice n { s1.slice n with dirEvictions := (s1.slice n).dirEvictions + 1 }
  let s3 := if p % 128 = 0 && proxyHeld s (lineOf p) then giveUp (dropLine s2 (lineOf p)) (lineOf p) else s2
  { s3 with dirUse := s3.dirUse.filter (fun q => q ≠ p) }

/-- The entry that is needed next is made, once another has gone where its set is full. -/
def dirStep (s : State) : Option State := match s.dirDue with
  | [] => none
  | p :: ps => match dirOver s p with
    | some v => some (dirEvict s v)
    | none => some { s with dirDue := ps, dirUse := p :: s.dirUse.filter (fun q => q ≠ p) }

/-! ### The directory as it is read (R280, R421) -/

/-- The grain of a place as it is read: its holders, and whether one holds it exclusive or modified. -/
def holdersOf (s : State) (l : Nat) : List Nat × Bool :=
  let hs := s.cores.filter (fun c => c.2.l1d.any (fun t => l1Holds t l))
  (hs.map (·.1), hs.any (fun c => c.2.l1d.any (fun t => l1Holds t l && (match Table.get Mesi.invalid t.states (l % 512 / t.grain) with
    | .exclusive | .modified => true
    | _ => false))))

/-- An entry in the map of R280, for the grain of a place of its line. -/
def dirWord (s : State) (line l : Nat) : Nat :=
  let d := dirEntry s line
  let (hs, excl) := holdersOf s l
  let n := hs.length
  let local' := if n = 0 then 0
    else if n ≤ 3 then 2 ^ 34 + (if excl then 2 else 1) * 2 ^ 32 + n * 2 ^ 30 + ((hs.zip (upTo 3)).map (fun p => p.1 * 2 ^ (10 * p.2))).sum
    else 2 * 2 ^ 34 + 2 ^ 32 + (((hs.map (· / 32)).eraseDups).map (fun g => 2 ^ (128 + g))).sum
  let narrow := match narrowScope s line with
    | some scope => scope % 8 * 2 ^ 155 + 2 ^ 158
    | none => 0
  local' + (if d.hostc then 2 ^ 154 else 0) + narrow + (if d.olost then 2 ^ 159 else 0)
    + (if d.rown then 2 ^ 160 else 0) + min 7 d.nlease * 2 ^ 161 + d.rdev0.getD 0 % 2 ^ 14 * 2 ^ 164 + d.rdev1.getD 0 % 2 ^ 14 * 2 ^ 178
    + d.exp % 2 ^ 64 * 2 ^ 192

/-- The lines, and the places of their grains, for which a slice has an entry, ascending: those that L1Ds hold, those that
other devices or the host hold, and at a proxy slice the lines that this device holds, its L2 alone among them (R280). -/
def dirLines (s : State) (slice : Nat) : List (Nat × Nat) :=
  let grains := (s.cores.flatMap (fun c => c.2.l1d.flatMap (fun t => (t.states.filter (fun g => g.2.has)).flatMap (fun g =>
    let lo := t.region * 512 + g.1 * t.grain
    if t.grain = 32 then [lo] else (upTo (t.grain / 128)).map (fun i => lo + 128 * i))))).filter (fun l => sliceOf l = slice)
  let recorded := ((s.slice slice).dir.filter (fun e => e.2 ≠ DirEntry.empty)).map (fun e => e.1 * 128)
  let cached := ((s.slice slice).sets.flatMap (fun e => e.2.map (·.line))).filter (fun l => homeOfLoc (l * 128) ≠ .local)
  let remote := ((s.mgmt.leased.map (·.1) ++ s.mgmt.owned ++ cached).map (· * 128)).filter (fun l => sliceOf l = slice)
  let all := recorded ++ remote ++ grains
  (all.foldl (fun (t : Table Unit) l => Table.set t l ()) []).map (fun e => (lineOf e.1, e.1))

/-- RBDATA for a way of a set of a slice's directory. The entries of a set are numbered in ascending order of their lines
(DESIGN CHOICE log 20). -/
def dirData (s : State) (slice set way : Nat) : Nat :=
  match ((dirLines s slice).filter (fun e => e.2 / 32768 % 12288 = set)).drop way with
  | (line, l) :: _ => dirWord s line l + 2 ^ 256 * (2 ^ 63 + homeCode line) + lineAddr line * 2 ^ 320 + homeDev line * 2 ^ 384
  | [] => 0

/-- READBACK_DIRECTORY (R297): RBSEL kind 2. -/
def execReadbackDirectory (slice : Nat) (sel : Word) (s : State) : Out :=
  let set := bitsOf sel 17 4
  let bad := decide (12288 ≤ set)
  .next (s.setSlice slice ((s.slice slice).readBack sel bad (if bad then 0 else dirData s slice set (bitsOf sel 3 0))))

/-! ### Directory management (R292) -/

/-- The line that DMADDR names, where this device is its home. -/
def dmLine (s : State) : Option Nat :=
  match physical s (bitsOf s.mgmt.dmaddr 51 7 * 128) with
  | some (.local, l) => some (lineOf l)
  | _ => none

/-- A command has run: its error code. -/
def dmDone (s : State) (err : Nat) : State := { s with mgmt := { s.mgmt with dmstat := BitVec.ofNat 64 err } }

/-- DM_READ (R292). -/
def execDmRead (s : State) : Out :=
  match dmLine s with
  | some line => let s1 := dmDone s 0
                 .next { s1 with mgmt := { s1.mgmt with dmdata := BitVec.ofNat 256 (dirWord s line (line * 128)) } }
  | none => .next (dmDone s 2)

/-- RECLAIM (R292). -/
def execReclaim (s : State) : Out :=
  match dmLine s with
  | none => .next (dmDone s 2)
  | some line =>
    let d := dirEntry s line
    if !d.olost then .next (dmDone s 3)
    else .next (dmDone (setDir s line { d with olost := false, rown := false, rdev0 := none }) 0)

/-- A device is forgotten: NLEASE falls by 1, and the field that records the device, where one does, is cleared (R292). -/
def forgetLease (d : DirEntry) (dev : Nat) : DirEntry :=
  { d with nlease := d.nlease - 1, exp := if d.nlease ≤ 1 then 0 else d.exp,
           rdev0 := if !d.rown && decide (d.rdev0 = some dev) then none else d.rdev0,
           rdev1 := if d.rdev1 = some dev then none else d.rdev1 }

/-- FORGET (R292): where the device is not recorded, NLEASE still falls by 1. -/
def execForget (dev : BitVec 14) (s : State) : Out :=
  match dmLine s with
  | none => .next (dmDone s 2)
  | some line =>
    let d := dirEntry s line
    .next (dmDone (if d.nlease = 0 then s else grantWaiting (setDir s line (forgetLease d dev.toNat)) line) 0)

/-- DM_BAD_COMMAND (R292). -/
def execDmBadCommand (s : State) : Out := .next (dmDone s 1)

end Sys2Proof.Machine
end

