-- ==== Sys2Proof/Machine/Super.lean ====
section
/-! DEFINITION. Resolving trap records (R271, R371, R423) and invalidating translations (R277, R372). -/

namespace Sys2Proof.Machine

/-! ### TRESUME and TKILL -/

/-- First byte of the control block that a record names. -/
def cbStart (s : State) (r : BitVec 1024) : Nat := cbAddr r (s.taskAt (recAt r 255 192)).split 0

/-- The record may be resolved: it is PARKED and not FINAL, its TRAP bit stands, and it names a parked task whose
control block this is. -/
def resolvable (s : State) (r : BitVec 1024) (cb : List Byte) : Bool :=
  let t := s.taskAt (recAt r 255 192)
  bitOf r 269 && !bitOf r 270 && decide (bytesAt cb 448 1 / 4 % 2 = 1) && decide (bytesAt cb 456 8 = recAt r 255 192)
    && decide (t.state = .parked) && t.trapOpen && decide (t.spill = recAt r 191 128)

/-- The acting context reads n bytes as a global load, page by page: the bytes, and the state that has read them. -/
def readGlobal (s : State) (a : Word) (n : Nat) : Except Halt (List Byte × State) := do
  let ts ← checkWhole s s.who ((pagePieces (gva a).toNat n).map (fun p => accGv (BitVec.ofNat 64 p.1) p.2 .load false))
  .ok (loadRun s ts, noteRun s ts)

/-- The common part of TRESUME and TKILL: the record, its control block and the state that has read them. -/
def resolveForm (s : State) (s1 : Reg) : Except Halt (BitVec 1024 × List Byte × State) := do
  privileged s
  let a := s.x s1
  trapIf (decide (a.toNat % 128 ≠ 0)) (trapAt .misaligned 0 0 (gva a))
  let (rb, r1) ← readGlobal s a 128
  let r : BitVec 1024 := BitVec.ofNat 1024 (ofBytes rb)
  let (cb, r2) ← readGlobal r1 (BitVec.ofNat 64 (cbStart s r)) 1024
  trapIf (!resolvable s r cb) (trapOf .perm 4)
  .ok (r, cb, r2)

/-- The device may write the control block now: a line of it that another device or the host holds comes back first (R288). -/
def cbFree (s : State) (r : BitVec 1024) : Except Halt Unit := match cbHeld s r with
  | some line => .error (.wait (.held line))
  | none => .ok ()

/-- TRESUME (R271, R371). -/
def execTresume (s1 : Reg) (s : State) : Out :=
  finish s (do
    let (r, cb, r2) ← resolveForm s s1
    illegalIf (decide (bytesAt cb 0 8 % 4 ≠ 0))
    r2.readyToRelease
    cbFree r2 r
    .ok ((resumeTask r2.releaseMe r (bytesAt cb 0 8)).retire 8))

/-- TKILL (R271, R371). -/
def execTkill (s1 : Reg) (s : State) : Out :=
  finish s (do
    let (r, _, r2) ← resolveForm s s1
    r2.readyToRelease
    cbFree r2 r
    .ok ((killTask r2.releaseMe r).retire 8))

/-! ### The S-mode trap log (R423) -/

/-- A command on a slot: refused, or its effect; a FINAL record is freed with no other effect. The control block is read as
the core on which the task parked reaches it. -/
def logCommand (s : State) (slot : Nat) (cmd : Nat) (kill : Bool) : State :=
  let done := fun (s : State) (stat : Word) => { s with mgmt := { s.mgmt with stlCmd := BitVec.ofNat 64 cmd, stlStat := stat } }
  let free := fun (s : State) => { s with mgmt := { s.mgmt with stl := Table.del s.mgmt.stl slot } }
  match Table.find s.mgmt.stl slot with
  | none => done s 1
  | some r =>
    if bitOf r 270 then done (free s) 0
    else match spillRead s (recAt r 255 192) (cbStart s r) 1024, cbHeld s r with
      | .error (.wait (.snoop line _)), _ => askHolders s line
      | .error _, _ => done s 1
      | .ok _, some line => askHolders s line
      | .ok cb, none =>
        if !resolvable s r cb || (!kill && decide (bytesAt cb 0 8 % 4 ≠ 0)) then done s 1
        else done (free (if kill then killTask s r else resumeTask s r (bytesAt cb 0 8))) 0

/-- STL_RESUME (R423). -/
def execStlResume (slot : BitVec 6) (s : State) : Out := .next (logCommand s slot.toNat slot.toNat false)
/-- STL_KILL (R423). -/
def execStlKill (slot : BitVec 6) (s : State) : Out := .next (logCommand s slot.toNat (slot.toNat + 256) true)

/-! ### TLBINV (R277, R372) -/

/-- Drop the translations that p names from every TLB of the device. -/
def dropTlb (s : State) (p : TlbEntry → Bool) : State :=
  let keep := fun (e : TlbEntry) => !p e
  { s with cores := s.cores.map (fun c => (c.1, { c.2 with tlb := c.2.tlb.filter keep })),
           clusters := s.clusters.map (fun c => (c.1, { c.2 with tlb := c.2.tlb.filter keep })) }

/-- TLBINV and TLBINV.COL: a release, then the entries go. -/
def tlbinvForm (s : State) (p : TlbEntry → Bool) : Out :=
  finish s (do
    privileged s
    s.readyToRelease
    .ok ((dropTlb s.releaseMe p).retire 8))

/-- TLBINV (R277). -/
def execTlbinv (s1 s2 : Reg) (s : State) : Out :=
  tlbinvForm s (fun e => e.hits ((s.x s2).toNat % 2 ^ 16) ((s.x s1).toNat % 2 ^ 57))

/-- TLBINV.COL (R277). -/
def execTlbinvCol (_s1 s2 : Reg) (s : State) : Out :=
  tlbinvForm s (fun e => decide (e.colour = (s.x s2).toNat % 2 ^ 16))

end Sys2Proof.Machine
end

