-- ==== Sys2Proof/Machine/Bell.lean ====
section
/-! DEFINITION. Bell time: a colour is switched out and another in (R272, R273). The save area's layout is not in the
spec: what it holds is held as what it is, in `saved`. -/

namespace Sys2Proof.Machine

/-! ### The bell -/

/-- The cores of a record's set on which its window ends with a bell, and that hold its colour. -/
def bellCores (s : State) (die : Nat) (r : BindRec) : List Nat :=
  (recCores die r).filter (fun c => bellOn s die r (c % Config.coresPerDie) && decide ((s.core c).colour = some (bColour r)))

/-- The record's window has ended with a bell that has not begun. -/
def bellRings (s : State) (die n : Nat) : Bool :=
  let r := s.bindRec die n
  decide (bWend r ≤ s.time) && (Table.find (s.die die).bellAt n).isNone && !(bellCores s die r).isEmpty

/-- BELL (R272 step 1): dispatch of the colour stops on the set, and the grace period starts. -/
def execBell (die rec : Nat) (s : State) : Out :=
  if !bellRings s die rec then .next s
  else
    let d := s.die die
    .next (s.setDie die { d with bellAt := Table.set d.bellAt rec (bWend (s.bindRec die rec)) })

/-- A bell that is due. -/
def bellDue (s : State) : Option (Nat × Nat) :=
  s.dies.findSome? (fun d => (d.2.bind.find? (fun r => bellRings s d.1 r.1)).map (fun r => (d.1, r.1)))

/-! ### The deadline (R272 steps 3 to 5) -/

/-- A line that keeps a task from being parked: one of its unpublished stores is held by another device or the host (R162). -/
def parkLine (s : State) (id : Nat) : Option Nat :=
  let t := s.taskAt id
  let main : CtxId := { core := t.core, part := t.part, tail := false }
  heldLine s ((s.ctx main).pend ++ (s.ctx main.other).pend)

/-- A remaining task is hard-stopped: an atomic task goes back to its header, any other parks, or waits for a line. -/
def hardStop (s : State) (id : Nat) : Except Nat State :=
  let t := s.taskAt id
  if t.state = .done ∨ t.state = .parked then .ok s
  else if t.atomic then .ok (abortTask s id [])
  else
    let main : CtxId := { core := t.core, part := t.part, tail := false }
    match parkLine s id with
    | some line => .error line
    | none =>
      let r := parkTask s id (fun c => (s.ctx { main with tail := c }).pc) false false
      match r, awaited r with
      | .ok s1, _ => .ok s1
      | .error (.trap f), _ => .ok (parkFails s id false f)
      | .error _, some line => .error line
      | .error _, none => .ok s

/-- Every task is hard-stopped that can be: the state, and the line for which one waits. -/
def stopAll (s : State) : List Nat → State × Option Nat
  | [] => (s, none)
  | id :: ids => match hardStop s id with
    | .ok s1 => stopAll s1 ids
    | .error line => ((stopAll s ids).1, some line)

/-- The tasks of a core. -/
def tasksOn (s : State) (core : Nat) : List Nat := (upTo 8).filterMap (fun p => (s.partAt core p).task)

/-- The ranges that a request reads and writes: addresses and bytes (R191, R215, R221, R231). -/
def mRanges (m : Msg) : List (Nat × Nat) :=
  let w1 := m.w1.toNat
  let w2 := m.w2.toNat
  match mEng m with
  | 0 => (if mOp m = 1 then [] else [(w1, mLen m)]) ++ [(w2, mLen m)]
  | 1 => if mOp m = 1 then [(w1, 64 * (mArg m % 2 ^ 10 + 1)), (w2, 32 * (mArg m % 2 ^ 10 + 1))] else [(w1, 64), (w2, 16 * (mArg m % 2 ^ 16))]
  | 2 => [(w1, 64 + 16 * (mArg m % 2 ^ 16)), (w2, 16 * (mArg m % 2 ^ 16))]
  | _ => []

/-- The cores whose scratchpads or slots a message is for: its reply's, and those that its ranges reach (R121, R188). -/
def aimedAt (m : Msg) : List Nat :=
  (if mRkind m = 1 then [replyCore m] else [])
    ++ (mRanges m).flatMap (fun r => (pagePieces r.1 r.2).filterMap (fun p =>
        let a := gva (BitVec.ofNat 64 p.1)
        if inWindow a then (windowPlace m.core a 1).map (·.1) else none))

/-- A message belongs to the colour, and a core of the list has sent it or is its target. -/
def packetOf (colour : Nat) (cores : List Nat) (m : Msg) : Bool :=
  decide (m.colour = colour) && (cores.contains m.core || (aimedAt m).any cores.contains)

/-- The messages of the colour that engines hold for the cores, requests in progress first, and those in the command FIFOs of
other cores that are aimed at them (R272, R273). -/
def packetsOf (s : State) (colour : Nat) (cores : List Nat) : List Msg :=
  let mine := packetOf colour cores
  (s.parts.filter (fun p => !cores.contains (p.1 / 8))).flatMap (fun p => p.2.fifo.filter mine)
    ++ s.clusters.flatMap (fun u => (u.2.aside.map (·.msg)).filter mine ++ u.2.inbox.flatMap (fun q => q.2.filter mine))
    ++ (s.fill.waits.map (·.msg)).filter mine ++ s.fill.inbox.filter mine

/-- The core of a list in whose cluster a unit is; the fill unit's traffic belongs to every core of the partition's die. -/
def unitNear (unit die : Nat) (cores : List Nat) : Bool :=
  cores.any (fun c => if unit = fillUnitNo then decide (dieOf c = die) else decide (c / 4 = unit / 4))

/-- A diverted message of the colour in the fabric near the cores. -/
def divertOf (colour : Nat) (cores : List Nat) (d : Divert) : Bool := decide (d.colour = colour) && unitNear d.unit d.die cores

/-- A completion record of the colour that still waits: of a task of the cores, or of an engine near them. -/
def dueNear (s : State) (colour : Nat) (cores : List Nat) (d : DueRecord) : Bool :=
  decide (d.colour = colour) && (match d.task, d.unit with
    | some id, _ => cores.contains (s.taskAt id).core
    | none, some u => cores.any (fun c => unitNear u (dieOf c) [c])
    | none, none => false)

/-- They leave the engines and the FIFOs. -/
def dropPackets (s : State) (colour : Nat) (cores : List Nat) : State :=
  let keep := fun (m : Msg) => !packetOf colour cores m
  { s with
    parts := s.parts.map (fun p => if cores.contains (p.1 / 8) then p else (p.1, { p.2 with fifo := p.2.fifo.filter keep })),
    clusters := s.clusters.map (fun u => (u.1, { u.2 with
      aside := u.2.aside.filter (fun a => keep a.msg), inbox := u.2.inbox.map (fun q => (q.1, q.2.filter keep)) })),
    fill := { s.fill with waits := s.fill.waits.filter (fun a => keep a.msg), inbox := s.fill.inbox.filter keep } }

/-- A place in the scratchpad of one of the cores. -/
def inSpads (cores : List Nat) (l : Nat) : Bool := match homeOfLoc l with
  | .scratch c => cores.contains c
  | _ => false

/-- A core without a colour. -/
def bareCore (c : Core) : Core := { Core.empty with split := c.split, tlb := c.tlb, filtered := c.filtered, issued := c.issued }

/-- The colour's state on the cores is saved and leaves them. Its segment entries go too where no other core of the die
holds it. -/
def switchOut (s : State) (die n : Nat) (colour : Nat) (cores : List Nat) : State :=
  let inSet := fun (k : Nat) => cores.contains k
  let last := !s.cores.any (fun c => decide (dieOf c.1 = die) && !inSet c.1 && decide (c.2.colour = some colour))
  let home := fun (k : Nat) => decide (homeDie k = die)
  let entries := if last then (s.sched.segs.filter (fun g => home g.1)).map (fun g => (g.1, g.2.entries.filter (fun e => e.colour = colour))) else []
  let saved : Saved :=
    { die := die, recNo := n, colour := colour, cores := s.cores.filter (fun c => inSet c.1),
      parts := s.parts.filter (fun p => inSet (p.1 / 8)), ctxs := s.ctxs.filter (fun c => inSet (c.1 / 16)),
      spads := s.mem.filter (fun b => inSpads cores b.1), packets := packetsOf s colour cores,
      diverts := s.sched.diverts.filter (divertOf colour cores), due := s.sched.due.filter (dueNear s colour cores),
      teams := s.sched.teams.filter (fun t => decide (t.colour = colour) && decide (t.dst = die)), entries := entries }
  let s1 := cores.foldl (fun s c => let k := s.core c
                                    (clearCore s c).setCore c (bareCore k)) (dropPackets s colour cores)
  let segs := if last then s1.sched.segs.map (fun g =>
      if home g.1 then (g.1, { g.2 with entries := g.2.entries.filter (fun e => e.colour ≠ colour) }) else g) else s1.sched.segs
  refreshStalls { s1 with
    parts := s1.parts.filter (fun p => !inSet (p.1 / 8)), ctxs := s1.ctxs.filter (fun c => !inSet (c.1 / 16)),
    sched := { s1.sched with segs := segs, diverts := s1.sched.diverts.filter (fun d => !divertOf colour cores d),
                             due := s1.sched.due.filter (fun d => !dueNear s colour cores d), teams := s1.sched.teams.filter (fun t => !(decide (t.colour = colour) && decide (t.dst = die))) },
    saved := s1.saved ++ [saved] }

/-- The grace period of a bell has run out. -/
def graceOver (s : State) (die n : Nat) : Bool :=
  match Table.find (s.die die).bellAt n with
  | none => false
  | some t => decide (t + 20000 ≤ s.time) && !(bellCores s die (s.bindRec die n)).isEmpty

/-- BELL_DEADLINE (R272). While a task waits for a line before it can park, those who hold the line are asked for it. -/
def execBellDeadline (die rec : Nat) (s : State) : Out :=
  if !graceOver s die rec then .next s
  else
    let r := s.bindRec die rec
    let cores := bellCores s die r
    match stopAll s (cores.flatMap (tasksOn s)) with
    | (s1, some line) => .next (askHolders s1 line)
    | (s1, none) => .next (switchOut s1 die rec (bColour r) cores)

/-- The deadline has something to do: it does not only wait for a line that has been asked for. -/
def deadlineMoves (s : State) (die n : Nat) : Bool :=
  graceOver s die n && (match stopAll s ((bellCores s die (s.bindRec die n)).flatMap (tasksOn s)) with
    | (_, some line) => !asked s line
    | (_, none) => true)

/-- A bell whose deadline is due. -/
def deadlineDue (s : State) : Option (Nat × Nat) :=
  s.dies.findSome? (fun d => (d.2.bellAt.find? (fun b => deadlineMoves s d.1 b.1)).map (fun b => (d.1, b.1)))

/-! ### Switching in (R272 step 6) -/

/-- A saved queue copy as it returns: blocks that have left TURNING meanwhile no longer withhold it. -/
def freshEntry (s : State) (e : QEntry) : QEntry := { e with withheld := turningOf s e.withheld }

/-- The copies whose tasks are not done. -/
def liveEntries (s : State) (es : List QEntry) : List QEntry :=
  (es.filter (fun e => match e.task with
    | some id => decide ((s.taskAt id).state ≠ .done)
    | none => true)).map (freshEntry s)

/-- Segment entries, teams, packets and records of a saved colour return; a packet, in the order of its hart's messages, once no core that it needs is still
saved; a record, with the first core near it. rest: what stays saved. -/
def restoreShared (s : State) (v : Saved) (rest : Table Core) (core : Nat) : State :=
  let segs := v.entries.foldl (fun (t : Table Seg) e =>
    let g := Table.get Seg.empty t e.1
    if e.2.isEmpty then t else Table.set t e.1 { g with entries := liveEntries s e.2 ++ g.entries }) s.sched.segs
  let s1 := { s with sched := { s.sched with segs := segs, teams := s.sched.teams ++ v.teams,
                                             diverts := s.sched.diverts ++ v.diverts.filter (divertOf v.colour [core]),
                                             due := s.sched.due ++ v.due.filter (dueNear s v.colour [core]) } }
  (v.packets.filter (fun m => !packetOf v.colour (rest.map (·.1)) m)).foldl (fun s m => setInbox s m (inOrder m (inboxOf s m))) s1

/-- A partition as it returns: a task that was killed meanwhile has left it, unless its completion record is still due. -/
def freshPart (s : State) (p : Part) : Part := match p.task with
  | some id => if (s.taskAt id).state = .done && !(s.taskAt id).endDue then { p with task := none, tfg := Tfg.zero } else p
  | none => p

/-- The colour that a bell saved returns to a core under record n. -/
def restoreCore (s : State) (core n : Nat) (r : BindRec) : State :=
  match s.saved.find? (fun v => decide (v.colour = bColour r) && (Table.find v.cores core).isSome) with
  | none => s
  | some v =>
    let k := Table.get Core.empty v.cores core
    let mine := fun (l : Nat) => inSpads [core] l
    let s1 := clearCore s core
    let parts := (v.parts.filter (fun p => p.1 / 8 = core)).map (fun p => (p.1, freshPart s p.2))
    let dead := parts.filterMap (fun p => if p.2.task.isNone then some p.1 else none)
    let ctxs := v.ctxs.filter (fun c => decide (c.1 / 16 = core) && !dead.contains (c.1 / 2))
    let s2 := s1.setCore core { k with
      colour := some (bColour r), pkey := bPkey r, die := dieOf core, recNo := n, l1d := [], tlb := (s1.core core).tlb,
      filtered := (s1.core core).filtered, deque := liveEntries s k.deque, copies := liveEntries s k.copies }
    let left := Table.del v.cores core
    let v1 := { v with cores := left, entries := [], teams := [], packets := v.packets.filter (packetOf v.colour (left.map (·.1))),
                       diverts := v.diverts.filter (fun d => !divertOf v.colour [core] d), due := v.due.filter (fun d => !dueNear s v.colour [core] d),
                       parts := v.parts.filter (fun p => p.1 / 8 ≠ core), ctxs := v.ctxs.filter (fun c => c.1 / 16 ≠ core),
                       spads := v.spads.filter (fun b => !mine b.1) }
    let rest := s2.saved.filter (fun x => x ≠ v)
    restoreShared { s2 with
      parts := parts.foldl (fun t p => Table.set t p.1 p.2) s2.parts,
      ctxs := ctxs.foldl (fun t c => Table.set t c.1 c.2) s2.ctxs,
      mem := (v.spads.filter (fun b => mine b.1)).foldl (fun m b => m.set b.1 b.2) s2.mem,
      saved := if left.isEmpty then rest else rest ++ [v1] } v left core

/-- The cores of a record on which its colour is to be restored now. -/
def restorable (s : State) (die : Nat) (r : BindRec) : List Nat :=
  if !bOpen r s.time then []
  else (recCores die r).filter (fun c => savedHere s c (bColour r) && coreEmpty s c && !belling s c)

/-- A bell that has saved everything: the switch is complete. -/
def switchDone (s : State) (die n : Nat) : Bool :=
  match Table.find (s.die die).bellAt n with
  | some t => decide (t + 20000 ≤ s.time) && (bellCores s die (s.bindRec die n)).isEmpty
  | none => false

/-- COLOUR_SWITCH_COMPLETE (R272 step 6): the bell of a record is over, and the incoming colours that an earlier bell
saved are restored before their dispatch begins. -/
def execColourSwitchComplete (die rec : Nat) (s : State) : Out :=
  let d := s.die die
  let s1 := if switchDone s die rec then s.setDie die { d with bellAt := Table.del d.bellAt rec } else s
  .next (refreshStalls ((s1.die die).bind.foldl (fun s e => (restorable s die e.2).foldl (fun s c => restoreCore s c e.1 e.2) s) s1))

/-- A switch that is to be completed: a bell that is over, or a record whose colour returns. -/
def switchDue (s : State) : Option (Nat × Nat) :=
  s.dies.findSome? (fun d =>
    match d.2.bellAt.find? (fun b => switchDone s d.1 b.1) with
    | some b => some (d.1, b.1)
    | none => if s.saved.isEmpty then none else (d.2.bind.find? (fun e => !(restorable s d.1 e.2).isEmpty)).map (fun e => (d.1, e.1)))

end Sys2Proof.Machine
end

