-- ==== Sys2Proof/Machine/Csr.lean ====
section
/-! DEFINITION. Control and status registers: the map of R84 and R270, what each reads as, its write rule
(R87 to R90), and the six CSR forms (R323). -/

namespace Sys2Proof.Machine

/-- What a CSR number names. -/
inductive Csr where
  | vfcsr | fmask | pcsel (n : Nat) | time | vl | vty | mstk | hcfg | tfg | tfgh | taskid | gangid | colour
  | pcnt (n : Nat) | sqent | pkey | bell
  deriving DecidableEq, Repr

/-- The map of R84; numbers that it does not list name nothing. -/
def csrOf (n : Nat) : Option Csr :=
  if 0x8E0 ≤ n ∧ n ≤ 0x8E7 then some (.pcsel (n - 0x8E0))
  else if 0xCE0 ≤ n ∧ n ≤ 0xCE7 then some (.pcnt (n - 0xCE0))
  else match n with
    | 0x801 => some .vfcsr
    | 0x802 => some .fmask
    | 0xC01 => some .time
    | 0xCC0 => some .vl
    | 0xCC1 => some .vty
    | 0xCC2 => some .mstk
    | 0xCC4 => some .hcfg
    | 0xCC5 => some .tfg
    | 0xCC6 => some .tfgh
    | 0xCC8 => some .taskid
    | 0xCC9 => some .gangid
    | 0xCCA => some .colour
    | 0x5C0 => some .sqent
    | 0x5C1 => some .pkey
    | 0x5C2 => some .bell
    | _ => none

/-- Readable in S-mode alone (R270). -/
def Csr.supervisor : Csr → Bool
  | .sqent | .pkey | .bell => true
  | _ => false

/-- May be written (R84). -/
def Csr.writable : Csr → Bool
  | .vfcsr | .fmask | .pcsel _ => true
  | _ => false

/-- SQENT: the address, in the management window, of the partition's supervisor queue entry (R270, R297). -/
def sqent (die rec : Nat) : Nat := 0x810000 + 0x100000 * die + 64 * rec

/-- What a CSR reads as. -/
def csrRead (s : State) : Csr → Word
  | .vfcsr => s.me.vfcsr
  | .fmask => fmaskWord s.me.fmask
  | .pcsel n => Table.get 0 s.task.pcsel n
  | .time => BitVec.ofNat 64 s.time
  | .vl => BitVec.ofNat 64 s.vl
  | .vty => s.me.vty
  | .mstk => BitVec.ofNat 64 s.me.mstk.length
  | .hcfg => s.hcfg
  | .tfg => s.part.tfg.word.setWidth 64
  | .tfgh => (s.part.tfg.word >>> 64).setWidth 64
  | .taskid => BitVec.ofNat 64 s.taskId
  | .gangid => BitVec.ofNat 64 s.task.gang
  | .colour => BitVec.ofNat 64 s.task.colour
  | .pcnt n => Table.get 0 s.task.pcnt n
  | .sqent => BitVec.ofNat 64 (sqent s.task.die s.task.recNo)
  | .pkey => s.task.pkey.setWidth 64
  | .bell => BitVec.ofNat 64 (nextBell s s.turn.core s.task.colour)

/-- Write a CSR under its rule; the error is ILLEGAL with DETAIL 1 (R88, R90, R323). -/
def csrWrite (s : State) (c : Csr) (v : Word) : Except Halt State :=
  match c with
  | .vfcsr => .ok (s.setMe { s.me with vfcsr := v &&& 0xFF })
  | .fmask => if v ≠ 0 then .error (.trap (trapOf .illegal 1)) else .ok (s.setMe { s.me with fmask := 0 })
  | .pcsel n =>
    if 9 < v.toNat % 256 then .error (.trap (trapOf .illegal 1))
    else
      let t := s.task
      .ok (s.setMyTask { t with pcsel := Table.set t.pcsel n (v &&& 0xFF), pcnt := Table.set t.pcnt n 0 })
  | _ => .ok s

/-- A CSR form: writes says whether it writes, f gives the new value from the old one (R323). -/
def csrForm (s : State) (d : Reg) (num : BitVec 12) (writes : Bool) (f : Word → Word) : Except Halt State :=
  match csrOf num.toNat with
  | none => .error (.trap (trapOf .illegal 0))
  | some c =>
    if (c.supervisor && !s.task.smode) || (writes && !c.writable) then .error (.trap (trapOf .illegal 0))
    else
      let old := csrRead s c
      if writes then
        match csrWrite s c (f old) with
        | .error h => .error h
        | .ok s1 => .ok ((s1.setX d old).retire 4)
      else .ok ((s.setX d old).retire 4)

/-- CSRRW (R323). -/
def execCsrrw (d a : Reg) (c : BitVec 12) (s : State) : Out := finish s (csrForm s d c true (fun _ => s.x a))
/-- CSRRS (R323). -/
def execCsrrs (d a : Reg) (c : BitVec 12) (s : State) : Out := finish s (csrForm s d c (decide (a ≠ 0)) (fun o => o ||| s.x a))
/-- CSRRC (R323). -/
def execCsrrc (d a : Reg) (c : BitVec 12) (s : State) : Out := finish s (csrForm s d c (decide (a ≠ 0)) (fun o => o &&& ~~~(s.x a)))
/-- CSRRWI (R323). -/
def execCsrrwi (d u : Reg) (c : BitVec 12) (s : State) : Out := finish s (csrForm s d c true (fun _ => u.setWidth 64))
/-- CSRRSI (R323). -/
def execCsrrsi (d u : Reg) (c : BitVec 12) (s : State) : Out :=
  finish s (csrForm s d c (decide (u ≠ 0)) (fun o => o ||| u.setWidth 64))
/-- CSRRCI (R323). -/
def execCsrrci (d u : Reg) (c : BitVec 12) (s : State) : Out :=
  finish s (csrForm s d c (decide (u ≠ 0)) (fun o => o &&& ~~~(u.setWidth 64 : Word)))

end Sys2Proof.Machine
end

