-- ==== Sys2Proof/Machine/Matrix.lean ====
section
/-! DEFINITION. The matrix forms and the tensor identifier table (R111 to R118, R198 to R211, R340, R364,
R365). -/

namespace Sys2Proof.Machine

/-! ### Entries (R115 to R117) -/

abbrev Tid := BitVec 256

def tDbase (e : Tid) : Word := signWord (bitsOf e 255 205 * 64) 57
def tSbase (e : Tid) : Word := signWord (bitsOf e 204 152 * 16) 57
/-- Dimension n. -/
def tDim (e : Tid) (n : Nat) : Nat := bitsOf e (103 + 16 * n) (88 + 16 * n) + 1
/-- Stride of dimension n in bytes, n from 1 to 3. -/
def tStride (e : Tid) (n : Nat) : Nat := bitsOf e (27 + 20 * n) (8 + 20 * n) * 64
def tPad1 (e : Tid) : Nat := bitsOf e 27 25
def tPad2 (e : Tid) : Nat := bitsOf e 24 22
def tDil1 (e : Tid) : Nat := bitsOf e 21 19
def tDil2 (e : Tid) : Nat := bitsOf e 18 16
def tLayout (e : Tid) : Nat := bitsOf e 15 14
def tBlenCode (e : Tid) : Nat := bitsOf e 13 12
def tBlen (e : Tid) : Nat := blenOf (tBlenCode e)
def tSewCode (e : Tid) : Nat := bitsOf e 11 9
def tSew (e : Tid) : Nat := sewOf (tSewCode e)
def tFmt (e : Tid) : Nat := bitsOf e 8 4
def tV (e : Tid) : Bool := bitOf e 0

/-- A well-formed entry with V = 1 (R116). -/
def tWf (e : Tid) : Bool :=
  typeOk (tFmt e) (tSewCode e) (tBlenCode e) && decide (tLayout e ≤ 1)
  && (decide (tLayout e = 1) || decide (bitsOf e 27 16 = 0)) && decide (bitsOf e 3 1 = 0)
  && (if tBlen e = 0 then decide (bitsOf e 204 152 = 0) else decide (tDim e 0 % tBlen e = 0))

/-- The data address of an element (R117). -/
def tData (e : Tid) (i0 i1 i2 i3 : Nat) : Word :=
  tDbase e + BitVec.ofNat 64 (i3 * tStride e 3 + i2 * tStride e 2 + i1 * tStride e 1 + i0 * tSew e / 8)
/-- The address of its scale byte. -/
def tScale (e : Tid) (i0 i1 i2 i3 : Nat) : Word :=
  tSbase e + BitVec.ofNat 64 (((i3 * tDim e 2 + i2) * tDim e 1 + i1) * (tDim e 0 / tBlen e) + i0 / tBlen e)

/-- Entry n of the acting core's table. -/
def State.tid (s : State) (n : Nat) : Tid := Table.get 0 s.myCore.tid n

/-! ### Types and products (R199, R111 to R113) -/

/-- The types of the matrix instructions. -/
def mxType (fmt : Nat) : Bool := decide (3 ≤ fmt)

/-- Kel and nb. -/
def kelOf (sew : Nat) : Nat := 1536 / sew
def nbOf (sew blen : Nat) : Nat := if blen = 0 then 0 else kelOf sew / blen

/-- An operand row of 192 bytes: its codes and its scale bytes. -/
structure Operand where
  codes  : List Nat
  scales : List Nat
  deriving DecidableEq, Repr

/-- The values of block b of a row. -/
def rowBlock (fmt blen : Nat) (r : Operand) (b : Nat) : List Num :=
  ((r.codes.drop (b * blen)).take blen).map (blockValue fmt ((r.scales.drop b).headD 0))

/-- One accumulation in FP32 under RNE. -/
def accAdd (acc : Nat) (v : Num) (fl : Nat) : Nat × Nat :=
  let r := addNum 0 (fmtF32.value acc) v
  let o := roundNum fmtF32 0 false r.1
  (o.1, o.2 ||| r.2 ||| fl)

/-- Dot of R199: an accumulator and the flags. -/
def mxDot (fmt blen : Nat) (a b : Operand) (acc : Nat) : Nat × Nat :=
  if blen = 0 then
    let f := fmtOf fmt
    let p := dot (a.codes.map f.value) (b.codes.map f.value)
    accAdd acc p.1 p.2
  else
    (upTo (a.codes.length / blen)).foldl (fun (c : Nat × Nat) i =>
      let p := dot (rowBlock fmt blen a i) (rowBlock fmt blen b i)
      let v := roundNum fmtF32 0 false p.1
      let r := accAdd c.1 (fmtF32.value v.1) (p.2 ||| v.2)
      (r.1, c.2 ||| r.2)) (acc, 0)

/-- Products of rows and columns added to the accumulator tile at d; every source has been read before. The
pairs give the rows that take part, each with its place in the tile. -/
def mxProduct (s : State) (d fmt blen : Nat) (rows : List (Nat × Operand)) (cols : List Operand) : State :=
  let res := rows.flatMap (fun r => (cols.zip (upTo cols.length)).map (fun c =>
    (r.1, c.2, mxDot fmt blen r.2 c.1 (s.elem (d + r.1) 32 c.2))))
  (res.foldl (fun s x => s.setElem (d + x.1) 32 x.2.1 x.2.2.1) s).raise (orAll (res.map (fun x => x.2.2.2)))

/-! ### MMA (R201) -/

/-- Row or column of codes in registers, with its scales. -/
def regOperand (s : State) (r sew first scaleReg nb firstScale : Nat) : Operand :=
  { codes := (upTo (kelOf sew)).map (fun j => s.elem r sew (first + j)),
    scales := (upTo nb).map (fun b => s.elem scaleReg 8 (firstScale + b)) }

/-- MMA (R201). -/
def execMma (d s1 s2 : Reg) (s : State) : Out :=
  let t := vtyType s.me.vty
  let gf := s.gf
  let nb := nbOf t.sew t.blen
  let rb := (s.vl * kelOf t.sew + s.rcap t.sew - 1) / s.rcap t.sew
  let ca := (gf * nb + s.rcap 8 - 1) / s.rcap 8
  let cb := (s.vl * nb + s.rcap 8 - 1) / s.rcap 8
  finish s (do
    vecCheck s { t with blen := 0 } (mxType t.fmt) [d, s1, s2] none
    illegalIf (decide (64 < s.vl) || decide (32 < s1.toNat + gf + ca) || decide (32 < s2.toNat + rb + cb))
    let rows := (upTo gf).map (fun m => (m, regOperand s (s1.toNat + m) t.sew 0 (s1.toNat + gf) nb (m * nb)))
    let cols := (upTo s.vl).map (fun n => regOperand s s2.toNat t.sew (n * kelOf t.sew) (s2.toNat + rb) nb (n * nb))
    .ok ((mxProduct s d.toNat t.fmt t.blen rows cols).retire 8))

/-! ### Operands in memory (R209) -/

/-- Accesses of n bytes from an address, in pieces within one sector. -/
def mxPieces (a : Word) (n : Nat) (kind : AccKind) : List Acc :=
  (pieces 32 (n / 32 + 2) a.toNat n).map (fun p => accGv (BitVec.ofNat 64 p.1) p.2 kind false)

/-- The codes of 192 bytes. -/
def codesOf (sew : Nat) (bytes : List Byte) : List Nat :=
  let v := ofBytes bytes
  (upTo (kelOf sew)).map (fun j => v / 2 ^ (sew * j) % 2 ^ sew)

/-- A stall for a line keeps the entry that the form has read (R118, R341). -/
def keepEntry {α : Type} (e : Tid) : Except Halt α → Except Halt α
  | .error (.wait (.snoop line _)) => .error (.wait (.snoop line (some e)))
  | r => r

/-- Read operand rows, given the index of each row's first code: all checks first, codes and then scales. The
answer is the rows and the state that has made the loads. -/
def mxRead (s : State) (e : Tid) (rows : List (Nat × Nat × Nat × Nat)) : Except Halt (List Operand × State) := do
  let nb := nbOf (tSew e) (tBlen e)
  let ca := rows.map (fun r => mxPieces (tData e r.1 r.2.1 r.2.2.1 r.2.2.2) 192 .load)
  let sa := rows.map (fun r => if nb = 0 then [] else mxPieces (tScale e r.1 r.2.1 r.2.2.1 r.2.2.2) nb .load)
  let ts ← keepEntry e (checkRun s s.who (ca.flatten ++ sa.flatten))
  let bytes := loadRun s ts
  let code := fun (i : Nat) => (bytes.drop (192 * i)).take 192
  let scale := fun (i : Nat) => (bytes.drop (192 * rows.length + nb * i)).take nb
  .ok ((upTo rows.length).map (fun i => { codes := codesOf (tSew e) (code i), scales := (scale i).map (·.toNat) }), noteRun s ts)

/-! ### The latch and the ring (R198, R202 to R205) -/

/-- A core holds an instance of a gang with a ring. -/
def inRing (s : State) : Bool := decide (s.myCore.ringSize ≠ 0)

/-- The task is the worker of the core's instance (R202). -/
def ringWorker (s : State) : Bool := match s.myCore.gang with
  | some g => decide (s.task.gang = g.id) && decide (g.id ≠ 0) && decide (s.task.role = 1)
  | none => false

/-- The entry that an instruction read when the engine took it: a wait keeps it (R118). -/
def takenEntry (s : State) (n : Nat) : Tid := match s.me.wait with
  | some (.ring e) => e
  | some (.snoop _ (some e)) => e
  | _ => s.tid n

/-- In a ring, wait until MC = SC. -/
def ringWait (s : State) (e : Tid) : Except Halt Unit :=
  if inRing s && decide (s.myCore.mc ≠ s.myCore.sc) then .error (.wait (.ring e)) else .ok ()

/-- The checks of R82 on a form whose type comes from its entry. -/
def mxCheck (s : State) (tiles : List Reg) : Except Halt Unit :=
  vecCheck s { fmt := 0, sew := 8, blen := 0, ovr := false } true tiles none

/-- The columns of the latch. -/
def latchCols (l : Latch) : List Operand :=
  let sew := sewOf l.sew.toNat
  let nb := nbOf sew (blenOf l.blen.toNat)
  (upTo l.nl).map (fun n =>
    { codes := (upTo (kelOf sew)).map (fun j => bitsOf (Table.get 0 l.codes n) (sew * j + sew - 1) (sew * j)),
      scales := (upTo nb).map (fun b => bitsOf (Table.get 0 l.scales n) (8 * b + 7) (8 * b)) })

/-- The entry's type is the latch's. -/
def sameType (e : Tid) (l : Latch) : Bool :=
  decide (tFmt e = l.fmt.toNat) && decide (tSewCode e = l.sew.toNat) && decide (tBlenCode e = l.blen.toNat)

/-- A number whose digits of w bits are listed, lowest first. -/
def packDigits (w : Nat) : List Nat → Nat
  | [] => 0
  | d :: ds => d + 2 ^ w * packDigits w ds

/-- MLDB (R203). -/
def execMldb (tn : BitVec 6) (s1 : Reg) (s : State) : Out :=
  let e := takenEntry s tn.toNat
  let k := (s.x s1).toNat
  let kel := kelOf (tSew e)
  finish s (do
    mxCheck s []
    illegalIf (inRing s && !ringWorker s)
    illegalIf (!tV e || decide (tLayout e ≠ 0) || !mxType (tFmt e))
    illegalIf (decide (s.vl = 0) || decide (64 < s.vl) || decide (tDim e 0 ≠ kel) || decide (tDim e 1 < s.vl)
      || decide (tDim e 2 ≤ k))
    ringWait s e
    let (cols, r) ← mxRead s e ((upTo s.vl).map (fun n => (0, n, k, 0)))
    let put := fun (w : Nat) (f : Operand → List Nat) => (upTo s.vl).zip (cols.map (fun c => packDigits w (f c)))
    let latch : Latch :=
      { full := true, nl := s.vl, kt := k, fmt := BitVec.ofNat 5 (tFmt e), sew := BitVec.ofNat 3 (tSewCode e),
        blen := BitVec.ofNat 2 (tBlenCode e),
        codes := (put (tSew e) Operand.codes).map (fun c => (c.1, BitVec.ofNat 1536 c.2)),
        scales := (put 8 Operand.scales).map (fun c => (c.1, BitVec.ofNat 192 c.2)) }
    .ok ((r.setMyCore { r.myCore with latch := latch }).retire 8))

/-- MMR (R204). -/
def execMmr (d : Reg) (tn : BitVec 6) (s : State) : Out :=
  let e := takenEntry s tn.toNat
  let l := s.myCore.latch
  let kel := kelOf (tSew e)
  finish s (do
    mxCheck s [d]
    illegalIf (!inRing s || !ringWorker s)
    illegalIf (!tV e || decide (tLayout e ≠ 0))
    ringWait s e
    illegalIf (!l.full || decide (s.vl ≠ l.nl) || decide (64 < s.vl))
    illegalIf (!sameType e l || decide (tDim e 1 < s.gf) || decide (tDim e 0 < (l.kt + 1) * kel))
    let (rows, r) ← mxRead s e ((upTo s.gf).map (fun m => (l.kt * kel, m, 0, 0)))
    let p := mxProduct r d.toNat (tFmt e) (tBlen e) ((upTo s.gf).zip rows) (latchCols l)
    .ok ((p.setMyCore { p.myCore with mc := p.myCore.mc + 1 }).retire 8))

/-- MCONV (R208). -/
def execMconv (d : Reg) (tn : BitVec 6) (s1 : Reg) (s : State) : Out :=
  let e := takenEntry s tn.toNat
  let l := s.myCore.latch
  let kel := kelOf (tSew e)
  let w := s.x s1
  finish s (do
    mxCheck s [d]
    illegalIf (inRing s && !ringWorker s)
    illegalIf (!tV e || decide (tLayout e ≠ 1) || decide (bitsOf w 63 56 ≠ 0) || decide (tDim e 3 ≤ bitsOf w 55 48))
    ringWait s e
    illegalIf (!l.full || decide (s.vl ≠ l.nl) || decide (64 < s.vl) || !sameType e l
      || decide (tDim e 0 < (l.kt + 1) * kel))
    let y : Int := ((bitsOf w 31 16 + bitsOf w 47 40 * (tDil2 e + 1) : Nat) : Int) - (tPad2 e : Int)
    let xs := (upTo s.gf).map (fun m => (m, ((bitsOf w 15 0 + m + bitsOf w 39 32 * (tDil1 e + 1) : Nat) : Int) - (tPad1 e : Int)))
    let inside := xs.filter (fun p => decide (0 ≤ p.2) && decide (p.2 < (tDim e 1 : Int)) && decide (0 ≤ y) && decide (y < (tDim e 2 : Int)))
    let (rows, r) ← mxRead s e (inside.map (fun p => (l.kt * kel, p.2.toNat, y.toNat, bitsOf w 55 48)))
    .ok ((mxProduct r d.toNat (tFmt e) (tBlen e) ((inside.map (·.1)).zip rows) (latchCols l)).retire 8))

/-- The members of a ring of a gang, in the order of their positions. -/
def ringMembers (s : State) (gang ring : Nat) : List Nat :=
  let g := Table.get Gang.empty s.sched.gangs gang
  let cs := g.cores.filter (fun c => decide ((s.core c).gang.map (·.id) = some gang) && decide ((s.core c).ringSize ≠ 0)
    && decide ((s.core c).ringNo = ring))
  (upTo cs.length).filterMap (fun p => cs.find? (fun c => (s.core c).ringPos = p))

/-- All members of the ring are there, none of them switched out, and every one has completed this step (R205). -/
def ringDue (s : State) (gang ring : Nat) : Bool :=
  let ms := ringMembers s gang ring
  !ms.isEmpty && decide (ms.length = (s.core (ms.headD 0)).ringSize) && ms.all (fun c => decide ((s.core c).mc = (s.core c).sc + 1))

/-- RING_SHIFT (R205): every latch moves to its member's successor, all at once. -/
def execRingShift (gang ring : Nat) (s : State) : Out :=
  if !ringDue s gang ring then .next s
  else
    let ms := ringMembers s gang ring
    let lat := fun (p : Nat) => (s.core ((ms.drop p).headD 0)).latch
    .next ((ms.zip (upTo ms.length)).foldl (fun t m =>
      let c := t.core m.1
      t.setCore m.1 { c with latch := lat ((m.2 + ms.length - 1) % ms.length), sc := c.sc + 1 }) s)

/-! ### MSTC (R207) -/

/-- Row m's codes and scale bytes, and the flags. -/
def mstcRow (s : State) (ty : ElTy) (rm r : Nat) : List Byte × List Byte × Nat :=
  let vals := (upTo s.vl).map (fun n => fmtF32.value (s.elem r 32 n))
  if ty.blen = 0 then
    let cs := vals.map (roundNum (fmtOf ty.fmt) rm false)
    (cs.flatMap (fun c => bytesOf (ty.sew / 8) c.1), [], orAll (cs.map (·.2)))
  else
    let bs := (upTo (s.vl / ty.blen)).map (fun b => encodeBlock ty.fmt rm ((vals.drop (b * ty.blen)).take ty.blen))
    (bytesOf (s.vl * ty.sew / 8) (packDigits ty.sew (bs.flatMap (·.1))), bs.map (fun b => BitVec.ofNat 8 b.2.2),
      orAll (bs.map (·.2.1)))

/-- The type in which MSTC stores, which the entry's type must be by its name; blocks have the entry's length (R110). -/
def mstcType (s : State) (et : BitVec 3) (e : Tid) : ElTy := { fltType s.me.vty et with blen := tBlen e }

/-- The accesses of MSTC for each row: its codes, and its scale bytes. -/
def mstcRowAccs (e : Tid) (w : Word) (rows : List (Nat × List Byte × List Byte × Nat)) : List (List Acc × List Acc) :=
  let at' := fun (f : Tid → Nat → Nat → Nat → Nat → Word) (m : Nat) => f e (bitsOf w 15 0) (bitsOf w 31 16 + m) (bitsOf w 47 32) (bitsOf w 63 48)
  rows.map (fun r => (mxPieces (at' tData r.1) r.2.1.length .store, mxPieces (at' tScale r.1) r.2.2.1.length .store))

/-- Places and bytes in the order of the stores: row by row, a row's codes and then its scales. codes and scales are
the places of all rows' codes and of all rows' scales. -/
def mstcOrder : List (List Acc × List Acc) → List (Nat × List Byte × List Byte × Nat) → List (Target × Nat) → List (Target × Nat) →
    List (Target × Nat) × List Byte
  | (ca, sa) :: as, r :: rs, codes, scales =>
    let rest := mstcOrder as rs (codes.drop ca.length) (scales.drop sa.length)
    (codes.take ca.length ++ scales.take sa.length ++ rest.1, r.2.1 ++ r.2.2.1 ++ rest.2)
  | _, _, _, _ => ([], [])

/-- MSTC (R207, R340): every check before any store, of all codes and then of all scale bytes; then row by row the stores. -/
def execMstc (vs : Reg) (tn : BitVec 6) (s1 : Reg) (et rm : BitVec 3) (s : State) : Out :=
  let e := takenEntry s tn.toNat
  let ty := mstcType s et e
  let w := s.x s1
  let c0 := bitsOf w 15 0
  finish s (do
    vecCheck s { ty with blen := 0 } (decide (ty.fmt ≠ 0)) [vs] (some rm)
    illegalIf (decide (64 < s.vl))
    illegalIf (!tV e || decide (tLayout e ≠ 0) || decide (tFmt e ≠ ty.fmt) || decide (tSew e ≠ ty.sew))
    illegalIf (decide (tDim e 0 < c0 + s.vl) || decide (tDim e 1 < bitsOf w 31 16 + s.gf) || decide (tDim e 2 ≤ bitsOf w 47 32)
      || decide (tDim e 3 ≤ bitsOf w 63 48))
    illegalIf (decide (ty.blen ≠ 0) && (decide (c0 % ty.blen ≠ 0) || decide (s.vl % ty.blen ≠ 0)))
    let rows := (upTo s.gf).map (fun m => (m, mstcRow s ty (s.roundMode rm) (vs.toNat + m)))
    let accs := mstcRowAccs e w rows
    let ts ← keepEntry e (checkRun s s.who ((accs.map (·.1)).flatten ++ (accs.map (·.2)).flatten))
    let (places, bytes) := mstcOrder accs rows ts (ts.drop (accs.map (·.1)).flatten.length)
    .ok (((storeRun s places bytes).raise (orAll (rows.map (fun r => r.2.2.2)))).retire 8))

/-! ### TDSET and TDGET (R365) -/

/-- TDSET (R365). -/
def execTdset (tn : BitVec 6) (s1 : Reg) (s : State) : Out :=
  finish s (do
    let t ← checkAcc s s.who (accGv (s.x s1) 32 .load (unaligned (s.x s1) 32)) true
    let img : Tid := BitVec.ofNat 256 (loaded s t 32)
    illegalIf (tV img && !tWf img)
    let r := noteAccess s t 32 false
    let c := r.myCore
    .ok ((r.setMyCore { c with tid := Table.set c.tid tn.toNat (if tV img then img else 0) }).retire 8))

/-- TDGET (R365). -/
def execTdget (tn : BitVec 6) (s1 : Reg) (s : State) : Out :=
  finish s (do
    let t ← checkAcc s s.who (accGv (s.x s1) 32 .store (unaligned (s.x s1) 32)) true
    .ok ((storeAt s t (bytesOf 32 (s.tid tn.toNat).toNat)).retire 8))

end Sys2Proof.Machine
end

