-- ==== Sys2Proof/Machine/Shake.lean ====
section
/-! DEFINITION. SHAKE256, which R301 and R303 use. R4 names FIPS 202 and the spec does not restate it; what stands here of
it is PRESUMED (log 26). -/

namespace Sys2Proof.Machine

/-- A state of the permutation: 25 lanes of 64 bits, lane x + 5 y. -/
abbrev Lanes := List (BitVec 64)

/-- A lane of a state. -/
def lane (a : Lanes) (x y : Nat) : BitVec 64 := a.getD (x % 5 + 5 * (y % 5)) 0

/-- A state whose lane x + 5 y is f x y. -/
def lanesOf25 (f : Nat → Nat → BitVec 64) : Lanes := (upTo 25).map (fun i => f (i % 5) (i / 5))

/-- By how many bits each lane turns. -/
def shakeTurns : List Nat :=
  [0, 1, 62, 28, 27, 36, 44, 6, 55, 20, 3, 10, 43, 25, 39, 41, 45, 15, 21, 8, 18, 2, 61, 56, 14]

/-- The constants of the 24 rounds. -/
def shakeRounds : List (BitVec 64) :=
  [0x0000000000000001, 0x0000000000008082, 0x800000000000808A, 0x8000000080008000, 0x000000000000808B, 0x0000000080000001,
   0x8000000080008081, 0x8000000000008009, 0x000000000000008A, 0x0000000000000088, 0x0000000080008009, 0x000000008000000A]
  ++ [0x000000008000808B, 0x800000000000008B, 0x8000000000008089, 0x8000000000008003, 0x8000000000008002, 0x8000000000000080,
   0x000000000000800A, 0x800000008000000A, 0x8000000080008081, 0x8000000000008080, 0x0000000080000001, 0x8000000080008008]

/-- One round: the five mappings of FIPS 202 in their order. -/
def shakeRound (a : Lanes) (rc : BitVec 64) : Lanes :=
  let c := (upTo 5).map (fun x => (upTo 5).foldl (fun v y => v ^^^ lane a x y) 0)
  let d := fun x => c.getD ((x + 4) % 5) 0 ^^^ (c.getD ((x + 1) % 5) 0).rotateLeft 1
  let t := lanesOf25 (fun x y => lane a x y ^^^ d x)
  let b := lanesOf25 (fun x y => (lane t (x + 3 * y) x).rotateLeft (shakeTurns.getD ((x + 3 * y) % 5 + 5 * x) 0))
  let e := lanesOf25 (fun x y => lane b x y ^^^ (~~~ lane b (x + 1) y &&& lane b (x + 2) y))
  match e with
  | l :: ls => (l ^^^ rc) :: ls
  | [] => []

/-- The permutation. -/
def shakePermute (a : Lanes) : Lanes := shakeRounds.foldl shakeRound a

/-- The bytes of a message with its padding, cut into blocks of 136 bytes. -/
def shakeBlocks : Nat → List Byte → List (List Byte)
  | 0, _ => []
  | n + 1, bs =>
    if bs.length < 136 then
      let p := bs ++ 0x1F :: List.replicate (135 - bs.length) 0
      [p.take 135 ++ [p.getD 135 0 ||| 0x80]]
    else bs.take 136 :: shakeBlocks n (bs.drop 136)

/-- A block is added to a state, and the state is permuted. -/
def shakeAbsorb (a : Lanes) (b : List Byte) : Lanes :=
  shakePermute ((upTo 25).map (fun i => lane a i (i / 5) ^^^ (if i < 17 then BitVec.ofNat 64 (ofBytes ((b.drop (8 * i)).take 8)) else 0)))

/-- The first 64 bytes of SHAKE256 of a byte string, as one number with the first byte lowest. -/
def shake256 (bs : List Byte) : Nat :=
  let a := (shakeBlocks (bs.length / 136 + 1) bs).foldl shakeAbsorb (List.replicate 25 0)
  (a.take 8).foldr (fun l n => n * 2 ^ 64 + l.toNat) 0

end Sys2Proof.Machine
end

