-- ==== Sys2Proof/Machine/System.lean ====
section
/-! DEFINITION. The tables that are written through the management window (R172, R174, R178, R241, R268, R420),
bring-up, firmware and attestation (R301 to R303), repairs (R306) and power (R307). -/

namespace Sys2Proof.Machine

/-! ### Write status (R298) -/

/-- A write status register after a write of entry idx. -/
def writeStatus (ok : Bool) (idx : Nat) : Word := BitVec.ofNat 64 (idx % 2 ^ 16 * 2 ^ 16 + (if ok then 0 else 1))

/-- A register with a field cleared. -/
def clearBits {w : Nat} (v : BitVec w) (hi lo : Nat) : BitVec w := putBits v hi lo 0

/-- A table with an entry written; an entry of zeros is not listed. -/
def setEntry {w : Nat} (t : Table (BitVec w)) (i : Nat) (v : BitVec w) : Table (BitVec w) :=
  if v = 0 then Table.del t i else Table.set t i v

/-! ### Bind records (R171, R172) -/

/-- The fields that read 0. -/
def bReserved : List (Nat × Nat) := [(230, 224), (191, 169), (159, 130), (127, 8), (1, 1)]
def bClean (r : BindRec) : BindRec := bReserved.foldl (fun r f => clearBits r f.1 f.2) r

/-- The roles that the gang descriptor of a KIND 10 record declares; none where it cannot be read. -/
def declaredRoles (s : State) (r : BindRec) : Option (List Nat) :=
  (devRead s (bColour r) (bTarget r) 64).toOption.map (fun bs => gRoleList (BitVec.ofNat 512 (ofBytes bs)))

/-- What R172 asks of a KIND 10 record. A descriptor that cannot be read leaves no role declared. -/
def gangRecOk (s : State) (r : BindRec) : Bool :=
  let roles := (declaredRoles s r).getD []
  let idx := roles.map (bRole r)
  let n := match bRing r with | 1 => 4 | 2 => 8 | _ => 1
  idx.all (fun i => decide (i < hartsOf (bSplit r))) && decide (idx.eraseDups = idx)
    && (upTo 3).all (fun i => roles.contains i || decide (bRole r i = 0))
    && decide (bRing r ≠ 3) && decide ((bCores r).length % n = 0)

/-- A write with V = 1 is accepted. -/
def bindOk (s : State) (die idx : Nat) (r : BindRec) : Bool :=
  decide (bClean r = r) && decide (bKind r ≠ 0) && decide (bKind r ≠ 3)
    && (decide (bWend r = 0) || decide (bWstart r < bWend r))
    && (decide (bKind r ≠ 2) || gangRecOk s r)
    && !(s.die die).bind.any (fun o => decide (o.1 ≠ idx) && bV o.2 && bOverlap r o.2 && bShare r o.2 && decide (bSplit o.2 ≠ bSplit r))

/-- Reservations under a record that is overwritten lapse (R182). -/
def dropReserved (s : State) (die : Nat) (old : BindRec) : State :=
  if bKind old ≠ 2 then s
  else { s with parts := s.parts.map (fun p =>
      if dieOf (p.1 / 8) = die ∧ bCore old (p.1 / 8 % Config.coresPerDie) then (p.1, { p.2 with reserved := none }) else p) }

/-- Write a bind record. -/
def writeBind (s0 : State) (die idx : Nat) (v : BindRec) : State :=
  let ok := !bV v || bindOk s0 die idx v
  let s := if bV v && decide (bKind v = 2) then devNoted s0 (bColour v) (bTarget v) 64 else s0
  let s1 := if ok then dropReserved s die (s.bindRec die idx) else s
  let d := s1.die die
  s1.setDie die { d with bind := if ok then setEntry d.bind idx (bClean v) else d.bind, status := writeStatus ok idx }

/-- BIND_RECORD_WRITE (R172). -/
def execBindRecordWrite (die idx : Nat) (v : BitVec 512) (s : State) : Out := .next (writeBind s die (idx % 1024) v)

/-! ### Supervisor queue entries (R268) -/

/-- An entry that is not all zeros is accepted. -/
def supOk (v : BitVec 512) : Bool :=
  decide (bitsOf v 511 320 = 0) && decide (bitsOf v 255 192 = 0) && decide (bitsOf v 127 72 = 0)
    && decide (2 ≤ supLog v) && decide (supLog v ≤ 12) && decide (supBase v % 128 = 0) && decide (supHandler v % 64 = 0)

/-- Write an entry: TAIL is the device's, and zeros clear all of it. -/
def writeSup (s : State) (die idx : Nat) (v : BitVec 512) : State :=
  let d := s.die die
  let new := clearBits v 191 160
  let ok := decide (new = 0) || supOk new
  let kept := putBits new 191 160 (supTail (Table.get 0 d.supq idx))
  s.setDie die { d with supq := if !ok then d.supq else setEntry d.supq idx (if new = 0 then 0 else kept), status := writeStatus ok idx }

/-- SUPERVISOR_QUEUE_WRITE (R268). -/
def execSupervisorQueueWrite (die idx : Nat) (v : BitVec 512) (s : State) : Out := .next (writeSup s die (idx % 1024) v)

/-! ### The range table (R241) -/

/-- Two spans of bytes meet. -/
def spansMeet (a n b m : Nat) : Bool := decide (a < b + m) && decide (b < a + n)

/-- The fields of a range entry that read 0. -/
def rangeClean (e : BitVec 512) : BitVec 512 := clearBits (clearBits (clearBits e 303 288) 143 136) 132 128

/-- A write with V = 1 is accepted, as far as the new entry says. -/
def rangeOk (s : State) (idx : Nat) (e : BitVec 512) : Bool :=
  decide (rangeClean e = e) && decide (bitsOf e 135 134 ≠ 3) && decide (rangeBase e % 65536 = 0) && decide (rangeLen e % 65536 = 0)
    && decide (rangeSlots e ≠ 0) && decide (133376 ≤ rangeSlotSize e) && decide (rangeSlotSize e % 256 = 0)
    && !s.fill.ranges.any (fun o => decide (o.1 ≠ idx) && rangeV o.2 && spansMeet (rangeBase e) (rangeLen e) (rangeBase o.2) (rangeLen o.2))

/-- The range is in use: a block is TURNING, a requester waits or is in back-off, or a generator holds a slot. -/
def rangeBusy (s : State) (idx : Nat) : Bool :=
  let mine := fun (b : BlockId) => decide (b.range = idx)
  s.fill.fills.any (fun f => mine f.blk) || s.fill.slots.any (fun x => decide (x.1 = idx))
    || s.tasks.any (fun t => t.2.waitsOn.any mine || t.2.retryOn.any mine)
    || s.clusters.any (fun u => u.2.aside.any (fun a => (a.blocks ++ a.backOff).any mine))
    || s.fill.waits.any (fun a => (a.blocks ++ a.backOff).any mine)

/-- The FILLED and SPOILED blocks of a range. -/
def settledBlocks (s : State) (idx : Nat) : List BlockId :=
  let e := s.range idx
  ((upTo (rangeLen e / rangeBlock e)).map (fun i => ({ range := idx, block := i } : BlockId))).filter (fun b =>
    match fillState s b with
    | .filled | .spoiled => true
    | _ => false)

/-- Deregister a range. -/
def dropRange (s : State) (idx : Nat) : State :=
  let s1 := (settledBlocks s idx).foldl discardBlock s
  { s1 with fill := { s1.fill with ranges := Table.del s1.fill.ranges idx, filled := s1.fill.filled.filter (fun b => b.range ≠ idx),
                                   exempt := s1.fill.exempt.filter (fun x => x.2.range ≠ idx) } }

/-- Write a range entry. -/
def writeRange (s : State) (idx : Nat) (v : BitVec 512) : State :=
  let old := rangeV (s.range idx)
  let ok := !(rangeV v && !rangeOk s idx v) && !(old && rangeBusy s idx)
  let s1 := if ok && old then dropRange s idx else s
  { s1 with fill := { s1.fill with ranges := if ok then setEntry s1.fill.ranges idx (rangeClean v) else s1.fill.ranges,
                                   status := writeStatus ok idx } }

/-- RANGE_TABLE_WRITE (R241). -/
def execRangeTableWrite (idx : Nat) (v : BitVec 512) (s : State) : Out := .next (writeRange s (idx % 256) v)

/-! ### The image table (R420) -/

def imgBase (e : BitVec 256) : Nat := bitsOf e 63 0
def imgLimit (e : BitVec 256) : Nat := bitsOf e 127 64
def imgV (e : BitVec 256) : Bool := bitOf e 192

/-- A write with V = 1 is accepted. -/
def imageOk (s : State) (idx : Nat) (e : BitVec 256) : Bool :=
  decide (bitsOf e 230 193 = 0) && decide (bitsOf e 191 128 % 32 = 0) && decide (bitsOf e 239 231 ≤ 256) && decide (imgBase e < imgLimit e)
    && !s.sched.imageTab.any (fun o => decide (o.1 ≠ idx) && imgV o.2 && decide (bitsOf o.2 255 240 = bitsOf e 255 240)
      && spansMeet (imgBase e) (imgLimit e - imgBase e) (imgBase o.2) (imgLimit o.2 - imgBase o.2))

/-- The fields of an image entry that read 0. -/
def imageClean (e : BitVec 256) : BitVec 256 := clearBits e 230 193

/-- Write an image entry. -/
def writeImage (s : State) (idx : Nat) (v : BitVec 256) : State :=
  let ok := !imgV v || imageOk s idx v
  { s with sched := { s.sched with imageTab := if ok then setEntry s.sched.imageTab idx (imageClean v) else s.sched.imageTab, imageStatus := writeStatus ok idx } }

/-- IMAGE_TABLE_WRITE (R420). -/
def execImageTableWrite (idx : Nat) (v : BitVec 256) (s : State) : Out := .next (writeImage s (idx % 256) v)

/-! ### Ring mode (R178) -/

/-- Write a ring descriptor. One that breaks a limit of R178 changes nothing (DESIGN CHOICE log 22); in ring mode the
controller's own HEAD and TAIL stay. -/
def writeRing (s : State) (slice : Nat) (v : BitVec 256) : State :=
  let d := s.die (homeDie slice)
  let old := ringDesc s slice
  let ok := decide (bitsOf v 255 192 = 0) && decide (bitsOf v 127 72 = 0)
    && (decide (v = 0) || (decide (4 ≤ ringLog v) && decide (ringLog v ≤ 20) && decide (ringBase v % 64 = 0)))
  let new := if d.ringMode then putBits (putBits v 191 160 (ringTail old)) 159 128 (ringHead old) else v
  if !ok then s else s.setDie (homeDie slice) { d with ringDesc := setEntry d.ringDesc (slice % 32) new }

/-- RING_DESCRIPTOR_WRITE (R178). -/
def execRingDescriptorWrite (slice : Nat) (v : BitVec 256) (s : State) : Out := .next (writeRing s slice v)

/-- The home segments of a die are empty. -/
def homesEmpty (s : State) (die : Nat) : Bool :=
  (upTo 32).all (fun i => let n := 32 * die + i
                          if inRingMode s n then decide (ringCount (ringDesc s n) = 0) else (s.seg n).entries.isEmpty)

/-- RING_MODE_CONTROL (R178): only empty segments change their mode, and a ring that is not empty keeps its die in ring mode
too (DESIGN CHOICE log 15). -/
def execRingModeControl (die : Nat) (v : Word) (s : State) : Out :=
  if homesEmpty s die then .next (s.setDie die { s.die die with ringMode := bitOf v 0 }) else .next s

/-! ### SEGMAP (R174, R140) -/

/-- SEGMAP_WRITE (R174): the slice that the entry names pins queue storage. -/
def execSegmapWrite (idx : Nat) (v : Word) (s : State) : Out :=
  let n := idx % 256
  let slice := bitsOf v 7 0
  let s1 := { s with sched := { s.sched with
    segmap := if slice = n then Table.del s.sched.segmap n else Table.set s.sched.segmap n slice } }
  let d := s1.slice slice
  .next (if d.pinned then s1 else s1.setSlice slice (startPin d))

/-! ### Firmware (R301 to R303) -/

/-- n bytes at a physical address; none where some of them cannot be read. -/
def readPhysical (s : State) (pa n : Nat) : Option (List Byte) :=
  (pieces 4096 (n / 4096 + 2) pa n).foldl (fun acc p =>
    match acc, physical s p.1 with
    | some bs, some (_, l) => if (sectorsAt l p.2).any s.sectorBad then none else some (bs ++ s.mem.read l p.2)
    | _, _ => none) (some [])

/-- Write bytes at a physical address; none where some of them have no place. -/
def writePhysical (s : State) (pa : Nat) (bs : List Byte) : Option State :=
  ((pieces 4096 (bs.length / 4096 + 2) pa bs.length).foldl (fun acc p =>
    match acc, physical s p.1 with
    | some t, some (_, l) => some (t ++ [(l, p.2)])
    | _, _ => none) (some ([] : List (Nat × Nat)))).map (fun ps => land s none none 0 (layBytes ps bs))

/-- The SHAKE256 digest of an image, 512 bits. -/
def digestOf (bs : List Byte) : Nat := shake256 bs

/-- STAGE ends without an update. -/
def stageFails (s : State) (stat : Word) : State := { s with bar0 := { s.bar0 with fwstat := stat } }

/-- STAGE (R302): verify the image at FWADDR; a good one waits for the switch. -/
def stageImage (s : State) : State :=
  let b := s.bar0
  if b.fwstate = 2 ∨ b.fwstate = 3 then s
  else if 2 ^ 26 < b.fwlen.toNat then stageFails s 3
  else if !(firmwareBlocked s false).isEmpty then (firmwareBlocked s false).foldl askHolders s
  else match readPhysical s b.fwaddr.toNat b.fwlen.toNat with
    | none => stageFails s 3
    | some bs =>
      let d := digestOf bs
      if !Config.signatureGood d then stageFails s 3
      else if Config.imageVersion d % 2 ^ 64 < s.fw.rollback.toNat then stageFails s 4
      else { s with fw := { s.fw with staged := some d, stagedVersion := BitVec.ofNat 64 (Config.imageVersion d) },
                    bar0 := { b with fwstat := 1, fwstate := 2 } }

/-- STAGE (R302). -/
def execStage (s : State) : Out := .next (stageImage s)

/-- Some bytes of the module's own constants. -/
def identityBytes (i n : Nat) : List Byte := (upTo n).map (fun k => Config.identity (i + k))

/-- Bytes 0 to 255 of the report (R303). The boot ROM's digest and the serial number stand beside the identity area
among the module's constants. -/
def reportBody (s : State) : List Byte :=
  bytesOf 32 s.bar0.nonce.toNat ++ bytesOf 64 s.fw.running ++ identityBytes 0x10000 64 ++ bytesOf 8 s.fw.version.toNat
    ++ identityBytes 0x10040 8 ++ bytesOf 2 (bitsOf s.mgmt.devid 13 0) ++ bytesOf 6 0 ++ bytesOf 8 s.time ++ bytesOf 64 0

/-- The whole report. -/
def report (s : State) : List Byte :=
  let body := reportBody s
  let sig := (Config.falconSign body).take 1278
  body ++ bytesOf 2 sig.length ++ sig ++ List.replicate (1278 - sig.length) 0

/-- ATTEST (R303): the report describes the running image. In recovery it is not accepted (R301); while an update is
under way FWSTAT stays the update's. -/
def attestNow (s : State) : State :=
  if s.bar0.fwstate = 4 then s
  else if !(firmwareBlocked s true).isEmpty then (firmwareBlocked s true).foldl askHolders s
  else match writePhysical s s.bar0.fwaddr.toNat (report s) with
    | none => s
    | some s1 => if s.bar0.fwstate = 2 ∨ s.bar0.fwstate = 3 then s1 else { s1 with bar0 := { s1.bar0 with fwstat := 2 } }

/-- ATTEST (R303). -/
def execAttest (s : State) : Out := .next (attestNow s)

/-- A bell is in progress; or no bell is set, so that there is none to wait for (DESIGN CHOICE log 23). -/
def bellTime (s : State) : Bool :=
  s.dies.any (fun d => !d.2.bellAt.isEmpty) || !s.dies.any (fun d => d.2.bind.any (fun r => bBell s d.1 r.2 && decide (s.time ≤ bWend r.2)))

/-- The staged image may be started (R302, R308). -/
def switchReady (s : State) : Bool :=
  decide (s.bar0.fwstate = 2) && s.fw.staged.isSome && !s.bar0.repair && bellTime s

/-- FIRMWARE_SWITCH (R302). -/
def execFirmwareSwitch (s : State) : Out :=
  if !switchReady s then .next s
  else .next { s with fw := { s.fw with running := s.fw.staged.getD s.fw.running, version := s.fw.stagedVersion, switchAt := some s.time },
                      bar0 := { s.bar0 with fwstate := 3 } }

/-- The new image's time to report healthy has run out: 100 ms. -/
def healthOver (s : State) : Bool := match s.fw.switchAt with
  | some t => decide (s.bar0.fwstate = 3) && decide (t + 100000000 < s.time)
  | none => false

/-- FIRMWARE_HEALTHY (R302). -/
def execFirmwareHealthy (s : State) : Out :=
  if s.bar0.fwstate ≠ 3 ∨ healthOver s then .next s
  else .next { s with
    fw := { s.fw with flash := some s.fw.running, staged := none, switchAt := none, rollback := if s.fw.rollback.toNat < s.fw.version.toNat then s.fw.version else s.fw.rollback },
    bar0 := { s.bar0 with fwstate := 1, fwstat := 2, ready := s.mgmt.inService } }

/-- The image that the flash holds, where the boot ROM accepts it (R301 step 1, R302). -/
def goodFlash (f : Firmware) : Option Nat := f.flash.bind (fun d => if Config.signatureGood d then some d else none)

/-- FIRMWARE_HEALTH_TIMEOUT (R302). -/
def execFirmwareHealthTimeout (s : State) : Out :=
  if !healthOver s then .next s
  else match goodFlash s.fw with
    | some d => .next { s with
        fw := { s.fw with running := d, version := BitVec.ofNat 64 (Config.imageVersion d), staged := none, switchAt := none },
        bar0 := { s.bar0 with fwstate := 1, fwstat := 5 } }
    | none => .next { s with fw := { s.fw with staged := none, switchAt := none }, bar0 := { s.bar0 with fwstate := 4, fwstat := 5, ready := false } }

/-- What remains of the machine over a start-up: time, host and peer memory, flash and fuses, repairs. -/
def coldState (s : State) : State :=
  let far := fun (l : Nat) => match homeOfLoc l with
    | .local | .scratch _ => false
    | _ => true
  { State.reset with
    time := s.time, agenda := s.agenda, freeCnt := s.freeCnt, mem := s.mem.filter (fun b => far b.1),
    poison := s.poison.filter (fun x => far (x * 32)), badCheck := s.badCheck.filter (fun x => far (x * 32)),
    mgmt := { Mgmt.reset with retired := s.mgmt.retired, repairs := s.mgmt.repairs },
    fw := { s.fw with staged := none, switchAt := none } }

/-- One of the steps of R301 after the first fails: training, self-test or link (a free value). -/
def bringUpFails (s : State) : Bool := [2, 3, 5].contains (Config.bringUpFails s.freeCnt)

/-- BRING_UP (R301): after power-on or a function-level reset. A step that fails leaves READY at 0 and FWSTATE at 100. -/
def execBringUp (s : State) : Out :=
  let c := coldState s
  match goodFlash s.fw with
  | none => .next { c with bar0 := { c.bar0 with fwstate := 4 } }
  | some d =>
    let c1 := { c with freeCnt := c.freeCnt + 1, fw := { c.fw with running := d, version := BitVec.ofNat 64 (Config.imageVersion d) } }
    if bringUpFails s then .next { c1 with bar0 := { c1.bar0 with fwstate := 4 } }
    else .next { c1 with bar0 := { c1.bar0 with fwstate := 1, ready := true } }

/-- POWER_LOSS (R302): the supply is lost. Where a new image was being started, its write to flash may have been under way:
a free value says whether it was interrupted. -/
def execPowerLoss (s : State) : Out :=
  let hit := decide (s.bar0.fwstate = 3) && decide (Config.freeBits s.freeCnt % 2 = 1)
  .next { s with power := false, freeCnt := s.freeCnt + 1, fw := { s.fw with flash := if hit then none else s.fw.flash } }

/-! ### Repairs (R306) -/

/-- A repair has been made: kinds 0 cluster, 1 L2 way, 2 row, 3 GDDR device, 4 fabric lane, 5 module. -/
def noteRepair (s : State) (kind n : Nat) : State := { s with mgmt := { s.mgmt with repairs := s.mgmt.repairs ++ [(kind, n)] } }

/-- Every colour has left the cluster at its bell. -/
def clusterBare (s : State) (cluster : Nat) : Bool := (upTo 4).all (fun i => (s.core (4 * cluster + i)).colour.isNone)

/-- REPAIR reads 1 while a repair waits for its bells. -/
def waitRepair (s : State) (l : List Nat) : State :=
  { s with mgmt := { s.mgmt with repairing := l }, bar0 := { s.bar0 with repair := !l.isEmpty } }

/-- Clusters of a compute die. -/
def clustersPerDie : Nat := Config.coresPerDie / 4

/-- A spare cluster is left on the cluster's die: each die has two (R1). -/
def spareLeft (s : State) (cluster : Nat) : Bool :=
  decide ((s.mgmt.repairs.filter (fun r => decide (r.1 = 0) && decide (r.2 / clustersPerDie = cluster / clustersPerDie))).length < 2)

/-- CLUSTER_REPAIR (R306): at a bell of every colour on the cluster; until then it is in progress. Without a spare cluster
on its die no repair is made (DESIGN CHOICE log 30). -/
def execClusterRepair (cluster : Nat) (s : State) : Out :=
  let others := s.mgmt.repairing.filter (fun x => x ≠ cluster)
  if !spareLeft s cluster then .next (waitRepair s others)
  else if clusterBare s cluster then .next (noteRepair (waitRepair s others) 0 cluster) else .next (waitRepair s (others ++ [cluster]))

/-- A cluster repair that can be completed. -/
def repairDue (s : State) : Option Nat := s.mgmt.repairing.find? (clusterBare s)

/-- L2_WAY_REPAIR (R306): the line of the way is written back and leaves the set. Ways are numbered as in the read-back
port (DESIGN CHOICE log 20). -/
def execL2WayRepair (slice set way : Nat) (s : State) : Out :=
  let d := s.slice slice
  let ts := Table.get [] d.sets set
  let d1 := if way < ts.length then { d with sets := Table.set d.sets set (ts.eraseIdx way) }.bump counterTag 1 else d
  .next (noteRepair (s.setSlice slice d1) 1 (65536 * slice + 32 * set + way))

/-- ROW_REPAIR (R306): no visible effect. -/
def execRowRepair (row : Nat) (s : State) : Out := .next (noteRepair s 2 row)

/-- GDDR_DEVICE_RETIRE (R306): the capacity of a region of 2 MiB is lost. -/
def execGddrDeviceRetire (region : Nat) (s : State) : Out :=
  let s1 := noteRepair s 3 region
  if s.mgmt.retired.contains region then .next s1 else .next { s1 with mgmt := { s1.mgmt with retired := s1.mgmt.retired ++ [region] } }

/-- FABRIC_LANE_REPAIR (R306): no visible effect. -/
def execFabricLaneRepair (port : Nat) (s : State) : Out := .next (noteRepair s 4 port)

/-- MODULE_REMOVAL (R306): this module is taken out of service. -/
def execModuleRemoval (s : State) : Out :=
  let s1 := noteRepair s 5 0
  .next { s1 with mgmt := { s1.mgmt with inService := false }, bar0 := { s1.bar0 with ready := false } }

/-! ### Power and cooling (R307) -/

/-- A sensor reads a free value of n bits, within a range. -/
def sensor (s : State) (k lo hi : Nat) : Nat := lo + Config.freeBits (s.freeCnt + k) % (hi + 1 - lo)

/-- The cooling sensors read what they read. -/
def readSensors (s : State) (tempLo tempHi inletHi : Nat) : State :=
  { s with freeCnt := s.freeCnt + 4,
           bar0 := { s.bar0 with temp := BitVec.ofNat 8 (sensor s 0 tempLo tempHi) },
           mgmt := { s.mgmt with inletT := BitVec.ofNat 64 (sensor s 1 0 inletHi), outletT := BitVec.ofNat 64 (sensor s 2 0 65535),
                                 flow := BitVec.ofNat 64 (sensor s 3 0 65535) } }

/-- A throttle selects a power state, unless a slower one holds. -/
def throttleTo (s : State) (p : BitVec 2) : State :=
  { s with bar0 := { s.bar0 with throt := true, pstate := if s.bar0.pstate.toNat < p.toNat then p else s.bar0.pstate } }

/-- THERMAL_HALT (R307): a junction above 105 °C. -/
def execThermalHalt (s : State) : Out :=
  let s1 := throttleTo (readSensors s 106 255 65535) 3
  .next { s1 with mgmt := { s1.mgmt with stopped := true } }

/-- THERMAL_THROTTLE (R307). -/
def execThermalThrottle (s : State) : Out := .next (throttleTo (readSensors s 0 105 65535) 1)

/-- COOLANT_THROTTLE (R307): the inlet exceeds 45 °C or the flow is below the module's limit. -/
def execCoolantThrottle (s : State) : Out := .next (throttleTo (readSensors s 0 105 65535) 2)

/-- The state that the host's cap selects. -/
def capState (cap : Word) : BitVec 2 := if bitOf cap 0 then 1 else 0

/-- THROTTLE_RELEASE (R307). -/
def execThrottleRelease (s : State) : Out :=
  let s1 := readSensors s 0 105 720
  .next { s1 with bar0 := { s1.bar0 with throt := false, pstate := capState s.mgmt.cap }, mgmt := { s1.mgmt with stopped := false } }

/-- POWER_CAP_WRITE (R307): a throttle keeps its state. -/
def execPowerCapWrite (v : Word) (s : State) : Out :=
  let cap := BitVec.ofNat 64 (bitsOf v 0 0)
  .next { s with mgmt := { s.mgmt with cap := cap }, bar0 := if s.bar0.throt then s.bar0 else { s.bar0 with pstate := capState cap } }

/-! ### Writes of 8-byte units (R297 to R300) -/

/-- The next state of a meaning that only goes on. -/
def Out.stateOr (o : Out) (s : State) : State := match o with
  | .next s1 => s1
  | _ => s

/-- A write to DSTAT clears the flags that it names. -/
def clearStatus (b : Bar0) (v : Word) : Bar0 :=
  { b with lrovf := b.lrovf && !bitOf v 20, lrrd := b.lrrd && !bitOf v 1 }

/-- A write to BAR0 (R299). -/
def writeBar0 (s : State) (o : Nat) (v : Word) : State :=
  let b := s.bar0
  if o = 0 then { s with bar0 := clearStatus b v }
  else if o = 0x8 then { s with bar0 := { b with lrbase := v } }
  else if o = 0x10 then (if 4 ≤ v.toNat ∧ v.toNat ≤ 16 then { s with bar0 := { b with lrsize := v } } else s)
  else if o = 0x20 then (execLaunchDoorbell v s).stateOr s
  else if o = 0x100 then
    (let s1 := if v = 1 ∨ v = 2 then { s with bar0 := { b with fwcmd := v } } else s
     if v = 1 then stageImage s1 else if v = 2 then attestNow s1 else s)
  else if o = 0x108 then { s with bar0 := { b with fwaddr := v } }
  else if o = 0x110 then { s with bar0 := { b with fwlen := v } }
  else if 0x200 ≤ o ∧ o < 0x220 then { s with bar0 := { b with nonce := putBits b.nonce (8 * (o - 0x200) + 63) (8 * (o - 0x200)) v.toNat } }
  else s

/-- An entry of n doublewords at offset o of a table, as it is once its highest doubleword is written: those written
before it, or else the entry's own. -/
def gather (s : State) (base n : Nat) (old : Nat) (v : Word) : Nat :=
  ((upTo n).map (fun i =>
    let w := if i + 1 = n then v.toNat else ((Table.find s.mgmt.halves (base + 8 * i)).map (·.toNat)).getD (old / 2 ^ (64 * i) % 2 ^ 64)
    w * 2 ^ (64 * i))).sum

/-- The held doublewords of an entry are used up. -/
def dropHalves (s : State) (base n : Nat) : State :=
  { s with mgmt := { s.mgmt with halves := s.mgmt.halves.filter (fun e => !(decide (base ≤ e.1) && decide (e.1 < base + 8 * n))) } }

/-- A unit of a table of entries of n doublewords (R298): held, or the write of its entry. -/
def writeUnit (s : State) (o base n old : Nat) (v : Word) (commit : State → Nat → State) : State :=
  if o = base + 8 * (n - 1) then commit (dropHalves s base n) (gather s base n old v)
  else { s with mgmt := { s.mgmt with halves := Table.set s.mgmt.halves o v } }

/-- A directory management command (R292). -/
def dmCommand (s : State) (v : Word) : State :=
  let s1 := { s with mgmt := { s.mgmt with dmcmd := BitVec.ofNat 64 (bitsOf v 31 18 * 2 ^ 18) } }
  match bitsOf v 3 0 with
  | 1 => (execDmRead s1).stateOr s1
  | 2 => (execReclaim s1).stateOr s1
  | 3 => (execForget (BitVec.ofNat 14 (bitsOf v 31 18)) s1).stateOr s1
  | _ => (execDmBadCommand s1).stateOr s1

/-- A read-back command (R297). -/
def readBackCommand (s : State) (slice : Nat) (v : Word) : State :=
  (match bitsOf v 63 60 with
   | 0 => execReadbackL2Tag slice v s
   | 1 => execReadbackQueueEntry slice v s
   | 2 => execReadbackDirectory slice v s
   | _ => execReadbackBadKind slice v s : Out).stateOr s

/-- Units of a die's tables; r is the offset in the die's area. -/
def writeDieUnit (s : State) (die o r : Nat) (v : Word) : State :=
  let d := s.die die
  if r < 0x10000 then
    writeUnit s o (o - r % 64) 8 (Table.get 0 d.bind (r / 64)).toNat v (fun s e => writeBind s die (r / 64) (BitVec.ofNat 512 e))
  else if r < 0x20000 then
    writeUnit s o (o - r % 64) 8 (Table.get 0 d.supq (r / 64 - 1024)).toNat v (fun s e => writeSup s die (r / 64 - 1024) (BitVec.ofNat 512 e))
  else if r = 0x20008 then (execRingModeControl die v s).stateOr s
  else if 0x21000 ≤ r ∧ r < 0x21400 then
    writeUnit s o (o - r % 32) 4 (Table.get 0 d.ringDesc ((r - 0x21000) / 32)).toNat v
      (fun s e => writeRing s (32 * die + (r - 0x21000) / 32) (BitVec.ofNat 256 e))
  else if 0x40000 ≤ r ∧ r < 0x80000 then
    let i := (r - 0x40000) / 16
    writeUnit s o (o - r % 16) 2 (Table.get 0 d.cnt i).toNat v (fun s e =>
      let k := s.die die
      s.setDie die { k with cnt := setEntry k.cnt i (BitVec.ofNat 128 e), status := writeStatus true i })
  else s

/-- A home map unit: two entries. -/
def writeHome (s : State) (n : Nat) (v : Word) : State :=
  { s with mgmt := { s.mgmt with homemap := setEntry (setEntry s.mgmt.homemap n (BitVec.ofNat 32 (bitsOf v 31 0))) (n + 1)
                                                     (BitVec.ofNat 32 (bitsOf v 63 32)) } }

/-- A write to BAR2 (R297, R298). Other offsets ignore it. -/
def writeBar2 (s : State) (o : Nat) (v : Word) : State :=
  let m := s.mgmt
  if o = 0x10000 then (if bitsOf v 7 0 = 0 then s else { s with mgmt := { m with lease := BitVec.ofNat 64 (bitsOf v 7 0) } })
  else if o = 0x10008 then { s with mgmt := { m with devid := BitVec.ofNat 64 (bitsOf v 13 0) } }
  else if o = 0x10100 then { s with mgmt := { m with dmaddr := v } }
  else if o = 0x10108 then dmCommand s v
  else if 0x10800 ≤ o ∧ o < 0x11000 then (execSegmapWrite ((o - 0x10800) / 8) v s).stateOr s
  else if o = 0x11018 then (execPowerCapWrite v s).stateOr s
  else if o = 0x13008 then logCommand s (bitsOf v 5 0) v.toNat (bitOf v 8)
  else if 0x20000 ≤ o ∧ o < 0x30000 then writeHome s ((o - 0x20000) / 4) v
  else if 0x40000 ≤ o ∧ o < 0x44000 then
    (let i := (o - 0x40000) / 64
     writeUnit s o (0x40000 + 64 * i) 8 (s.range i).toNat v (fun s e => writeRange s i (BitVec.ofNat 512 e)))
  else if 0x46000 ≤ o ∧ o < 0x48000 then
    (let i := (o - 0x46000) / 32
     writeUnit s o (0x46000 + 32 * i) 4 (Table.get 0 s.sched.imageTab i).toNat v (fun s e => writeImage s i (BitVec.ofNat 256 e)))
  else if 0x100000 ≤ o ∧ o < 0x180000 then { s with mgmt := { m with roots := setEntry m.roots ((o - 0x100000) / 8) v } }
  else if 0x800000 ≤ o ∧ o < 0x1000000 then writeDieUnit s ((o - 0x800000) / 2 ^ 20) o (o % 2 ^ 20) v
  else if 0x1000000 ≤ o ∧ o < 0x2000000 ∧ o % 2 ^ 16 = 0x1000 then readBackCommand s ((o - 0x1000000) / 2 ^ 16) v
  else s

/-- REGISTER_WRITE (R298): a write of an 8-byte unit through a BAR. A unit with behaviour of its own has it; through BAR4
it is a host write to device memory (R296). -/
def execRegisterWrite (bar : BitVec 3) (offset : Nat) (v : Word) (s : State) : Out :=
  let o := offset / 8 * 8
  if bar = 0 then .next (writeBar0 s (o % 2 ^ 16) v)
  else if bar = 2 then .next (writeBar2 s (o % 2 ^ 32) v)
  else if bar = 4 then execHostWrite o (bytesOf 8 v.toNat) s
  else .next s

end Sys2Proof.Machine
end

