-- ==== Sys2Proof/Machine/Texel.lean ====
section
/-! DEFINITION. Texel formats (R227). The spec names the block formats BC1 to BC5 and BC7 by their published
definitions and does not restate them; what stands here of them is PRESUMED (log 24). -/

namespace Sys2Proof.Machine

/-- Bits h to l of a number. -/
def natBits (v h l : Nat) : Nat := v / 2 ^ l % 2 ^ (h + 1 - l)

/-- Bytes of a texel, or of a 4 × 4 block, and whether it is a block format. -/
def texelBytes (fmt : Nat) : Nat × Bool := match fmt with
  | 0 => (1, false) | 1 => (2, false) | 2 => (4, false) | 3 => (2, false) | 4 => (4, false) | 5 => (8, false)
  | 6 => (4, false) | 7 => (16, false)
  | 8 => (8, true) | 11 => (8, true)
  | _ => (16, true)

/-! ### Block formats, to 8-bit channels -/

/-- A 16-bit colour of 5, 6 and 5 bits as 8-bit R, G and B, each widened by repeating its top bits (PRESUMED log 24). -/
def rgb565 (c : Nat) : List Nat :=
  let r := natBits c 15 11
  let g := natBits c 10 5
  let b := natBits c 4 0
  [r * 8 + r / 4, g * 4 + g / 16, b * 8 + b / 4]

/-- A weighted mean of two 8-bit channels, to the nearest 8-bit integer (PRESUMED log 24). -/
def mean (a wa b wb : Nat) : Nat := (wa * a + wb * b + (wa + wb) / 2) / (wa + wb)

/-- RGBA of pixel i of a BC1 colour block; four: always four colours, as in BC2 and BC3. -/
def bcColour (four : Bool) (b i : Nat) : List Nat :=
  let c0 := natBits b 15 0
  let c1 := natBits b 31 16
  let p := rgb565 c0
  let q := rgb565 c1
  let mix := fun wa wb => (p.zip q).map (fun x => mean x.1 wa x.2 wb) ++ [255]
  match natBits b (33 + 2 * i) (32 + 2 * i) with
  | 0 => p ++ [255]
  | 1 => q ++ [255]
  | 2 => if four || decide (c1 < c0) then mix 2 1 else mix 1 1
  | _ => if four || decide (c1 < c0) then mix 1 2 else [0, 0, 0, 0]

/-- The channel of pixel i of a BC4 block. -/
def bcAlpha (b i : Nat) : Nat :=
  let a0 := natBits b 7 0
  let a1 := natBits b 15 8
  let k := natBits b (18 + 3 * i) (16 + 3 * i)
  if k = 0 then a0
  else if k = 1 then a1
  else if a1 < a0 then mean a0 (8 - k) a1 (k - 1)
  else if k = 6 then 0
  else if k = 7 then 255
  else mean a0 (6 - k) a1 (k - 1)

/-! ### BC7 -/

/-- The subset of each pixel in a partition of two, bit by bit from pixel 0. -/
def bc7Part2 : List Nat :=
  [0xCCCC, 0x8888, 0xEEEE, 0xECC8, 0xC880, 0xFEEC, 0xFEC8, 0xEC80, 0xC800, 0xFFEC, 0xFE80, 0xE800, 0xFFE8, 0xFF00, 0xFFF0, 0xF000]
  ++ [0xF710, 0x8E, 0x7100, 0x8CE, 0x8C, 0x7310, 0x3100, 0x8CCE, 0x88C, 0x3110, 0x6666, 0x366C, 0x17E8, 0xFF0, 0x718E, 0x399C]
  ++ [0xAAAA, 0xF0F0, 0x5A5A, 0x33CC, 0x3C3C, 0x55AA, 0x9696, 0xA55A, 0x73CE, 0x13C8, 0x324C, 0x3BDC, 0x6996, 0xC33C, 0x9966, 0x660]
  ++ [0x272, 0x4E4, 0x4E40, 0x2720, 0xC936, 0x936C, 0x39C6, 0x639C, 0x9336, 0x9CC6, 0x817E, 0xE718, 0xCCF0, 0xFCC, 0x7744, 0xEE22]

/-- The subset of each pixel in a partition of three, two bits each from pixel 0. -/
def bc7Part3 : List Nat :=
  [0xAA685050, 0x6A5A5040, 0x5A5A4200, 0x5450A0A8, 0xA5A50000, 0xA0A05050, 0x5555A0A0, 0x5A5A5050]
  ++ [0xAA550000, 0xAA555500, 0xAAAA5500, 0x90909090, 0x94949494, 0xA4A4A4A4, 0xA9A59450, 0x2A0A4250]
  ++ [0xA5945040, 0xA425054, 0xA5A5A500, 0x55A0A0A0, 0xA8A85454, 0x6A6A4040, 0xA4A45000, 0x1A1A0500]
  ++ [0x50A4A4, 0xAAA59090, 0x14696914, 0x69691400, 0xA08585A0, 0xAA821414, 0x50A4A450, 0x6A5A0200]
  ++ [0xA9A58000, 0x5090A0A8, 0xA8A09050, 0x24242424, 0xAA5500, 0x24924924, 0x24499224, 0x50A50A50]
  ++ [0x500AA550, 0xAAAA4444, 0x66660000, 0xA5A0A5A0, 0x50A050A0, 0x69286928, 0x44AAAA44, 0x66666600]
  ++ [0xAA444444, 0x54A854A8, 0x95809580, 0x96969600, 0xA85454A8, 0x80959580, 0xAA141414, 0x96960000]
  ++ [0xAAAA1414, 0xA05050A0, 0xA0A5A5A0, 0x96000000, 0x40804080, 0xA9A8A9A8, 0xAAAAAA44, 0x2A4A5254]

/-- The anchor pixel of the second of two subsets. -/
def bc7Anchor2 : List Nat :=
  [15, 15, 15, 15, 15, 15, 15, 15, 15, 15, 15, 15, 15, 15, 15, 15]
  ++ [15, 2, 8, 2, 2, 8, 8, 15, 2, 8, 2, 2, 8, 8, 2, 2]
  ++ [15, 15, 6, 8, 2, 8, 15, 15, 2, 8, 2, 2, 2, 15, 15, 6]
  ++ [6, 2, 6, 8, 15, 15, 2, 2, 15, 15, 15, 15, 15, 2, 2, 15]

/-- The anchor pixel of the second of three subsets. -/
def bc7Anchor3a : List Nat :=
  [3, 3, 15, 15, 8, 3, 15, 15, 8, 8, 6, 6, 6, 5, 3, 3]
  ++ [3, 3, 8, 15, 3, 3, 6, 10, 5, 8, 8, 6, 8, 5, 15, 15]
  ++ [8, 15, 3, 5, 6, 10, 8, 15, 15, 3, 15, 5, 15, 15, 15, 15]
  ++ [3, 15, 5, 5, 5, 8, 5, 10, 5, 10, 8, 13, 15, 12, 3, 3]

/-- The anchor pixel of the third of three subsets. -/
def bc7Anchor3b : List Nat :=
  [15, 8, 8, 3, 15, 15, 3, 8, 15, 15, 15, 15, 15, 15, 15, 8]
  ++ [15, 8, 15, 3, 15, 8, 15, 8, 3, 15, 6, 10, 15, 15, 10, 8]
  ++ [15, 3, 15, 10, 10, 8, 9, 10, 6, 15, 8, 15, 3, 6, 6, 8]
  ++ [15, 3, 15, 15, 15, 15, 15, 15, 15, 15, 15, 15, 3, 15, 15, 8]

/-- A mode of BC7: subsets, and the bits of its partition, rotation, index selector, colour and alpha endpoints,
whether it has a p-bit per endpoint or per subset, and the bits of its two sets of indices. -/
structure Bc7Mode where
  ns  : Nat
  pb  : Nat
  rb  : Nat
  isb : Nat
  cb  : Nat
  ab  : Nat
  epb : Bool
  spb : Bool
  ib  : Nat
  ib2 : Nat
  deriving DecidableEq, Repr

def bc7Mode (m : Nat) : Bc7Mode := match m with
  | 0 => { ns := 3, pb := 4, rb := 0, isb := 0, cb := 4, ab := 0, epb := true, spb := false, ib := 3, ib2 := 0 }
  | 1 => { ns := 2, pb := 6, rb := 0, isb := 0, cb := 6, ab := 0, epb := false, spb := true, ib := 3, ib2 := 0 }
  | 2 => { ns := 3, pb := 6, rb := 0, isb := 0, cb := 5, ab := 0, epb := false, spb := false, ib := 2, ib2 := 0 }
  | 3 => { ns := 2, pb := 6, rb := 0, isb := 0, cb := 7, ab := 0, epb := true, spb := false, ib := 2, ib2 := 0 }
  | 4 => { ns := 1, pb := 0, rb := 2, isb := 1, cb := 5, ab := 6, epb := false, spb := false, ib := 2, ib2 := 3 }
  | 5 => { ns := 1, pb := 0, rb := 2, isb := 0, cb := 7, ab := 8, epb := false, spb := false, ib := 2, ib2 := 2 }
  | 6 => { ns := 1, pb := 0, rb := 0, isb := 0, cb := 7, ab := 7, epb := true, spb := false, ib := 4, ib2 := 0 }
  | _ => { ns := 2, pb := 6, rb := 0, isb := 0, cb := 5, ab := 5, epb := true, spb := false, ib := 2, ib2 := 0 }

/-- The subset of pixel i. -/
def bc7Subset (ns part i : Nat) : Nat := match ns with
  | 1 => 0
  | 2 => natBits ((bc7Part2.drop part).headD 0) i i
  | _ => natBits ((bc7Part3.drop part).headD 0) (2 * i + 1) (2 * i)

/-- The anchor pixel of a subset. -/
def bc7Anchor (ns part sub : Nat) : Nat := match ns, sub with
  | _, 0 => 0
  | 2, _ => (bc7Anchor2.drop part).headD 0
  | _, 1 => (bc7Anchor3a.drop part).headD 0
  | _, _ => (bc7Anchor3b.drop part).headD 0

/-- Interpolation weight k of a set of n-bit indices, of 64. -/
def bc7Weight (n k : Nat) : Nat := match n with
  | 2 => (([0, 21, 43, 64] : List Nat).drop k).headD 0
  | 3 => (([0, 9, 18, 27, 37, 46, 55, 64] : List Nat).drop k).headD 0
  | _ => (([0, 4, 9, 13, 17, 21, 26, 30, 34, 38, 43, 47, 51, 55, 60, 64] : List Nat).drop k).headD 0

def bc7Mix (a b w : Nat) : Nat := ((64 - w) * a + w * b + 32) / 64

/-- An endpoint channel of n bits as 8 bits. -/
def bc7Widen (v n : Nat) : Nat := let w := v * 2 ^ (8 - n); w + w / 2 ^ n

/-- The index of pixel i in a set of n-bit indices that starts at a bit; the anchors have one bit less. -/
def bc7Index (b start n i : Nat) (anchors : List Nat) : Nat :=
  let off := start + n * i - (anchors.filter (fun a => decide (a < i))).length
  let w := if anchors.contains i then n - 1 else n
  natBits b (off + w - 1) off

/-- RGBA of pixel i of a BC7 block; a block of no mode is 0 in every channel. -/
def bc7Pixel (b i : Nat) : List Nat :=
  if b % 256 = 0 then [0, 0, 0, 0]
  else
    let m := ((upTo 8).find? (fun k => b.testBit k)).getD 0
    let d := bc7Mode m
    let p0 := m + 1
    let part := natBits b (p0 + d.pb - 1) p0
    let r0 := p0 + d.pb
    let rot := if d.rb = 0 then 0 else natBits b (r0 + d.rb - 1) r0
    let s0 := r0 + d.rb
    let sel := if d.isb = 0 then 0 else natBits b s0 s0
    let e0 := s0 + d.isb
    let a0 := e0 + 3 * 2 * d.ns * d.cb
    let q0 := a0 + 2 * d.ns * d.ab
    let i0 := q0 + (if d.epb then 2 * d.ns else 0) + (if d.spb then d.ns else 0)
    let part' := if d.pb = 0 then 0 else part
    let sub := bc7Subset d.ns part' i
    let pbit := fun (e : Nat) => if d.epb then natBits b (q0 + 2 * sub + e) (q0 + 2 * sub + e)
      else if d.spb then natBits b (q0 + sub) (q0 + sub) else 0
    let extra := if d.epb || d.spb then 1 else 0
    let chan := fun (start n e : Nat) =>
      let v := natBits b (start + n * (2 * sub + e + 1) - 1) (start + n * (2 * sub + e))
      bc7Widen (if extra = 1 then 2 * v + pbit e else v) (n + extra)
    let anchors := (upTo d.ns).map (bc7Anchor d.ns part')
    let k1 := bc7Index b i0 d.ib i anchors
    let i1 := i0 + 16 * d.ib - d.ns
    let w1 := bc7Weight d.ib k1
    let w2 := if d.ib2 = 0 then w1 else bc7Weight d.ib2 (bc7Index b i1 d.ib2 i [0])
    let (wc, wa) := if sel = 1 then (w2, w1) else (w1, w2)
    let col := fun (c : Nat) => bc7Mix (chan (e0 + c * 2 * d.ns * d.cb) d.cb 0) (chan (e0 + c * 2 * d.ns * d.cb) d.cb 1) wc
    let r := col 0
    let g := col 1
    let u := col 2
    let a := if d.ab = 0 then 255 else bc7Mix (chan a0 d.ab 0) (chan a0 d.ab 1) wa
    match rot with
    | 1 => [a, g, u, r]
    | 2 => [r, a, u, g]
    | 3 => [r, g, a, u]
    | _ => [r, g, u, a]

/-! ### A texel's four channels -/

/-- An 8-bit UNORM value (R227). -/
def unorm (c : Nat) : Num := fmtF32.value (ratF32 0 ((c : Rat) / 255))
def numZero : Num := .fin false 0 0
def numOne : Num := .fin false 1 0

/-- Missing channels: G and B read 0, A reads 1. -/
def fillChannels (l : List Num) : List Num := (l ++ ([numZero, numZero, numZero, numOne] : List Num).drop l.length).take 4

/-- The channels of a texel from its bytes; i is its place in a block. -/
def texel (fmt i : Nat) (bs : List Byte) : List Num :=
  let b := ofBytes bs
  let byte := fun k => natBits b (8 * k + 7) (8 * k)
  let half := fun k => fmtF16.value (natBits b (16 * k + 15) (16 * k))
  let single := fun k => fmtF32.value (natBits b (32 * k + 31) (32 * k))
  fillChannels (match fmt with
    | 0 => [unorm (byte 0)]
    | 1 => [unorm (byte 0), unorm (byte 1)]
    | 2 => [unorm (byte 0), unorm (byte 1), unorm (byte 2), unorm (byte 3)]
    | 3 => [half 0]
    | 4 => [half 0, half 1]
    | 5 => [half 0, half 1, half 2, half 3]
    | 6 => [single 0]
    | 7 => [single 0, single 1, single 2, single 3]
    | 8 => (bcColour false b i).map unorm
    | 9 => ((bcColour true (b / 2 ^ 64) i).take 3 ++ [17 * natBits b (4 * i + 3) (4 * i)]).map unorm
    | 10 => ((bcColour true (b / 2 ^ 64) i).take 3 ++ [bcAlpha b i]).map unorm
    | 11 => [unorm (bcAlpha b i)]
    | 12 => [unorm (bcAlpha b i), unorm (bcAlpha (b / 2 ^ 64) i)]
    | _ => (bc7Pixel b i).map unorm)

end Sys2Proof.Machine
end

