-- ==== Sys2Proof/Machine/Texture.lean ====
section
/-! DEFINITION. Texture sampling: descriptors (R226), levels and wrapping (R228), filtering (R229), and the
texture instructions (R230, R370). -/

namespace Sys2Proof.Machine

/-! ### Descriptors (R226) -/

abbrev TexDesc := BitVec 512

def dBase (d : TexDesc) : Nat := bitsOf d 63 0
def dWidth (d : TexDesc) : Nat := bitsOf d 79 64 + 1
def dHeight (d : TexDesc) : Nat := bitsOf d 95 80 + 1
def dLvm1 (d : TexDesc) : Nat := bitsOf d 99 96
def dFmt (d : TexDesc) : Nat := bitsOf d 105 100
def dWrapU (d : TexDesc) : Nat := bitsOf d 107 106
def dWrapV (d : TexDesc) : Nat := bitsOf d 109 108
def dFilt (d : TexDesc) : Nat := bitsOf d 111 110
def dAniso (d : TexDesc) : Nat := bitsOf d 115 112
/-- Channel c of BORDER. -/
def dBorder (d : TexDesc) (c : Nat) : Num := fmtF16.value (bitsOf d (143 + 16 * c) (128 + 16 * c))
def dBias (d : TexDesc) : Int := signNat (bitsOf d 207 192) 16
def dMinLod (d : TexDesc) : Nat := bitsOf d 211 208
def dMaxLod (d : TexDesc) : Nat := bitsOf d 215 212

/-- A descriptor that R226 accepts. -/
def descOk (d : TexDesc) : Bool :=
  decide (bitsOf d 511 216 = 0) && decide (bitsOf d 127 116 = 0) && decide (dAniso d ≤ 4) && decide (dFmt d ≤ 0x0D)
    && decide (dLvm1 d ≤ Nat.log2 (max (dWidth d) (dHeight d)))

/-! ### Levels (R228) -/

/-- A level: its size in texels, its first byte and its pitch. -/
structure Level where
  w     : Nat
  h     : Nat
  first : Nat
  pitch : Nat
  deriving DecidableEq, Repr

def roundUp (n k : Nat) : Nat := (n + k - 1) / k * k

/-- Texels, or 4 × 4 blocks, along an edge. -/
def cells (fmt n : Nat) : Nat := if (texelBytes fmt).2 then (n + 3) / 4 else n

/-- Level l, with its first byte counted on from that of level 0. -/
def levelAt (d : TexDesc) (l : Nat) : Level :=
  let size := fun k => (max 1 (dWidth d / 2 ^ k), max 1 (dHeight d / 2 ^ k))
  let pitch := fun k => roundUp (cells (dFmt d) (size k).1 * (texelBytes (dFmt d)).1) 64
  let first := (upTo l).foldl (fun a k => roundUp (a + pitch k * cells (dFmt d) (size k).2) 256) (dBase d)
  { w := (size l).1, h := (size l).2, first := first, pitch := pitch l }

/-- A coordinate under a wrap code; none: the texel is the border colour. -/
def wrapTo (code n : Nat) (x : Int) : Option Nat := match code with
  | 0 => some (x % n).toNat
  | 1 => let r := (x % (2 * n : Nat)).toNat; some (if r < n then r else 2 * n - 1 - r)
  | 2 => some (min x.toNat (n - 1))
  | _ => if 0 ≤ x ∧ x < n then some x.toNat else none

/-- A texel that a filter takes: its level and place; border: it is the border colour. -/
inductive Tap where
  | at (level x y : Nat)
  | border
  deriving DecidableEq, Repr

def tapAt (d : TexDesc) (l : Nat) (x y : Int) : Tap :=
  let v := levelAt d l
  match wrapTo (dWrapU d) v.w x, wrapTo (dWrapV d) v.h y with
  | some i, some j => .at l i j
  | _, _ => .border

/-- Address and width of the bytes of a tap, and the pixel within its block. -/
def tapPlace (d : TexDesc) (l x y : Nat) : Word × Nat × Nat :=
  let v := levelAt d l
  let (n, block) := texelBytes (dFmt d)
  if block then (gva (BitVec.ofNat 64 (v.first + y / 4 * v.pitch + x / 4 * n)), n, 4 * (y % 4) + x % 4)
  else (gva (BitVec.ofNat 64 (v.first + y * v.pitch + x * n)), n, 0)

/-! ### Level of detail (R229) -/

/-- floor(256 × (log2(r) / 2 + c)) for r above 0. -/
def lodFloor (r c : Rat) : Int :=
  let n := r.num.natAbs
  let l : Rat :=
    if isPow2 n && isPow2 r.den then ((Nat.log2 n : Int) - (Nat.log2 r.den : Int) : Int)
    else
      let a := log2Encl n 0
      let b := log2Encl r.den 0
      ((a.lo : Int) : Rat) * pow2 a.e - (if isPow2 r.den then (Nat.log2 r.den : Rat) else ((b.hi : Int) : Rat) * pow2 b.e)
  (128 * l + 256 * c).floor

/-- λ in units of 1/256, clamped to MINLOD to Min(MAXLOD, LVM1). -/
def clampLod (d : TexDesc) (l : Ext) : Nat :=
  let hi := 256 * min (dMaxLod d) (dLvm1 d)
  match l with
  | .ninf => min (256 * dMinLod d) hi
  | .pinf => hi
  | .real q => min (max (256 * q).floor.toNat (256 * dMinLod d)) hi

/-- What a filter does for one element. -/
inductive Plan where
  | nan                                   -- a NaN coordinate, derivative or level of detail
  | unstated                              -- an infinite coordinate: the spec states no result
  | taps (l : List (Rat × Tap))
  deriving DecidableEq, Repr

/-- The level of detail of an element, with what anisotropic filtering needs: probes, and the derivative of u
and v along the major axis. -/
inductive Lod where
  | nan
  | unstated
  | lod (l : Ext) (n : Nat) (du dv : Rat)
  deriving DecidableEq, Repr

/-- An FP32 derivative or difference: none for NaN. -/
def derivOf (code : Nat) : Option Ext := if f32Nan code then none else some (f32Ext code)

/-- b − a, exactly. -/
def diffOf (b a : Nat) : Option Ext :=
  match derivOf b, derivOf a with
  | some (.real p), some (.real q) => some (.real (p - q))
  | some .pinf, some .pinf => none
  | some .ninf, some .ninf => none
  | some .pinf, some _ => some .pinf
  | some .ninf, some _ => some .ninf
  | some (.real _), some .pinf => some .ninf
  | some (.real _), some .ninf => some .pinf
  | _, _ => none

/-- A level plus a bias in FP32. -/
def biased (l : Ext) (bias : Nat) : Option Ext :=
  if f32Nan bias then none
  else match l, f32Ext bias with
    | .real p, .real q => some (.real (p + q))
    | .real _, b => some b
    | .pinf, .ninf => none
    | .ninf, .pinf => none
    | a, _ => some a

/-- The level of detail from derivatives and a bias (R229). bias is an FP32 code. -/
def lodFrom (d : TexDesc) (ux vx uy vy : Option Ext) (bias : Nat) : Lod :=
  match ux, vx, uy, vy with
  | some (.real a), some (.real b), some (.real c), some (.real e) =>
    let w : Rat := dWidth d
    let h : Rat := dHeight d
    let rx := (w * a) * (w * a) + (h * b) * (h * b)
    let ry := (w * c) * (w * c) + (h * e) * (h * e)
    let major := if ry ≤ rx then rx else ry
    let minor := if ry ≤ rx then ry else rx
    let ratio := 2 ^ dAniso d
    let n := if dFilt d ≠ 3 ∨ major = 0 then 1
      else if minor = 0 then ratio
      else (((upTo ratio).map (· + 1)).find? (fun k => decide (major ≤ (k * k : Nat) * minor))).getD ratio
    let (du, dv) := if ry ≤ rx then (a, b) else (c, e)
    if f32Nan bias then .nan
    else if major = 0 then .lod (.real (dMinLod d : Nat)) n du dv
    else match f32Ext bias with
      | .real q => .lod (.real (((lodFloor (major / (n * n : Nat)) (q + (dBias d : Rat) / 256) : Int) : Rat) / 256)) n du dv
      | i => .lod i n du dv
  | some _, some _, some _, some _ =>
    match biased .pinf bias with
    | some l => if dFilt d = 3 then .unstated else .lod l 1 0 0
    | none => .nan
  | _, _, _, _ => .nan

/-- A level of detail that an operand gives. -/
def lodGiven (code : Nat) : Lod := if f32Nan code then .nan else .lod (f32Ext code) 1 0 0

/-! ### Filters (R229) -/

/-- Bilinear taps at a level, each with its weight times k. -/
def bilinear (d : TexDesc) (l : Nat) (u v k : Rat) : List (Rat × Tap) :=
  let lv := levelAt d l
  let su := u * lv.w - 1 / 2
  let sv := v * lv.h - 1 / 2
  let x := su.floor
  let y := sv.floor
  let a : Rat := ((256 * (su - x)).floor : Rat) / 256
  let b : Rat := ((256 * (sv - y)).floor : Rat) / 256
  [(k * (1 - a) * (1 - b), tapAt d l x y), (k * a * (1 - b), tapAt d l (x + 1) y),
   (k * (1 - a) * b, tapAt d l x (y + 1)), (k * a * b, tapAt d l (x + 1) (y + 1))]

/-- Trilinear taps at λ in units of 1/256. -/
def trilinear (d : TexDesc) (lam : Nat) (u v k : Rat) : List (Rat × Tap) :=
  let l := lam / 256
  let f : Rat := ((lam % 256 : Nat) : Rat) / 256
  bilinear d l u v (k * (1 - f)) ++ bilinear d (min (l + 1) (min (dMaxLod d) (dLvm1 d))) u v (k * f)

/-- The taps of one element. -/
def planOf (d : TexDesc) (u v : Nat) (l : Lod) : Plan :=
  if f32Nan u || f32Nan v then .nan
  else match l with
    | .nan => .nan
    | .unstated => .unstated
    | .lod e n du dv =>
      if !f32Fin u || !f32Fin v then .unstated
      else
        let uq := f32Rat u
        let vq := f32Rat v
        let lam := clampLod d e
        let near := (lam + 128) / 256
        match dFilt d with
        | 0 =>
          let lv := levelAt d near
          .taps [(1, tapAt d near (uq * lv.w).floor (vq * lv.h).floor)]
        | 1 => .taps (bilinear d near uq vq 1)
        | 2 => .taps (trilinear d lam uq vq 1)
        | _ => .taps ((upTo n).flatMap (fun k =>
            let o : Rat := ((2 * k + 1 : Nat) : Rat) / ((2 * n : Nat) : Rat) - 1 / 2
            trilinear d lam (uq + o * du) (vq + o * dv) (1 / (n : Rat))))

/-- One channel: the exact weighted sum of the taps, rounded once. A single tap passes; none where the spec
states no result, for a value that is not finite under a weight of 0 or against another infinity. -/
def filterChannel (l : List (Rat × Num)) : Option Nat :=
  match l with
  | [(_, x)] => some (roundNum fmtF32 0 false x).1
  | _ =>
    let odd := l.filter (fun t => !t.2.isFin)
    if odd.isEmpty then some (ratF32 0 ((l.map (fun t => t.1 * t.2.rat)).sum))
    else if odd.any (fun t => decide (t.1 = 0)) then none
    else if odd.any (fun t => t.2.isNan) then some fmtF32.nan
    else if odd.all (fun t => decide (t.2 = .inf false)) then some (fmtF32.inf false)
    else if odd.all (fun t => decide (t.2 = .inf true)) then some (fmtF32.inf true)
    else none

/-- R, G, B and A of an element from the channels of its taps. -/
def filterAll (l : List (Rat × List Num)) : List (Option Nat) :=
  (upTo 4).map (fun c => filterChannel (l.map (fun t => (t.1, (t.2.drop c).headD numZero))))

/-! ### Texel reads -/

/-- The reads of a plan. -/
def planAccs (d : TexDesc) (i : Nat) : Plan → List Acc
  | .taps l => l.filterMap (fun t => match t.2 with
      | .at lv x y =>
        let p := tapPlace d lv x y
        some { accGv p.1 p.2.1 .load (unaligned p.1 p.2.1) with elem := i }
      | .border => none)
  | _ => []

/-- The element's result once its reads have succeeded: load gives the bytes at an address. -/
def planValue (d : TexDesc) (load : Word → Nat → List Byte) : Plan → List (Option Nat)
  | .nan => List.replicate 4 (some fmtF32.nan)
  | .unstated => List.replicate 4 none
  | .taps l => filterAll (l.map (fun t => (t.1, match t.2 with
      | .border => (upTo 4).map (dBorder d)
      | .at lv x y => let p := tapPlace d lv x y; texel (dFmt d) p.2.2 (load p.1 p.2.1))))

/-- The reads of one element as one: its first cause in the order of R264, or else its blocks, or else the places by
address. -/
def readsOf (s : State) (w : Who) (accs : List Acc) : Except Halt (List (Word × Target × Nat)) :=
  (checkWhole s w accs).map (fun ts => (accs.zip ts).map (fun a => (a.1.ea, a.2.1, a.1.width)))

/-- The bytes that some reads have found at an address. -/
def loadAt (s : State) (pend : Table Byte) (l : List (Word × Target × Nat)) (a : Word) (n : Nat) : List Byte :=
  match l.find? (fun r => r.1 = a) with
  | some r => seen s pend r.2.1.loc n
  | none => List.replicate n 0

/-! ### The instructions (R370) -/

/-- The descriptor, and the state that has read it. -/
def readDesc (s : State) (n : BitVec 8) : Except Halt (TexDesc × State) := do
  let m ← via s s.who 6 n
  let accs := (pieces 4096 2 m.base.toNat 64).map (fun p =>
    { accVia s.turn.core m (BitVec.ofNat 64 p.1 - m.base) p.2 .load 0 with
        bounds := (match m.len with | some k => decide (64 ≤ k) | none => true) })
  let ts ← checkWhole s s.who accs
  let d : TexDesc := BitVec.ofNat 512 (ofBytes (loadRun s ts))
  trapIf (!descOk d) (trapOf .illegal 1)
  .ok (d, noteRun (s.noteVia 6 n) ts)

/-- The texel reads of a texture instruction are one access for its bank conflicts (R126; DESIGN CHOICE log 77). -/
def countTaps (s : State) (taps : List (Word × Target × Nat)) : State :=
  if s.task.pcsel.isEmpty then s
  else countEvent s s.taskId 7 ((((taps.filterMap (fun t => spadOf t.2.1)).eraseDups).map (fun c =>
    bankConflicts ((taps.filter (fun t => spadOf t.2.1 = some c)).map (fun t => (t.2.1.loc, t.2.2))))).sum)

/-- The elements of a texture instruction: each reads its texels as a gather does, and those that neither fault
nor park write their four channels. -/
def texElements (s0 s : State) (d : Reg) (desc : TexDesc) (m : MaskSel) (plan : Nat → Option Plan) : Out :=
  let rs := (s.active m).map (fun i => (i, plan i, match plan i with
    | some p => readsOf s s.who (planAccs desc i p)
    | none => .ok []))
  let sp : Split := {
    good := [],
    bad := rs.filterMap (fun r => match r.2.2 with | .error (.trap t) => some (r.1, t) | _ => none),
    parked := rs.filterMap (fun r => match r.2.2 with | .error (.park bs) => some (r.1, bs) | _ => none),
    stalled := rs.filterMap (fun r => match r.2.2 with | .error (.wait w) => some (r.1, w) | _ => none) }
  let ok := rs.filterMap (fun r => match r.2.2 with | .ok l => some (r.1, r.2.1, l) | _ => none)
  let vals := ok.map (fun r => (r.1, match r.2.1 with
    | some p => planValue desc (loadAt s s.me.pend r.2.2) p
    | none => List.replicate 4 (some 0)))
  let taps := ok.flatMap (fun r => r.2.2)
  let s1 := countTaps (taps.foldl (fun s l => noteAccess s l.2.1 l.2.2 false) s) taps
  let (f, s2) := s1.drawIf (vals.any (fun v => v.2.any (fun c => c.isNone)))
  let words := vals.map (fun v => (v.1, (upTo 4).map (fun c => ((v.2.drop c).headD none).getD (freeWord f v.1 c))))
  elementsEnd s0 (writeColumns s2 d.toNat 4 m words) sp

/-- A sampling form: limits are its register limits, lod the level of detail of an element. -/
def texForm (s : State) (d s1 : Reg) (n : BitVec 8) (m : MaskSel) (limits : Bool) (lod : TexDesc → Nat → Lod) : Out :=
  match (do
    rayCheck s (decide (d.toNat ≤ 28) && decide (s1.toNat ≤ 30) && limits)
    readDesc s n : Except Halt (TexDesc × State)) with
  | .error h => finish s (.error h)
  | .ok (desc, r) =>
    texElements s r d desc m (fun i => some (planOf desc (s.elem s1.toNat 32 i) (s.elem (s1.toNat + 1) 32 i) (lod desc i)))

/-- The derivatives of the quad of element i (R230). -/
def quadLod (s : State) (s1 : Reg) (bias : Nat) (desc : TexDesc) (i : Nat) : Lod :=
  let q := i / 4 * 4
  let u := fun j => s.elem s1.toNat 32 (q + j)
  let v := fun j => s.elem (s1.toNat + 1) 32 (q + j)
  lodFrom desc (diffOf (u 1) (u 0)) (diffOf (v 1) (v 0)) (diffOf (u 2) (u 0)) (diffOf (v 2) (v 0)) bias

/-- TEX (R370). -/
def execTex (d s1 s2 : Reg) (n : BitVec 8) (m : MaskSel) (s : State) : Out :=
  texForm s d s1 n m (decide (s.vl % 4 = 0)) (fun desc i => quadLod s s1 (s.elem s2.toNat 32 i) desc i)

/-- TEX.GRAD (R370). -/
def execTexGrad (d s1 s2 : Reg) (n : BitVec 8) (m : MaskSel) (s : State) : Out :=
  texForm s d s1 n m (decide (s2.toNat ≤ 28)) (fun desc i =>
    let g := fun j => derivOf (s.elem (s2.toNat + j) 32 i)
    lodFrom desc (g 0) (g 1) (g 2) (g 3) 0)

/-- TEX.LOD (R370). -/
def execTexLod (d s1 s2 : Reg) (n : BitVec 8) (m : MaskSel) (s : State) : Out :=
  texForm s d s1 n m true (fun _ i => lodGiven (s.elem s2.toNat 32 i))

/-- The texel that TXLD reads; none where the level or the coordinates lie outside: the result is 0. -/
def txldPlan (s : State) (s1 s2 : Reg) (desc : TexDesc) (i : Nat) : Option Plan :=
  let l := (s.x s2).toNat
  let x := signNat (s.elem s1.toNat 32 i) 32
  let y := signNat (s.elem (s1.toNat + 1) 32 i) 32
  if dLvm1 desc < l then none
  else
    let v := levelAt desc l
    if 0 ≤ x ∧ x < v.w ∧ 0 ≤ y ∧ y < v.h then some (.taps [(1, .at l x.toNat y.toNat)]) else none

/-- TXLD (R370). -/
def execTxld (d s1 s2 : Reg) (n : BitVec 8) (m : MaskSel) (s : State) : Out :=
  match (do
    rayCheck s (decide (d.toNat ≤ 28) && decide (s1.toNat ≤ 30))
    readDesc s n : Except Halt (TexDesc × State)) with
  | .error h => finish s (.error h)
  | .ok (desc, r) => texElements s r d desc m (txldPlan s s1 s2 desc)

end Sys2Proof.Machine
end

