-- ==== Sys2Proof/Machine/Units.lean ====
section
/-! DEFINITION. The requests of the intersection unit, RAST (R215 to R217) and TRACE (R218 to R224), and of the
texture unit's bulk path, SAMPLE (R231). -/

namespace Sys2Proof.Machine

/-- A read by a unit of a structure of n bytes that must be aligned to k. A misaligned one fails with
MISALIGNED, as a global load does (DESIGN CHOICE log 21). -/
def structAt (s : State) (m : Msg) (a n k : Nat) : Except Halt Nat :=
  let w := BitVec.ofNat 64 a
  if w.toNat % k ≠ 0 then .error (.trap (trapAt .misaligned 0 0 (gva w)))
  else match engineLoad s m w n with
    | .error h => .error h
    | .ok bs => .ok (ofBytes bs)

/-- A unit writes one record. -/
def recordAt (s : State) (m : Msg) (a : Nat) (bs : List Byte) : Except Halt (State × Msg) :=
  let w := BitVec.ofNat 64 a
  if w.toNat % bs.length ≠ 0 then .error (.trap (trapAt .misaligned 0 0 (gva w))) else engineStore s m w bs

/-- A request's write cannot be made: the request fails with n bytes written, or waits for a line. -/
def writeStops (s : State) (m : Msg) (n : Nat) : Halt → State
  | .trap t => failWrite s m n t
  | h => suspend s m h

/-! ### RAST (R215 to R217) -/

/-- A setup record (R215). -/
abbrev Setup := BitVec 512
def setupOk (d : Setup) : Bool := decide (bitsOf d 287 258 = 0) && decide (bitsOf d 255 192 = 0) && decide (bitsOf d 257 256 ≠ 3)

/-- Vertex i in 1/256 pixels. -/
def setupVertex (d : Setup) (i : Nat) : Int × Int :=
  (signNat (bitsOf d (64 * i + 31) (64 * i)) 32, signNat (bitsOf d (64 * i + 63) (64 * i + 32)) 32)

/-- A number of 1/256 pixels. -/
def pixels (n : Int) : Rat := (n : Rat) / 256

/-- The vertices of a view, by its offset. -/
def viewVertex (d : Setup) (off : Int × Int) (i : Nat) : Pt :=
  let v := setupVertex d i
  { x := pixels (v.1 + off.1), y := pixels (v.2 + off.2) }

/-- CULL discards the triangle of a view. -/
def viewCulled (d : Setup) (off : Int × Int) : Bool :=
  let p := viewVertex d off
  let dd := cross ((p 1).sub (p 0)) ((p 2).sub (p 0))
  match bitsOf d 257 256 with
  | 1 => decide (0 < dd)
  | 2 => decide (dd < 0)
  | _ => false

/-- The sample of pixel (x, y) is covered (R216). -/
def covered (d : Setup) (off : Int × Int) (x y : Nat) : Bool :=
  let p := viewVertex d off
  insideTri (p 0) (p 1) (p 2) { x := (x : Rat) + 1 / 2, y := (y : Rat) + 1 / 2 }

/-- MASK of a sub-tile (R217). -/
def tileMask (d : Setup) (off : Int × Int) (sy sx : Nat) : Nat :=
  let x0 := 64 * bitsOf d 303 288 + 8 * sx
  let y0 := 64 * bitsOf d 319 304 + 8 * sy
  ((upTo 64).map (fun k => if covered d off (x0 + k % 8) (y0 + k / 8) then 2 ^ k else 0)).sum

/-- The records of a view, without LAST. -/
def viewRecords (d : Setup) (v : Nat) (off : Int × Int) : List Nat :=
  if viewCulled d off then []
  else (upTo 64).filterMap (fun k =>
    let mask := tileMask d off (k / 8) (k % 8)
    if mask = 0 then none else some (v * 2 ^ 72 + k / 8 * 2 ^ 68 + k % 8 * 2 ^ 64 + mask))

/-- The offsets of views, in entries of 8 bytes each (R215). -/
def viewOffsets (bs : List Byte) : List (Int × Int) := (upTo (bs.length / 8)).map (fun i =>
  let e := ofBytes ((bs.drop (8 * i)).take 8)
  (signNat (e % 2 ^ 32) 32, signNat (e / 2 ^ 32) 32))

/-- The records of some views, in order, as far as their offsets are known. -/
def rastRecords (d : Setup) (views : List Nat) (offs : List (Int × Int)) : List Nat :=
  (views.zip offs).flatMap (fun p => viewRecords d p.1 p.2)

/-- The places of n records from address a, as far as they can be written, and why the next cannot; an aligned record lies
in one sector. -/
def recordPlaces (s : State) (m : Msg) (a : Nat) : Nat → List (Target × Nat) × Option Halt
  | 0 => ([], none)
  | n + 1 =>
    let w := BitVec.ofNat 64 a
    match (if w.toNat % 16 ≠ 0 then .error (.trap (trapAt .misaligned 0 0 (gva w))) else engineWrite s m w 16) with
    | .error h => ([], some h)
    | .ok t =>
      let r := recordPlaces s m (a + 16) n
      ((t, 16) :: r.1, r.2)

/-- The bytes of some records, LAST in the last of them. -/
def recordBytes : List Nat → List Byte
  | [] => []
  | [r] => bytesOf 16 (r + 2 ^ 127)
  | r :: rs => bytesOf 16 r ++ recordBytes rs

/-- Write records at their places, from the request's destination on. -/
def writeRecords (s : State) (m : Msg) (ps : List (Target × Nat)) (recs : List Nat) : State × Msg :=
  (ps.foldl noteWrite (noteWalks s m m.w2 (16 * ps.length)), m.wrote (layBytes (spots ps) (recordBytes recs)))

/-- What RAST reads after its setup record: the offsets of its views. -/
def offsetReads (d : Setup) (views : List Nat) : List (Nat × Nat) :=
  let tab := bitsOf d 511 448
  if tab = 0 then [] else views.map (fun v => (tab + 8 * v, 8))

/-- The pieces of a request's reads that it has not made, once it has made k bytes of them: it reads on where it waited
(R250). -/
def unread : Nat → List (Nat × Nat) → List (Nat × Nat)
  | _, [] => []
  | k, (a, n) :: ps => if n ≤ k then unread (k - n) ps else (a, n) :: ps

/-- An engine reads on, each piece aligned as asked, after the bytes that it has read before; and why no more. -/
def readOn (s : State) (m : Msg) (k : Nat) (got : List Byte) : List (Nat × Nat) → List Byte × Option Halt
  | [] => (got, none)
  | (a, n) :: ps => match structAt s m a n k with
    | .error h => (got, some h)
    | .ok v => readOn s m k (got ++ bytesOf n v) ps

/-- A RAST request is carried out, from the byte of its setup record or of its offsets at which it waited (R250). -/
def runRast (s : State) (m : Msg) : State :=
  let cap := mArg m % 2 ^ 16
  if mOp m ≠ 0 ∨ mArg m / 2 ^ 16 ≠ 0 ∨ cap = 0 then complete s m 0 (Cause.code .illegal) false
  else if m.w1.toNat % 64 ≠ 0 then failWith s m 0 (trapAt .misaligned 0 0 (gva m.w1))
  else
    let setup := unread m.kept.length (sectorPieces m.w1.toNat 64)
    match readOn s m 1 m.kept setup with
    | (_, some (.trap t)) => failWith s m 0 t
    | (got, some h) => suspend (noteReads s m setup) { m with kept := got } h
    | (got, none) =>
      let d : Setup := BitVec.ofNat 512 (ofBytes (got.take 64))
      let views := (upTo 128).filter (fun v => bitOf d (320 + v))
      let offs := unread (got.length - 64) (offsetReads d views)
      let s0 := noteReads s m (setup ++ offs)
      if !setupOk d then complete s0 m 0 (Cause.code .illegal) false
      else
        match readOn s m 8 got offs with
        | (all, some (.park bs)) => suspend s0 { m with kept := all } (.park bs)
        | (all, some (.wait w)) => suspend s0 { m with kept := all } (.wait w)
        | (all, stop) =>
          let recs := rastRecords d views (if bitsOf d 511 448 = 0 then views.map (fun _ => (0, 0)) else viewOffsets (all.drop 64))
          match recordPlaces s0 m m.w2.toNat (min recs.length cap) with
          | (_, some (.park bs)) => suspend s0 { m with kept := all } (.park bs)
          | (_, some (.wait w)) => suspend s0 { m with kept := all } (.wait w)
          | (ps, bad) =>
            let k := ps.length
            let (s1, m1) := writeRecords s0 m ps (recs.take k)
            match bad, stop with
            | some (.trap t), _ => failWrite s1 m1 (16 * k) t
            | _, some (.trap t) => if cap < recs.length then complete s1 m1 (16 * k) (Cause.code .bounds) false else failWith s1 m1 (16 * k) t
            | _, _ => complete s1 m1 (16 * k) (if cap < recs.length then Cause.code .bounds else 0) false

/-- RAST (R217). The intersection unit's requests with an unassigned OP fail here too (R212). -/
def execRast (cluster : Nat) (s : State) : Out :=
  match takeRequest s cluster 1 with
  | some (m, s1) => if mOp m = 1 then .next s else .next (carryOut s1 m runRast)
  | none => .next s

/-! ### TRACE (R218 to R224) -/

/-- What a request says of every ray, and what a ray record says of one. -/
structure Tracing where
  ray  : RayRec
  cull : Nat
  mask : Nat
  any  : Bool
  deriving DecidableEq, Repr

/-- A counting hit. -/
structure RayHit where
  t : Nat
  u : Nat
  v : Nat
  back : Bool
  inst : Nat
  geom : Nat
  prim : Nat
  deriving DecidableEq, Repr

/-- What a stack entry refers to (R219). -/
inductive BvhItem where
  | node (addr : Nat)
  | leaves (addr n : Nat)
  | inst (addr : Nat)
  deriving DecidableEq, Repr

/-- A stack entry: inside an instance it carries the instance's id and the object-space ray. -/
structure BvhEntry where
  item  : BvhItem
  space : Option (Nat × RayRec)
  deriving DecidableEq, Repr

/-- How far a ray has come: its best hit, the most stack entries it has held, the free values used, and what it has read. -/
structure Walk where
  best : Option RayHit
  deep : Nat
  cnt  : Nat
  read : List (Nat × Nat) := []
  deriving DecidableEq, Repr

/-- A ray has read n bytes. -/
def Walk.reads (w : Walk) (a n : Nat) : Walk := { w with read := w.read ++ sectorPieces (BitVec.ofNat 64 a).toNat n }

/-- The end of the ray's interval at present: tcur (R219). -/
def Walk.tcur (w : Walk) (r : RayRec) : Nat := match w.best with
  | some h => h.t
  | none => r.tmax

/-- a replaces b as the best hit (R223). -/
def closer (a b : RayHit) : Bool :=
  let ta := f32Ext a.t
  let tb := f32Ext b.t
  if ta = tb then decide (a.inst < b.inst ∨ (a.inst = b.inst ∧ (a.geom < b.geom ∨ (a.geom = b.geom ∧ a.prim < b.prim))))
  else ta.le tb

/-- The unread trap of a malformed structure. -/
def badStruct : Halt := .trap (trapOf .illegal 0)

/-- A leaf counts as a hit of a ray: CULL of R222. -/
def leafCounts (tr : Tracing) (leaf : Nat) (front : Bool) : Bool :=
  decide (leaf / 2 ^ 352 % 2 = 1) || !((decide (tr.cull = 1) && !front) || (decide (tr.cull = 2) && front))

/-- One triangle leaf (R220, R222). Where the spec states no result a free value says what it is. -/
def testLeaf (tr : Tracing) (space : Option (Nat × RayRec)) (leaf : Nat) (w : Walk) : Walk :=
  let ray := match space with | some (_, r) => r | none => tr.ray
  let inst := match space with | some (i, _) => i | none => 2 ^ 32 - 1
  let free := Config.freeBits w.cnt
  let res := triTest ray ((upTo 9).map (fun i => leaf / 2 ^ (32 * i) % 2 ^ 32))
  let w1 := if res.open then { w with cnt := w.cnt + 1 } else w
  match res.given ray (freeWord free 0) with
  | none => w1
  | some (t, u, v, front) =>
    let h : RayHit := { t := t, u := u, v := v, back := !front, inst := inst, geom := leaf / 2 ^ 320 % 2 ^ 32, prim := leaf / 2 ^ 288 % 2 ^ 32 }
    if leafCounts tr leaf front && (match w1.best with | some b => closer h b | none => true) then { w1 with best := some h } else w1

/-- A block of n leaves from address a, as far as it can be read; ANY stops at the first hit. -/
def testLeaves (s : State) (m : Msg) (tr : Tracing) (space : Option (Nat × RayRec)) : Nat → Nat → Walk → Walk × Option Halt
  | 0, _, w => (w, none)
  | n + 1, a, w => match structAt s m a 64 64 with
    | .error h => (w, some h)
    | .ok leaf =>
      let w0 := w.reads a 64
      if leaf / 2 ^ 353 ≠ 0 then (w0, some badStruct)
      else
        let w1 := testLeaf tr space leaf w0
        if tr.any && w1.best.isSome then (w1, none) else testLeaves s m tr space n (a + 64) w1

/-- An address by a signed offset. -/
def offsetBy (a bits width unit : Nat) : Nat := (BitVec.ofInt 64 ((a : Int) + signNat bits width * unit)).toNat

/-- What a child reference refers to; none for an empty one (R219). -/
def childItem (a ref : Nat) : Option BvhItem := match ref / 2 ^ 30 with
  | 1 => some (.node (offsetBy a (ref % 2 ^ 30) 30 128))
  | 2 => some (.leaves (offsetBy a (ref % 2 ^ 26) 26 64) (ref / 2 ^ 26 % 16 + 1))
  | 3 => some (.inst (offsetBy a (ref % 2 ^ 30) 30 64))
  | _ => none

def nodeCount (d : Nat) : Nat := d / 2 ^ 120 % 8 + 1
def nodeRef (d j : Nat) : Nat := d / 2 ^ (128 + 32 * j) % 2 ^ 32

/-- A node's reserved fields are 0, and its empty children are as R219 says. -/
def nodeOk (d : Nat) : Bool :=
  decide (d / 2 ^ 960 = 0) && decide (d / 2 ^ 123 % 32 = 0)
    && (upTo 8).all (fun j => if nodeRef d j / 2 ^ 30 = 0 then decide (nodeRef d j = 0) else decide (j < nodeCount d))

/-- The decoded box of child j, low and high bounds; none where the node's origin is not finite. -/
def childBox (d j : Nat) : Option (List Ext × List Ext) :=
  let org := fun a => d / 2 ^ (32 * a) % 2 ^ 32
  if (upTo 3).any (fun a => !f32Fin (org a)) then none
  else
    let bound := fun (k a : Nat) =>
      Ext.real (f32Rat (org a) + ((d / 2 ^ (384 + 72 * j + 12 * k) % 2 ^ 12 : Nat) : Rat) * pow2 (signNat (d / 2 ^ (96 + 8 * a) % 2 ^ 8) 8))
    some ((upTo 3).map (fun a => bound a a), (upTo 3).map (fun a => bound (a + 3) a))

/-- The box test hits for certain (R219). -/
def childHit (r : RayRec) (tcur d j : Nat) : Bool :=
  if r.hasNan || !r.finite then false
  else match childBox d j with
    | none => false
    | some (lo, hi) => (boxEntry (upTo 3) (r.org.map f32Rat) (r.dir.map f32Rat) (f32Ext r.tmin) (f32Ext tcur) lo hi).isSome

/-- The children that a visit of a node goes on to, in the order of their visits: all that are hit for
certain, and whichever others the conservative test keeps (R219, R224). -/
def visitedChildren (r : RayRec) (tcur d : Nat) (order : List Nat) : List Nat :=
  let valid := (upTo 8).filter (fun j => decide (nodeRef d j ≠ 0))
  let first := (order.filter (fun j => valid.contains j)).eraseDups
  first ++ valid.filter (fun j => childHit r tcur d j && !first.contains j)

/-- One component of an object-space ray: a row of XFORM times a vector, exact and rounded once. A NaN among the
operands is a NaN of the ray (R222); where infinities give the product no value the component is free (DESIGN CHOICE
log 33). -/
def objectPart (row vec : List Num) (free : Nat) : Nat :=
  match (dot row vec).1 with
  | .nan _ => if (row ++ vec).any Num.isNan then fmtF32.nan else free
  | v => (roundNum fmtF32 0 false v).1

/-- The object-space ray of an instance (R220). -/
def objectRay (r : RayRec) (inst free : Nat) : RayRec :=
  let row := fun (n i : Nat) => (upTo n).map (fun j => fmtF32.value (inst / 2 ^ (32 * (4 * i + j)) % 2 ^ 32))
  let num := fun (l : List Nat) => l.map fmtF32.value
  { r with org := (upTo 3).map (fun i => objectPart (row 4 i) (num r.org ++ [numOne]) (freeWord free 0 i)),
           dir := (upTo 3).map (fun i => objectPart (row 3 i) (num r.dir) (freeWord free 1 i)) }

/-- Visit one entry: the walk after it, and the entries that it leads to, or why the ray ends or waits. -/
def visit (s : State) (m : Msg) (tr : Tracing) (e : BvhEntry) (w0 : Walk) : Walk × Except Halt (List BvhEntry) :=
  match e.item with
  | .leaves a n => match testLeaves s m tr e.space n a w0 with
    | (w1, some h) => (w1, .error h)
    | (w1, none) => (w1, .ok [])
  | .node a => match structAt s m a 128 128 with
    | .error h => (w0, .error h)
    | .ok d =>
      let w := w0.reads a 128
      if !nodeOk d then (w, .error badStruct)
      else
        let ray := match e.space with | some (_, r) => r | none => tr.ray
        let kids := visitedChildren ray (w.tcur tr.ray) d (Config.visitOrder w.cnt a)
        ({ w with cnt := w.cnt + 1 }, .ok (kids.filterMap (fun j => (childItem a (nodeRef d j)).map (fun it => { item := it, space := e.space }))))
  | .inst a =>
    if e.space.isSome then (w0, .error badStruct)
    else match structAt s m a 64 64 with
      | .error h => (w0, .error h)
      | .ok d =>
        let w := w0.reads a 64
        if d / 2 ^ 488 ≠ 0 then (w, .error badStruct)
        else if (d / 2 ^ 480 % 256).land tr.mask = 0 then (w, .ok [])
        else
          let ray := objectRay tr.ray d (Config.freeBits w.cnt)
          ({ w with cnt := w.cnt + 1 }, .ok [{ item := .node (d / 2 ^ 384 % 2 ^ 64), space := some (d / 2 ^ 448 % 2 ^ 32, ray) }])

/-- How a ray's traversal stops. -/
inductive RayStop where
  | over                       -- it has ended without an error
  | bounds                     -- its stack is full (R224)
  | failed (t : Trap)          -- a structure is malformed, or cannot be read
  | wait (h : Halt)            -- it waits for a fill or for a line
  | endless                    -- it is still under way: a hierarchy that refers back to itself

/-- Traverse with the entries of a stack, newest first; limit entries fit. -/
def traverse (s : State) (m : Msg) (tr : Tracing) (limit : Nat) : Nat → List BvhEntry → Walk → Walk × RayStop
  | 0, _, w => (w, .endless)
  | _ + 1, [], w => (w, .over)
  | fuel + 1, e :: st, w =>
    match visit s m tr e w with
    | (w1, .error (.trap t)) => (w1, .failed t)
    | (w1, .error h) => (w1, .wait h)
    | (w1, .ok push) =>
      if tr.any && w1.best.isSome then (w1, .over)
      else
        let held := (push.length - 1) + st.length
        let w2 := { w1 with deep := max w1.deep (min held limit) }
        if limit < held then (w2, .bounds) else traverse s m tr limit fuel (push ++ st) w2

/-- The hit record of a ray (R223). -/
def hitRecord (best : Option RayHit) (stat : Nat) : Nat :=
  stat * 2 ^ 200 + (match best with
    | none => f32Inf
    | some h => h.t + h.prim * 2 ^ 32 + h.geom * 2 ^ 64 + h.inst * 2 ^ 96 + h.u * 2 ^ 128 + h.v * 2 ^ 160 + 2 ^ 192
        + (if h.back then 2 ^ 193 else 0))

/-- A ray record's fields (R221), where no reserved one is set. -/
def rayOf (d : Nat) (any : Bool) : Option Tracing :=
  if d / 2 ^ 330 ≠ 0 ∨ d / 2 ^ 328 % 4 = 3 then none
  else
    let f := fun i => d / 2 ^ (32 * i) % 2 ^ 32
    some { ray := { org := [f 0, f 1, f 2], dir := [f 4, f 5, f 6], tmin := f 3, tmax := f 7 },
           cull := d / 2 ^ 328 % 4, mask := d / 2 ^ 320 % 2 ^ 8, any := any }

/-- Visits of one ray before the model calls its traversal endless. -/
def walkFuel : Nat := 2 ^ 64

/-- Trace ray i: its walk, and how it stops. R221 sets no alignment on the ray records. -/
def traceRay (s : State) (m : Msg) (i : Nat) : Walk × RayStop :=
  let w : Walk := { best := none, deep := 0, cnt := s.freeCnt }
  match structAt s m (m.w1.toNat + 64 * i) 64 1 with
  | .error (.trap t) => (w, .failed t)
  | .error h => (w, .wait h)
  | .ok d =>
    let w := w.reads (m.w1.toNat + 64 * i) 64
    match rayOf d (bitOf m.w0 10) with
    | none => (w, .failed (trapOf .illegal 0))
    | some tr => traverse s m tr (16 + bitsOf m.w0 15 11) walkFuel [{ item := .node (d / 2 ^ 256 % 2 ^ 64), space := none }] w

/-- What a ray spilled: entries whose layout the spec does not give, so free values (R224). -/
def spillRay (s : State) (m : Msg) (i deep : Nat) : Except Halt (State × Msg) :=
  if deep ≤ 16 then .ok (s, m)
  else
    let n := 8 * (deep - 16)
    let off := 64 * bitsOf m.w0 28 16 + 8 * bitsOf m.w0 15 11 * i
    engineStore { s with freeCnt := s.freeCnt + 1 } m (BitVec.ofNat 64 (windowBase + off)) (bytesOf n (Config.freeBits s.freeCnt))

/-- STAT of a ray that has ended, and the state that has noted why. -/
def rayStat (s : State) (m : Msg) : RayStop → Nat × State
  | .failed t => (t.cause.code, noteTrap s m.core m.colour t)
  | .bounds => (Cause.code .bounds, s)
  | _ => (0, s)

/-- A ray's spilled entries and its hit record are written. -/
def writeRay (s : State) (m : Msg) (i stat : Nat) (w : Walk) : Except Halt (State × Msg) := do
  let (s1, m1) ← spillRay { s with freeCnt := w.cnt } m i w.deep
  recordAt s1 m1 (m.w2.toNat + 32 * i) (bytesOf 32 (hitRecord w.best stat))

/-- The rays of a request from ray m.done on: n of them are left. m.fcode: the cause code of the lowest-numbered ray that
has failed. -/
def traceRays : Nat → State → Msg → State
  | 0, s, m => complete s m (32 * m.done) m.fcode false
  | n + 1, s, m =>
    let (w, stop) := traceRay s m m.done
    let s0 := noteReads s m w.read
    match stop with
    | .wait h => suspend s0 m h
    | .endless => setLater s0 m
    | _ =>
      let (stat, s1) := rayStat s0 m stop
      match writeRay s1 m m.done stat w with
      | .error h => writeStops s1 m (32 * m.done) h
      | .ok (s2, m2) => traceRays n s2 { m2 with done := m.done + 1, fcode := if m.fcode = 0 then stat else m.fcode }

/-- A TRACE request is carried out, from the ray where it stopped (R221). -/
def runTrace (s : State) (m : Msg) : State :=
  let rays := bitsOf m.w0 9 0 + 1
  let area := 8 * bitsOf m.w0 15 11 * rays
  if bitsOf m.w0 31 29 ≠ 0 then complete s m 0 (Cause.code .illegal) false
  else if 0 < area ∧ Config.barrierBase < 64 * bitsOf m.w0 28 16 + area then complete s m 0 (Cause.code .bounds) false
  else traceRays (rays - m.done) s m

/-- TRACE (R221). -/
def execTrace (cluster : Nat) (s : State) : Out :=
  match takeRequest s cluster 1 with
  | some (m, s1) => if mOp m = 1 then .next (carryOut s1 m runTrace) else .next s
  | none => .next s

/-! ### SAMPLE (R231) -/

/-- The taps of an entry, for an engine (R122). -/
def sampleReads (s : State) (m : Msg) (accs : List Acc) : Except Halt (List (Word × Target × Nat)) :=
  match accs.find? (engineReadRefused s m) with
  | some a => .error (a.fault .contain 2)
  | none => readsOf s (engineWho s m false) accs

/-- What the reads of taps leave behind. -/
def noteTaps (s : State) (m : Msg) (ls : List (Word × Target × Nat)) : State :=
  ls.foldl (fun s l => match l.2.1.home with
    | .scratch _ => s
    | _ => noteRead (noteWalk s m.core m.colour l.1) l.2.1 l.2.2) s

/-- One entry: the four results as bytes, and the state that has read its taps and drawn its free values. -/
def sampleEntry (s : State) (m : Msg) (desc : TexDesc) : Except Halt (List Byte × State) := do
  let a := m.w1.toNat + 64 + 16 * m.done
  let e ← structAt s m a 16 16
  illegalIf (e / 2 ^ 96 ≠ 0)
  let p := planOf desc (e % 2 ^ 32) (e / 2 ^ 32 % 2 ^ 32) (lodGiven (e / 2 ^ 64 % 2 ^ 32))
  let ls ← sampleReads s m (planAccs desc 0 p)
  let vals := planValue desc (loadAt s m.pend ls) p
  let (f, r) := (noteTaps (noteReads s m (sectorPieces a 16)) m ls).drawIf (vals.any (fun c => c.isNone))
  .ok ((upTo 4).flatMap (fun c => bytesOf 4 (((vals.drop c).headD none).getD (freeWord f 0 c))), r)

/-- The entries of a request from entry m.done on: n of them are left. -/
def sampleEntries (desc : TexDesc) : Nat → State → Msg → State
  | 0, s, m => complete s m (16 * m.done) 0 false
  | n + 1, s, m => match sampleEntry s m desc with
    | .error (.trap t) => failWith s m (16 * m.done) t
    | .error h => suspend s m h
    | .ok (bs, s1) => match recordAt s1 m (m.w2.toNat + 16 * m.done) bs with
      | .error h => writeStops s1 m (16 * m.done) h
      | .ok (s2, m2) => sampleEntries desc n s2 { m2 with done := m.done + 1 }

/-- A SAMPLE request is carried out, from the entry where it stopped. -/
def runSample (s : State) (m : Msg) : State :=
  let n := mArg m % 2 ^ 16
  if mOp m ≠ 0 ∨ mArg m / 2 ^ 16 ≠ 0 then complete s m 0 (Cause.code .illegal) false
  else if n = 0 then complete s m 0 0 false
  else match structAt s m m.w1.toNat 64 64 with
    | .error (.trap t) => failWith s m (16 * m.done) t
    | .error h => suspend s m h
    | .ok d =>
      let desc : TexDesc := BitVec.ofNat 512 d
      let s0 := noteReads s m (sectorPieces m.w1.toNat 64)
      if !descOk desc then complete s0 m (16 * m.done) (Cause.code .illegal) false
      else sampleEntries desc (n - m.done) s0 m

/-- SAMPLE (R231). -/
def execSample (cluster : Nat) (s : State) : Out :=
  match takeRequest s cluster 2 with
  | some (m, s1) => .next (carryOut s1 m runSample)
  | none => .next s

end Sys2Proof.Machine
end

