-- ==== Sys2Proof/Machine/VecFloat.lean ====
section
/-! DEFINITION. Group VF (R75, R389 to R397, R402): element-wise floating-point forms, compares, classes,
approximations, conversions, reductions and scans. -/

namespace Sys2Proof.Machine

/-! ### Shared parts -/

/-- The arithmetic forms accept f64, f32, f16 and bf16 (R75). -/
def vfAccepts (ty : ElTy) : Bool := decide (1 ≤ ty.fmt) && decide (ty.fmt ≤ 4)

/-- The checks of an arithmetic form; rm where it rounds. -/
def vfCheck (s : State) (et : BitVec 3) (tiles : List Reg) (rm : Option (BitVec 3)) : Except Halt Unit :=
  let ty := fltType s.me.vty et
  vecCheck s ty (vfAccepts ty) tiles rm

/-- The format in force. -/
def vfFmt (s : State) (et : BitVec 3) : FloatFmt := fmtOf (fltType s.me.vty et).fmt

/-- A form of two sources that rounds. -/
def vfRound (o : FltOp) (f : FloatFmt → Nat → Nat → Nat → Nat × Nat) (s : State) : Out :=
  let n := (fltType s.me.vty o.et).sew
  finish s (do
    vfCheck s o.et ([o.d, o.s1] ++ Src.tiles o.b) (some o.rm)
    .ok (elementForm s o.d n o.m (fun i =>
      f (vfFmt s o.et) (s.roundMode o.rm) (s.elem o.s1.toNat n i) (s.srcB o.b n i))))

/-- A fused form. -/
def vfFused (o : FltOp) (np nc : Bool) (s : State) : Out :=
  let n := (fltType s.me.vty o.et).sew
  finish s (do
    vfCheck s o.et ([o.d, o.s1] ++ Src.tiles o.b ++ [o.s3]) (some o.rm)
    .ok (elementForm s o.d n o.m (fun i =>
      fFused np nc (vfFmt s o.et) (s.roundMode o.rm) (s.elem o.s1.toNat n i) (s.srcB o.b n i) (s.elem o.s3.toNat n i))))

/-- A form of two sources that does not round. -/
def vfPlain (o : FltOp) (f : FloatFmt → Nat → Nat → Nat × Nat) (s : State) : Out :=
  let n := (fltType s.me.vty o.et).sew
  finish s (do
    vfCheck s o.et ([o.d, o.s1] ++ Src.tiles o.b) none
    .ok (elementForm s o.d n o.m (fun i => f (vfFmt s o.et) (s.elem o.s1.toNat n i) (s.srcB o.b n i))))

/-- A compare into a k register (R395). -/
def vfCompare (o : FltOp) (c : Nat) (s : State) : Out :=
  let n := (fltType s.me.vty o.et).sew
  finish s (do
    vfCheck s o.et ([o.s1] ++ Src.tiles o.b) none
    .ok (compareForm s o.d n o.m (fun i => fCompare c (vfFmt s o.et) (s.elem o.s1.toNat n i) (s.srcB o.b n i))))

/-- A form of one source that does not round; f also receives the format code. -/
def vfUnary (o : FltUn) (f : Nat → FloatFmt → Nat → Nat × Nat) (s : State) : Out :=
  let ty := fltType s.me.vty o.et
  finish s (do
    vfCheck s o.et [o.d, o.s1] none
    .ok (elementForm s o.d ty.sew o.m (fun i => f ty.fmt (vfFmt s o.et) (s.elem o.s1.toNat ty.sew i))))

/-! ### Arithmetic (R392) -/

/-- VFADD (R392). -/
def execVfadd (o : FltOp) (s : State) : Out := vfRound o fAdd s
/-- VFSUB (R392). -/
def execVfsub (o : FltOp) (s : State) : Out := vfRound o fSub s
/-- VFMUL (R392). -/
def execVfmul (o : FltOp) (s : State) : Out := vfRound o fMul s
/-- VFDIV (R392). -/
def execVfdiv (o : FltOp) (s : State) : Out := vfRound o fDiv s
/-- VFMA (R392). -/
def execVfma (o : FltOp) (s : State) : Out := vfFused o false false s
/-- VFMS (R392). -/
def execVfms (o : FltOp) (s : State) : Out := vfFused o false true s
/-- VFNMA (R392). -/
def execVfnma (o : FltOp) (s : State) : Out := vfFused o true true s
/-- VFNMS (R392). -/
def execVfnms (o : FltOp) (s : State) : Out := vfFused o true false s
/-- VFMIN (R392, R99). -/
def execVfmin (o : FltOp) (s : State) : Out := vfPlain o (fMinMax false) s
/-- VFMAX (R392, R99). -/
def execVfmax (o : FltOp) (s : State) : Out := vfPlain o (fMinMax true) s
/-- VFSGNJ (R392, R99). -/
def execVfsgnj (o : FltOp) (s : State) : Out := vfPlain o (fSign (fun _ b => b)) s
/-- VFSGNJN (R392, R99). -/
def execVfsgnjn (o : FltOp) (s : State) : Out := vfPlain o (fSign (fun _ b => !b)) s
/-- VFSGNJX (R392, R99). -/
def execVfsgnjx (o : FltOp) (s : State) : Out := vfPlain o (fSign (fun a b => a != b)) s
/-- VFSQRT (R392). -/
def execVfsqrt (o : FltUn) (s : State) : Out :=
  let n := (fltType s.me.vty o.et).sew
  finish s (do
    vfCheck s o.et [o.d, o.s1] (some o.rm)
    .ok (elementForm s o.d n o.m (fun i => fSqrt (vfFmt s o.et) (s.roundMode o.rm) (s.elem o.s1.toNat n i))))

/-! ### Compares and classes (R394, R395) -/

/-- VFCMP.EQ (R395). -/
def execVfcmpEq (o : FltOp) (s : State) : Out := vfCompare o 0 s
/-- VFCMP.NE (R395). -/
def execVfcmpNe (o : FltOp) (s : State) : Out := vfCompare o 1 s
/-- VFCMP.LT (R395). -/
def execVfcmpLt (o : FltOp) (s : State) : Out := vfCompare o 2 s
/-- VFCMP.LE (R395). -/
def execVfcmpLe (o : FltOp) (s : State) : Out := vfCompare o 3 s
/-- VFCMP.GT (R395). -/
def execVfcmpGt (o : FltOp) (s : State) : Out := vfCompare o 4 s
/-- VFCMP.GE (R395). -/
def execVfcmpGe (o : FltOp) (s : State) : Out := vfCompare o 5 s
/-- VFCLASS (R394). -/
def execVfclass (o : FltUn) (s : State) : Out := vfUnary o (fun _ f a => (fClass f a, 0)) s

/-! ### Approximations (R396, R397) -/

/-- VFRCP (R396, R397). -/
def execVfrcp (o : FltUn) (s : State) : Out := vfUnary o (fRcp) s
/-- VFRSQ (R396, R397). -/
def execVfrsq (o : FltUn) (s : State) : Out := vfUnary o (fRsq) s
/-- VFEXP2 (R396, R397). -/
def execVfexp2 (o : FltUn) (s : State) : Out := vfUnary o (fExp2) s
/-- VFLOG2 (R396, R397). -/
def execVflog2 (o : FltUn) (s : State) : Out := vfUnary o (fLog2) s
/-- VFSIN (R396, R397). -/
def execVfsin (o : FltUn) (s : State) : Out := vfUnary o (fSinCos false) s
/-- VFCOS (R396, R397). -/
def execVfcos (o : FltUn) (s : State) : Out := vfUnary o (fSinCos true) s

/-! ### VCVT (R389 to R391) -/

/-- The scale byte of block b of a tile whose scale registers start at register r (R109). -/
def State.scaleByte (s : State) (r b : Nat) : Nat := s.elem r 8 b

/-- The exact value of element i of the source tile. -/
def cvtSource (s : State) (ty : ElTy) (usrc : Bool) (r i : Nat) : Num :=
  let c := s.elem r ty.sew i
  if ty.fmt = 0 then .ofInt (if usrc then c else signNat c ty.sew)
  else if ty.blen ≠ 0 then blockValue ty.fmt (s.scaleByte (r + s.gf) (i / ty.blen)) c
  else (fmtOf ty.fmt).value c

/-- An element of a non-block destination: the result and the flags. -/
def cvtElem (s : State) (o : CvtOp) (ty : ElTy) (rm i : Nat) : Nat × Nat :=
  let dfmt := o.fmt.toNat
  let dsew := sewOf o.sew.toNat
  let c := s.elem o.s1.toNat ty.sew i
  let x := cvtSource s ty o.usrc o.s1.toNat i
  if ty.fmt = dfmt ∧ ty.sew = dsew then (if dfmt = 0 then (c, 0) else fPass (fmtOf dfmt) c)
  else if dfmt = 0 then
    (if ty.fmt = 0 then (intResize ty.sew dsew o.usrc o.udst o.sat c, 0) else numToInt rm dsew o.sat o.udst x)
  else roundNum (fmtOf dfmt) rm o.sat x

/-- The destination is a block type. -/
def cvtBlock (o : CvtOp) : Bool := decide (8 ≤ o.fmt.toNat)

/-- The block length of the destination (R110). -/
def cvtBlockLen (o : CvtOp) (ty : ElTy) : Nat := if o.fmt.toNat = 12 ∧ ty.blen ≠ 0 then ty.blen else 32

/-- Positions of the scale registers that no block with an active element takes follow the tail rule, each
64-bit word on its own; a free value decides. -/
def scaleTail (s : State) (r : Nat) (used : List Nat) : State :=
  if !vtyTa s.me.vty || decide (s.vl = 0) then s
  else
    let (f, s1) := s.draw
    let all := upTo (scaleRegs s.gf * s.rcap 8)
    s1.setElems r 8 ((all.filter (fun j => !used.contains j && f.testBit (s1.wordOf 8 j))).map (fun j => (j, 255)))

/-- VCVT to a block type: codes and scales of every block that holds an active element. The scale byte of a block without
one is a tail byte, as R390 has it, and not the zero that the table of R110 gives an empty block (DEDUCED log 76). -/
def cvtToBlocks (s : State) (o : CvtOp) (ty : ElTy) (rm : Nat) : State :=
  let bd := cvtBlockLen o ty
  let dsew := sewOf o.sew.toNat
  let acts := s.active o.m
  let blocks := (upTo (s.vl / bd)).filterMap (fun b =>
    let is := acts.filter (fun i => decide (i / bd = b))
    if is.isEmpty then none
    else some (b, is, encodeBlock o.fmt.toNat rm (is.map (cvtSource s ty o.usrc o.s1.toNat))))
  let codes := blocks.flatMap (fun b => b.2.1.zip b.2.2.1)
  let scales := blocks.map (fun b => (b.1, b.2.2.2.2))
  let s1 := (s.setElems o.d.toNat dsew codes).raise (orAll (blocks.map (fun b => b.2.2.2.1)))
  let s2 := (s1.agnostic o.d.toNat dsew (s.unselected o.m)).setElems (o.d.toNat + s.gf) 8 scales
  (scaleTail s2 (o.d.toNat + s.gf) (scales.map (·.1))).clearFmask.retire 8

/-- VCVT (R389 to R391). -/
def execVcvt (o : CvtOp) (s : State) : Out :=
  let ty := fltType s.me.vty o.et
  let dsew := sewOf o.sew.toNat
  finish s (do
    illegalIf (vtyIll s.me.vty || (o.usrc && decide (ty.fmt ≠ 0)))
    vecCheck s ty true [o.s1] none
    illegalIf (tileBad s.gf 0 o.d.toNat || decide (4 < s.roundMode o.rm))
    illegalIf (decide (s.vlmaxAt dsew < s.vl))
    illegalIf (cvtBlock o && (decide (s.vl % cvtBlockLen o ty ≠ 0) || tileBad s.gf 1 o.d.toNat))
    .ok (if cvtBlock o then cvtToBlocks s o ty (s.roundMode o.rm)
         else elementForm s o.d dsew o.m (cvtElem s o ty (s.roundMode o.rm))))

/-! ### Reductions and scans (R114, R402) -/

/-- Combine present values of position pairs, one level of the tree. -/
def treeLevel (f : FloatFmt) (rm : Nat) : List (Option Nat) → List (Option Nat) × Nat
  | a :: b :: l =>
    let r := treeLevel f rm l
    (match a, b with
      | some x, some y => (let z := fAdd f rm x y; (some z.1 :: r.1, z.2 ||| r.2))
      | some x, none => (some x :: r.1, r.2)
      | none, y => (y :: r.1, r.2))
  | l => (l, 0)

/-- The tree sum of R114. The number of positions is a power of two. -/
def treeSum (f : FloatFmt) (rm : Nat) : Nat → List (Option Nat) → Option Nat × Nat
  | 0, l => (l.headD none, 0)
  | n + 1, l =>
    let r := treeLevel f rm l
    let u := treeSum f rm n r.1
    (u.1, r.2 ||| u.2)

/-- VFRED.SUM (R402). -/
def execVfredSum (o : FltUn) (s : State) : Out :=
  let n := (fltType s.me.vty o.et).sew
  finish s (do
    vfCheck s o.et [o.d, o.s1] (some o.rm)
    let f := vfFmt s o.et
    let acts := s.active o.m
    let xs := (upTo (s.vlmaxAt n)).map (fun i => if acts.contains i then some (s.elem o.s1.toNat n i) else none)
    let t := treeSum f (s.roundMode o.rm) (Nat.log2 (s.vlmaxAt n)) xs
    -- a single present value passes every level unchanged; a NaN result is canonical
    let r := match t.1 with | some v => fPass f v | none => (0, 0)
    .ok (viPut (s.raise (if s.vl = 0 then 0 else t.2 ||| r.2)) o.d n [(0, r.1)] [] 1))

/-- The least or greatest of some codes by R99, with the flags; a lone NaN is made canonical. -/
def minMaxAll (max' : Bool) (f : FloatFmt) : List Nat → Nat × Nat
  | [] => (f.nan, 0)
  | a :: l => l.foldl (fun acc x => let r := fMinMax max' f acc.1 x; (r.1, acc.2 ||| r.2)) (fMinMax max' f a a)

/-- VFRED.MIN and VFRED.MAX. -/
def vfReduceMinMax (max' : Bool) (o : FltUn) (s : State) : Out :=
  let n := (fltType s.me.vty o.et).sew
  finish s (do
    vfCheck s o.et [o.d, o.s1] none
    let r := minMaxAll max' (vfFmt s o.et) ((s.active o.m).map (fun i => s.elem o.s1.toNat n i))
    .ok (viPut (s.raise (if s.vl = 0 then 0 else r.2)) o.d n [(0, r.1)] [] 1))

/-- VFRED.MIN (R402). -/
def execVfredMin (o : FltUn) (s : State) : Out := vfReduceMinMax false o s
/-- VFRED.MAX (R402). -/
def execVfredMax (o : FltUn) (s : State) : Out := vfReduceMinMax true o s

/-- Running sums in ascending order, with the flags. -/
def runningSums (f : FloatFmt) (rm : Nat) : Option Nat → List (Nat × Nat) → List (Nat × Nat) × Nat
  | _, [] => ([], 0)
  | acc, (i, x) :: l =>
    let r := match acc with
      | some a => fAdd f rm a x
      | none => fPass f x
    let rest := runningSums f rm (some r.1) l
    ((i, r.1) :: rest.1, r.2 ||| rest.2)

/-- VFSCAN.SUM (R402). -/
def execVfscanSum (o : FltUn) (s : State) : Out :=
  let n := (fltType s.me.vty o.et).sew
  finish s (do
    vfCheck s o.et [o.d, o.s1] (some o.rm)
    let r := runningSums (vfFmt s o.et) (s.roundMode o.rm) none ((s.active o.m).map (fun i => (i, s.elem o.s1.toNat n i)))
    .ok (viPut (s.raise r.2) o.d n r.1 (s.unselected o.m) s.vl))

end Sys2Proof.Machine
end

