-- ==== Sys2Proof/Machine/Dispatch.lean ====
section
/-! DEFINITION. One arm per step of the table: each calls its meaning. -/

namespace Sys2Proof.Machine

def exec (i : Instr) (s : State) : Host.Outcome State Fault Refusal :=
  match i with
  | .add d a b => Sys2Proof.Machine.execAdd d a b s
  | .addi d a im => Sys2Proof.Machine.execAddi d a im s
  | .addiw d a im => Sys2Proof.Machine.execAddiw d a im s
  | .addw d a b => Sys2Proof.Machine.execAddw d a b s
  | .and d a b => Sys2Proof.Machine.execAnd d a b s
  | .andi d a im => Sys2Proof.Machine.execAndi d a im s
  | .auipc d im => Sys2Proof.Machine.execAuipc d im s
  | .beq a b im => Sys2Proof.Machine.execBeq a b im s
  | .bne a b im => Sys2Proof.Machine.execBne a b im s
  | .blt a b im => Sys2Proof.Machine.execBlt a b im s
  | .bge a b im => Sys2Proof.Machine.execBge a b im s
  | .bltu a b im => Sys2Proof.Machine.execBltu a b im s
  | .bgeu a b im => Sys2Proof.Machine.execBgeu a b im s
  | .csrrw d a c => Sys2Proof.Machine.execCsrrw d a c s
  | .csrrs d a c => Sys2Proof.Machine.execCsrrs d a c s
  | .csrrc d a c => Sys2Proof.Machine.execCsrrc d a c s
  | .csrrwi d u c => Sys2Proof.Machine.execCsrrwi d u c s
  | .csrrsi d u c => Sys2Proof.Machine.execCsrrsi d u c s
  | .csrrci d u c => Sys2Proof.Machine.execCsrrci d u c s
  | .div d a b => Sys2Proof.Machine.execDiv d a b s
  | .divu d a b => Sys2Proof.Machine.execDivu d a b s
  | .divw d a b => Sys2Proof.Machine.execDivw d a b s
  | .divuw d a b => Sys2Proof.Machine.execDivuw d a b s
  | .fence p sc => Sys2Proof.Machine.execFence p sc s
  | .jal d im => Sys2Proof.Machine.execJal d im s
  | .jalr d a im => Sys2Proof.Machine.execJalr d a im s
  | .lb d a im => Sys2Proof.Machine.execLb d a im s
  | .lh d a im => Sys2Proof.Machine.execLh d a im s
  | .lw d a im => Sys2Proof.Machine.execLw d a im s
  | .ld d a im => Sys2Proof.Machine.execLd d a im s
  | .lbu d a im => Sys2Proof.Machine.execLbu d a im s
  | .lhu d a im => Sys2Proof.Machine.execLhu d a im s
  | .lwu d a im => Sys2Proof.Machine.execLwu d a im s
  | .lui d im => Sys2Proof.Machine.execLui d im s
  | .mul d a b => Sys2Proof.Machine.execMul d a b s
  | .mulh d a b => Sys2Proof.Machine.execMulh d a b s
  | .mulhsu d a b => Sys2Proof.Machine.execMulhsu d a b s
  | .mulhu d a b => Sys2Proof.Machine.execMulhu d a b s
  | .mulw d a b => Sys2Proof.Machine.execMulw d a b s
  | .or d a b => Sys2Proof.Machine.execOr d a b s
  | .ori d a im => Sys2Proof.Machine.execOri d a im s
  | .rem d a b => Sys2Proof.Machine.execRem d a b s
  | .remu d a b => Sys2Proof.Machine.execRemu d a b s
  | .remw d a b => Sys2Proof.Machine.execRemw d a b s
  | .remuw d a b => Sys2Proof.Machine.execRemuw d a b s
  | .sb b a im => Sys2Proof.Machine.execSb b a im s
  | .sh b a im => Sys2Proof.Machine.execSh b a im s
  | .sw b a im => Sys2Proof.Machine.execSw b a im s
  | .sd b a im => Sys2Proof.Machine.execSd b a im s
  | .sll d a b => Sys2Proof.Machine.execSll d a b s
  | .srl d a b => Sys2Proof.Machine.execSrl d a b s
  | .sra d a b => Sys2Proof.Machine.execSra d a b s
  | .slli d a h => Sys2Proof.Machine.execSlli d a h s
  | .srli d a h => Sys2Proof.Machine.execSrli d a h s
  | .srai d a h => Sys2Proof.Machine.execSrai d a h s
  | .sllw d a b => Sys2Proof.Machine.execSllw d a b s
  | .srlw d a b => Sys2Proof.Machine.execSrlw d a b s
  | .sraw d a b => Sys2Proof.Machine.execSraw d a b s
  | .slliw d a h => Sys2Proof.Machine.execSlliw d a h s
  | .srliw d a h => Sys2Proof.Machine.execSrliw d a h s
  | .sraiw d a h => Sys2Proof.Machine.execSraiw d a h s
  | .slt d a b => Sys2Proof.Machine.execSlt d a b s
  | .sltu d a b => Sys2Proof.Machine.execSltu d a b s
  | .slti d a im => Sys2Proof.Machine.execSlti d a im s
  | .sltiu d a im => Sys2Proof.Machine.execSltiu d a im s
  | .sub d a b => Sys2Proof.Machine.execSub d a b s
  | .subw d a b => Sys2Proof.Machine.execSubw d a b s
  | .xor d a b => Sys2Proof.Machine.execXor d a b s
  | .xori d a im => Sys2Proof.Machine.execXori d a im s
  | .setvl d s1 ty => Sys2Proof.Machine.execSetvl d s1 ty s
  | .setvlReg d s1 s2 => Sys2Proof.Machine.execSetvlReg d s1 s2 s
  | .mpush n => Sys2Proof.Machine.execMpush n s
  | .bmz off => Sys2Proof.Machine.execBmz off s
  | .bmnz off => Sys2Proof.Machine.execBmnz off s
  | .jtbl d s1 s2 s3 => Sys2Proof.Machine.execJtbl d s1 s2 s3 s
  | .hback s1 s2 => Sys2Proof.Machine.execHback s1 s2 s
  | .tresume s1 => Sys2Proof.Machine.execTresume s1 s
  | .tkill s1 => Sys2Proof.Machine.execTkill s1 s
  | .tlbinv s1 s2 => Sys2Proof.Machine.execTlbinv s1 s2 s
  | .tlbinvCol s1 s2 => Sys2Proof.Machine.execTlbinvCol s1 s2 s
  | .phase aq rl scope => Sys2Proof.Machine.execPhase aq rl scope s
  | .arrive target slot s1 scope => Sys2Proof.Machine.execArrive target slot s1 scope s
  | .waitb slot scope => Sys2Proof.Machine.execWaitb slot scope s
  | .testb d slot => Sys2Proof.Machine.execTestb d slot s
  | .enq s1 => Sys2Proof.Machine.execEnq s1 s
  | .enqNb d s1 => Sys2Proof.Machine.execEnqNb d s1 s
  | .psend pipe s1 => Sys2Proof.Machine.execPsend pipe s1 s
  | .precv d pipe s1 => Sys2Proof.Machine.execPrecv d pipe s1 s
  | .xpush s1 => Sys2Proof.Machine.execXpush s1 s
  | .xpushNb d s1 => Sys2Proof.Machine.execXpushNb d s1 s
  | .mwait s1 s2 => Sys2Proof.Machine.execMwait s1 s2 s
  | .gendone s1 => Sys2Proof.Machine.execGendone s1 s
  | .genfail s1 s2 => Sys2Proof.Machine.execGenfail s1 s2 s
  | .fillrst s1 => Sys2Proof.Machine.execFillrst s1 s
  | .mma d s1 s2 => Sys2Proof.Machine.execMma d s1 s2 s
  | .mmr d tn => Sys2Proof.Machine.execMmr d tn s
  | .mldb tn s1 => Sys2Proof.Machine.execMldb tn s1 s
  | .mconv d tn s1 => Sys2Proof.Machine.execMconv d tn s1 s
  | .mstc vs tn s1 et rm => Sys2Proof.Machine.execMstc vs tn s1 et rm s
  | .tdset tn s1 => Sys2Proof.Machine.execTdset tn s1 s
  | .tdget tn s1 => Sys2Proof.Machine.execTdget tn s1 s
  | .vbox d s1 s2 m => Sys2Proof.Machine.execVbox d s1 s2 m s
  | .vtri d s1 s2 m => Sys2Proof.Machine.execVtri d s1 s2 m s
  | .tex d s1 s2 n m => Sys2Proof.Machine.execTex d s1 s2 n m s
  | .texGrad d s1 s2 n m => Sys2Proof.Machine.execTexGrad d s1 s2 n m s
  | .texLod d s1 s2 n m => Sys2Proof.Machine.execTexLod d s1 s2 n m s
  | .txld d s1 s2 n m => Sys2Proof.Machine.execTxld d s1 s2 n m s
  | .tcommit s1 s2 m => Sys2Proof.Machine.execTcommit s1 s2 m s
  | .vld o => Sys2Proof.Machine.execVld o s
  | .vlds o => Sys2Proof.Machine.execVlds o s
  | .vldx o => Sys2Proof.Machine.execVldx o s
  | .vldCh o => Sys2Proof.Machine.execVldCh o s
  | .vst o => Sys2Proof.Machine.execVst o s
  | .vsts o => Sys2Proof.Machine.execVsts o s
  | .vstx o => Sys2Proof.Machine.execVstx o s
  | .vspill o => Sys2Proof.Machine.execVspill o s
  | .vfill o => Sys2Proof.Machine.execVfill o s
  | .amoaddW o => Sys2Proof.Machine.execAmoaddW o s
  | .amoandW o => Sys2Proof.Machine.execAmoandW o s
  | .amoorW o => Sys2Proof.Machine.execAmoorW o s
  | .amoxorW o => Sys2Proof.Machine.execAmoxorW o s
  | .amoswapW o => Sys2Proof.Machine.execAmoswapW o s
  | .amominW o => Sys2Proof.Machine.execAmominW o s
  | .amomaxW o => Sys2Proof.Machine.execAmomaxW o s
  | .amominuW o => Sys2Proof.Machine.execAmominuW o s
  | .amomaxuW o => Sys2Proof.Machine.execAmomaxuW o s
  | .amocasW o => Sys2Proof.Machine.execAmocasW o s
  | .amoaddD o => Sys2Proof.Machine.execAmoaddD o s
  | .amoandD o => Sys2Proof.Machine.execAmoandD o s
  | .amoorD o => Sys2Proof.Machine.execAmoorD o s
  | .amoxorD o => Sys2Proof.Machine.execAmoxorD o s
  | .amoswapD o => Sys2Proof.Machine.execAmoswapD o s
  | .amominD o => Sys2Proof.Machine.execAmominD o s
  | .amomaxD o => Sys2Proof.Machine.execAmomaxD o s
  | .amominuD o => Sys2Proof.Machine.execAmominuD o s
  | .amomaxuD o => Sys2Proof.Machine.execAmomaxuD o s
  | .amocasD o => Sys2Proof.Machine.execAmocasD o s
  | .vamoaddW o => Sys2Proof.Machine.execVamoaddW o s
  | .vamoandW o => Sys2Proof.Machine.execVamoandW o s
  | .vamoorW o => Sys2Proof.Machine.execVamoorW o s
  | .vamoxorW o => Sys2Proof.Machine.execVamoxorW o s
  | .vamoswapW o => Sys2Proof.Machine.execVamoswapW o s
  | .vamominW o => Sys2Proof.Machine.execVamominW o s
  | .vamomaxW o => Sys2Proof.Machine.execVamomaxW o s
  | .vamominuW o => Sys2Proof.Machine.execVamominuW o s
  | .vamomaxuW o => Sys2Proof.Machine.execVamomaxuW o s
  | .vamocasW o => Sys2Proof.Machine.execVamocasW o s
  | .vamoaddD o => Sys2Proof.Machine.execVamoaddD o s
  | .vamoandD o => Sys2Proof.Machine.execVamoandD o s
  | .vamoorD o => Sys2Proof.Machine.execVamoorD o s
  | .vamoxorD o => Sys2Proof.Machine.execVamoxorD o s
  | .vamoswapD o => Sys2Proof.Machine.execVamoswapD o s
  | .vamominD o => Sys2Proof.Machine.execVamominD o s
  | .vamomaxD o => Sys2Proof.Machine.execVamomaxD o s
  | .vamominuD o => Sys2Proof.Machine.execVamominuD o s
  | .vamomaxuD o => Sys2Proof.Machine.execVamomaxuD o s
  | .vamocasD o => Sys2Proof.Machine.execVamocasD o s
  | .vadd o => Sys2Proof.Machine.execVadd o s
  | .vsub o => Sys2Proof.Machine.execVsub o s
  | .vmul o => Sys2Proof.Machine.execVmul o s
  | .vmulh o => Sys2Proof.Machine.execVmulh o s
  | .vmulhu o => Sys2Proof.Machine.execVmulhu o s
  | .vdiv o => Sys2Proof.Machine.execVdiv o s
  | .vdivu o => Sys2Proof.Machine.execVdivu o s
  | .vrem o => Sys2Proof.Machine.execVrem o s
  | .vremu o => Sys2Proof.Machine.execVremu o s
  | .vmin o => Sys2Proof.Machine.execVmin o s
  | .vminu o => Sys2Proof.Machine.execVminu o s
  | .vmax o => Sys2Proof.Machine.execVmax o s
  | .vmaxu o => Sys2Proof.Machine.execVmaxu o s
  | .vand o => Sys2Proof.Machine.execVand o s
  | .vor o => Sys2Proof.Machine.execVor o s
  | .vxor o => Sys2Proof.Machine.execVxor o s
  | .vsll o => Sys2Proof.Machine.execVsll o s
  | .vsrl o => Sys2Proof.Machine.execVsrl o s
  | .vsra o => Sys2Proof.Machine.execVsra o s
  | .vsadd o => Sys2Proof.Machine.execVsadd o s
  | .vsaddu o => Sys2Proof.Machine.execVsaddu o s
  | .vssub o => Sys2Proof.Machine.execVssub o s
  | .vssubu o => Sys2Proof.Machine.execVssubu o s
  | .vmv o => Sys2Proof.Machine.execVmv o s
  | .vcmpEq o => Sys2Proof.Machine.execVcmpEq o s
  | .vcmpNe o => Sys2Proof.Machine.execVcmpNe o s
  | .vcmpLt o => Sys2Proof.Machine.execVcmpLt o s
  | .vcmpLe o => Sys2Proof.Machine.execVcmpLe o s
  | .vcmpGt o => Sys2Proof.Machine.execVcmpGt o s
  | .vcmpGe o => Sys2Proof.Machine.execVcmpGe o s
  | .vcmpLtu o => Sys2Proof.Machine.execVcmpLtu o s
  | .vcmpLeu o => Sys2Proof.Machine.execVcmpLeu o s
  | .vcmpGtu o => Sys2Proof.Machine.execVcmpGtu o s
  | .vcmpGeu o => Sys2Proof.Machine.execVcmpGeu o s
  | .vperm o => Sys2Proof.Machine.execVperm o s
  | .vslideUp o => Sys2Proof.Machine.execVslideUp o s
  | .vslideDn o => Sys2Proof.Machine.execVslideDn o s
  | .vbcast o => Sys2Proof.Machine.execVbcast o s
  | .vmvxs o => Sys2Proof.Machine.execVmvxs o s
  | .vredAdd o => Sys2Proof.Machine.execVredAdd o s
  | .vredMin o => Sys2Proof.Machine.execVredMin o s
  | .vredMax o => Sys2Proof.Machine.execVredMax o s
  | .vredMinu o => Sys2Proof.Machine.execVredMinu o s
  | .vredMaxu o => Sys2Proof.Machine.execVredMaxu o s
  | .vredAnd o => Sys2Proof.Machine.execVredAnd o s
  | .vredOr o => Sys2Proof.Machine.execVredOr o s
  | .vredXor o => Sys2Proof.Machine.execVredXor o s
  | .vscanAdd o => Sys2Proof.Machine.execVscanAdd o s
  | .vscanMin o => Sys2Proof.Machine.execVscanMin o s
  | .vscanMax o => Sys2Proof.Machine.execVscanMax o s
  | .vscanMinu o => Sys2Proof.Machine.execVscanMinu o s
  | .vscanMaxu o => Sys2Proof.Machine.execVscanMaxu o s
  | .vcmprs o => Sys2Proof.Machine.execVcmprs o s
  | .vpopc o => Sys2Proof.Machine.execVpopc o s
  | .vfirst o => Sys2Proof.Machine.execVfirst o s
  | .vfadd o => Sys2Proof.Machine.execVfadd o s
  | .vfsub o => Sys2Proof.Machine.execVfsub o s
  | .vfmul o => Sys2Proof.Machine.execVfmul o s
  | .vfdiv o => Sys2Proof.Machine.execVfdiv o s
  | .vfma o => Sys2Proof.Machine.execVfma o s
  | .vfms o => Sys2Proof.Machine.execVfms o s
  | .vfnma o => Sys2Proof.Machine.execVfnma o s
  | .vfnms o => Sys2Proof.Machine.execVfnms o s
  | .vfmin o => Sys2Proof.Machine.execVfmin o s
  | .vfmax o => Sys2Proof.Machine.execVfmax o s
  | .vfsqrt o => Sys2Proof.Machine.execVfsqrt o s
  | .vfsgnj o => Sys2Proof.Machine.execVfsgnj o s
  | .vfsgnjn o => Sys2Proof.Machine.execVfsgnjn o s
  | .vfsgnjx o => Sys2Proof.Machine.execVfsgnjx o s
  | .vfrcp o => Sys2Proof.Machine.execVfrcp o s
  | .vfrsq o => Sys2Proof.Machine.execVfrsq o s
  | .vfexp2 o => Sys2Proof.Machine.execVfexp2 o s
  | .vflog2 o => Sys2Proof.Machine.execVflog2 o s
  | .vfsin o => Sys2Proof.Machine.execVfsin o s
  | .vfcos o => Sys2Proof.Machine.execVfcos o s
  | .vfcmpEq o => Sys2Proof.Machine.execVfcmpEq o s
  | .vfcmpNe o => Sys2Proof.Machine.execVfcmpNe o s
  | .vfcmpLt o => Sys2Proof.Machine.execVfcmpLt o s
  | .vfcmpLe o => Sys2Proof.Machine.execVfcmpLe o s
  | .vfcmpGt o => Sys2Proof.Machine.execVfcmpGt o s
  | .vfcmpGe o => Sys2Proof.Machine.execVfcmpGe o s
  | .vfclass o => Sys2Proof.Machine.execVfclass o s
  | .vcvt o => Sys2Proof.Machine.execVcvt o s
  | .vfredSum o => Sys2Proof.Machine.execVfredSum o s
  | .vfredMin o => Sys2Proof.Machine.execVfredMin o s
  | .vfredMax o => Sys2Proof.Machine.execVfredMax o s
  | .vfscanSum o => Sys2Proof.Machine.execVfscanSum o s
  | .fetchFault cause detail straddle => Sys2Proof.Machine.execFetchFault cause detail straddle s
  | .contextWake core part tail => Sys2Proof.Machine.execContextWake core part tail s
  | .taskDispatch core part => Sys2Proof.Machine.execTaskDispatch core part s
  | .messageDeliver core part => Sys2Proof.Machine.execMessageDeliver core part s
  | .copy cluster => Sys2Proof.Machine.execCopy cluster s
  | .copyFill cluster => Sys2Proof.Machine.execCopyFill cluster s
  | .trapRecordPost task => Sys2Proof.Machine.execTrapRecordPost task s
  | .ecall => Sys2Proof.Machine.execEcall s
  | .ebreak => Sys2Proof.Machine.execEbreak s
  | .fenceTso => Sys2Proof.Machine.execFenceTso s
  | .fenceI => Sys2Proof.Machine.execFenceI s
  | .minv => Sys2Proof.Machine.execMinv s
  | .mpop => Sys2Proof.Machine.execMpop s
  | .frjoin => Sys2Proof.Machine.execFrjoin s
  | .tdone => Sys2Proof.Machine.execTdone s
  | .completionRecordWrite => Sys2Proof.Machine.execCompletionRecordWrite s
  | .teamArrive => Sys2Proof.Machine.execTeamArrive s
  | .prefill => Sys2Proof.Machine.execPrefill s
  | .timeUnsync => Sys2Proof.Machine.execTimeUnsync s
  | .timeSyncLock => Sys2Proof.Machine.execTimeSyncLock s
  | .launchRecordRead => Sys2Proof.Machine.execLaunchRecordRead s
  | .launchAccept => Sys2Proof.Machine.execLaunchAccept s
  | .stage => Sys2Proof.Machine.execStage s
  | .attest => Sys2Proof.Machine.execAttest s
  | .firmwareSwitch => Sys2Proof.Machine.execFirmwareSwitch s
  | .firmwareHealthy => Sys2Proof.Machine.execFirmwareHealthy s
  | .firmwareHealthTimeout => Sys2Proof.Machine.execFirmwareHealthTimeout s
  | .dmRead => Sys2Proof.Machine.execDmRead s
  | .reclaim => Sys2Proof.Machine.execReclaim s
  | .dmBadCommand => Sys2Proof.Machine.execDmBadCommand s
  | .bringUp => Sys2Proof.Machine.execBringUp s
  | .thermalHalt => Sys2Proof.Machine.execThermalHalt s
  | .coolantThrottle => Sys2Proof.Machine.execCoolantThrottle s
  | .moduleRemoval => Sys2Proof.Machine.execModuleRemoval s
  | .illegalEncoding => Sys2Proof.Machine.execIllegalEncoding s
  | .thermalThrottle => Sys2Proof.Machine.execThermalThrottle s
  | .throttleRelease => Sys2Proof.Machine.execThrottleRelease s
  | .powerLoss => Sys2Proof.Machine.execPowerLoss s
  | .trapLogPost task => Sys2Proof.Machine.execTrapLogPost task s
  | .backoffExpiry task => Sys2Proof.Machine.execBackoffExpiry task s
  | .atomicAbort task => Sys2Proof.Machine.execAtomicAbort task s
  | .stealProbe core victim => Sys2Proof.Machine.execStealProbe core victim s
  | .teamMigrate src dst colour => Sys2Proof.Machine.execTeamMigrate src dst colour s
  | .rollCall launch => Sys2Proof.Machine.execRollCall launch s
  | .reservationLapse die rec => Sys2Proof.Machine.execReservationLapse die rec s
  | .ringShift gang ring => Sys2Proof.Machine.execRingShift gang ring s
  | .bell die rec => Sys2Proof.Machine.execBell die rec s
  | .bellDeadline die rec => Sys2Proof.Machine.execBellDeadline die rec s
  | .colourSwitchComplete die rec => Sys2Proof.Machine.execColourSwitchComplete die rec s
  | .rast cluster => Sys2Proof.Machine.execRast cluster s
  | .trace cluster => Sys2Proof.Machine.execTrace cluster s
  | .sample cluster => Sys2Proof.Machine.execSample cluster s
  | .generatorQueue range block => Sys2Proof.Machine.execGeneratorQueue range block s
  | .tileOffer o => Sys2Proof.Machine.execTileOffer o s
  | .tileStallFault hdr => Sys2Proof.Machine.execTileStallFault hdr s
  | .l2LineWrite line => Sys2Proof.Machine.execL2LineWrite line s
  | .sliceUnpin slice => Sys2Proof.Machine.execSliceUnpin slice s
  | .arrayError kind loc => Sys2Proof.Machine.execArrayError kind loc s
  | .hostWrite place data => Sys2Proof.Machine.execHostWrite place data s
  | .hostRead place n => Sys2Proof.Machine.execHostRead place n s
  | .fabricWrite dev offset data => Sys2Proof.Machine.execFabricWrite dev offset data s
  | .remoteRead dev line => Sys2Proof.Machine.execRemoteRead dev line s
  | .remoteOwnership dev line => Sys2Proof.Machine.execRemoteOwnership dev line s
  | .leaseRecall line => Sys2Proof.Machine.execLeaseRecall line s
  | .leaseReturn dev line => Sys2Proof.Machine.execLeaseReturn dev line s
  | .leaseDrop line => Sys2Proof.Machine.execLeaseDrop line s
  | .leaseExpiry line => Sys2Proof.Machine.execLeaseExpiry line s
  | .ownerLost line => Sys2Proof.Machine.execOwnerLost line s
  | .lateSnoopAnswer dev line => Sys2Proof.Machine.execLateSnoopAnswer dev line s
  | .launchDoorbell v => Sys2Proof.Machine.execLaunchDoorbell v s
  | .launchRelease launch => Sys2Proof.Machine.execLaunchRelease launch s
  | .graphExpand launch => Sys2Proof.Machine.execGraphExpand launch s
  | .launchDone launch => Sys2Proof.Machine.execLaunchDone launch s
  | .bindRecordWrite die idx v => Sys2Proof.Machine.execBindRecordWrite die idx v s
  | .supervisorQueueWrite die idx v => Sys2Proof.Machine.execSupervisorQueueWrite die idx v s
  | .rangeTableWrite idx v => Sys2Proof.Machine.execRangeTableWrite idx v s
  | .imageTableWrite idx v => Sys2Proof.Machine.execImageTableWrite idx v s
  | .ringDescriptorWrite slice v => Sys2Proof.Machine.execRingDescriptorWrite slice v s
  | .ringModeControl die v => Sys2Proof.Machine.execRingModeControl die v s
  | .segmapWrite idx v => Sys2Proof.Machine.execSegmapWrite idx v s
  | .powerCapWrite v => Sys2Proof.Machine.execPowerCapWrite v s
  | .registerWrite bar offset v => Sys2Proof.Machine.execRegisterWrite bar offset v s
  | .stlResume slot => Sys2Proof.Machine.execStlResume slot s
  | .stlKill slot => Sys2Proof.Machine.execStlKill slot s
  | .readbackL2Tag slice sel => Sys2Proof.Machine.execReadbackL2Tag slice sel s
  | .readbackQueueEntry slice sel => Sys2Proof.Machine.execReadbackQueueEntry slice sel s
  | .readbackDirectory slice sel => Sys2Proof.Machine.execReadbackDirectory slice sel s
  | .readbackBadKind slice sel => Sys2Proof.Machine.execReadbackBadKind slice sel s
  | .forget dev => Sys2Proof.Machine.execForget dev s
  | .clusterRepair cluster => Sys2Proof.Machine.execClusterRepair cluster s
  | .l2WayRepair slice set way => Sys2Proof.Machine.execL2WayRepair slice set way s
  | .gddrDeviceRetire region => Sys2Proof.Machine.execGddrDeviceRetire region s
  | .hostSnoop line write => Sys2Proof.Machine.execHostSnoop line write s
  | .backInvalidationAnswer line => Sys2Proof.Machine.execBackInvalidationAnswer line s
  | .ownerSnoop line => Sys2Proof.Machine.execOwnerSnoop line s
  | .snoopAnswer line data => Sys2Proof.Machine.execSnoopAnswer line data s
  | .unsyncLeaseTimeout line => Sys2Proof.Machine.execUnsyncLeaseTimeout line s
  | .rowRepair row => Sys2Proof.Machine.execRowRepair row s
  | .fabricLaneRepair port => Sys2Proof.Machine.execFabricLaneRepair port s

end Sys2Proof.Machine
end

