-- ==== Sys2Proof/Machine/Events.lean ====
section
/-! DEFINITION. The events of the device that are due in a state, in the order in which the model lets them take
effect: each as soon as its condition holds, before any context issues (DESIGN CHOICE log 3). -/

namespace Sys2Proof.Machine

/-- The operation of the next request of the intersection unit. -/
def nextUnitOp (s : State) (cluster : Nat) : Option Nat := (takeRequest s cluster 1).map (fun r => mOp r.1)

/-- An event of the memory system. -/
def memoryEvent (s : State) : Option Out :=
  ((l2Next s).map (fun t => (.next t : Out)))
    <|> (dirStep s).map (fun t => (.next t : Out))
    <|> (toWake s).head?.map (fun c => execContextWake c.core c.part c.tail s)
    <|> (leaseDropDue s).map (fun l => execLeaseDrop l s)
    <|> (leaseExpiryDue s).map (fun l => if s.bar0.unsync then execUnsyncLeaseTimeout l s else execLeaseExpiry l s)
    <|> (ownerLostDue s).map (fun l => execOwnerLost l s)
    <|> (grantDue s).map (fun l => (.next (grantWaiting s l) : Out))
    <|> (owedStep s).map (fun t => (.next t : Out))
    <|> (unpinDue s).map (fun n => execSliceUnpin n s)
    <|> (pinDue s).map (fun n => (.next (s.setSlice n (startPin (s.slice n))) : Out))
    <|> (openOffers s).head?.map (fun o => execTileOffer o s)
    <|> ((stalledTiles s).find? (fun h => ((stallReport s h).next s).isSome)).map (fun h => execTileStallFault h s)

/-- An engine that can serve a request. -/
def engineEvent (s : State) : Option Out :=
  s.clusters.findSome? (fun u =>
    ((nextCopyOp s u.1).map (fun op => if op = 1 then execCopyFill u.1 s else execCopy u.1 s))
      <|> (nextUnitOp s u.1).map (fun op => if op = 1 then execTrace u.1 s else execRast u.1 s)
      <|> (takeRequest s u.1 2).map (fun _ => execSample u.1 s))

/-- A message that can be delivered. -/
def messageDue (s : State) : Option (Nat × Nat) :=
  (s.parts.find? (fun p => deliverable s (p.1 / 8) (p.1 % 8))).map (fun p => (p.1 / 8, p.1 % 8))

/-- A task whose trap record can be posted. -/
def postDue (s : State) : Option Nat :=
  (s.tasks.find? (fun t => t.2.pending.isSome && (postTask s t.1).isSome)).map (·.1)

/-- An event of traps, messages, engines and completions. -/
def unitEvent (s : State) : Option Out :=
  ((postDivert s s.sched.diverts).map (fun t => (.next t : Out)))
    <|> (postDue s).map (fun id =>
      if (match (s.taskAt id).pending with | some r => recSmode r | none => false) then execTrapLogPost id s else execTrapRecordPost id s)
    <|> (nextRecord s s.sched.due).map (fun _ => execCompletionRecordWrite s)
    <|> (messageDue s).map (fun p => execMessageDeliver p.1 p.2 s)
    <|> engineEvent s
    <|> (takePrefill s).map (fun _ => execPrefill s)

/-- A ring of cores that is to shift. -/
def shiftDue (s : State) : Option (Nat × Nat) :=
  (s.cores.find? (fun c => match c.2.gang with
    | some g => ringDue s g.id c.2.ringNo
    | none => false)).bind (fun c => c.2.gang.map (fun g => (g.id, c.2.ringNo)))

/-- An event of bells, repairs and firmware. -/
def bellEvent (s : State) : Option Out :=
  ((bellDue s).map (fun b => execBell b.1 b.2 s))
    <|> (deadlineDue s).map (fun b => execBellDeadline b.1 b.2 s)
    <|> (repairDue s).map (fun c => execClusterRepair c s)
    <|> (if healthOver s then some (execFirmwareHealthTimeout s) else none)
    <|> (if switchReady s then some (execFirmwareSwitch s) else none)
    <|> (switchDue s).map (fun b => execColourSwitchComplete b.1 b.2 s)
    <|> (lapseDue s).map (fun b => execReservationLapse b.1 b.2 s)

/-- An event of launches. -/
def launchEvent (s : State) : Option Out :=
  (if recordDue s then some (execLaunchRecordRead s) else none)
    <|> ((acceptLaunch s).next s).map (fun _ => execLaunchAccept s)
    <|> (s.sched.launches.find? (fun l => releasable s l.1 l.2)).map (fun l => execLaunchRelease l.1 s)
    <|> (s.sched.launches.find? (fun l => ((expandGraph s l.1).next s).isSome)).map (fun l => execGraphExpand l.1 s)
    <|> (s.sched.launches.find? (fun l => launchOver s l.1 l.2)).map (fun l => execLaunchDone l.1 s)
    <|> (drainQueue s).map (fun t => (.next t : Out))
    <|> (rollCallDue s).map (fun id => execRollCall id s)

/-- An event of dispatch. -/
def dispatchEvent (s : State) : Option Out :=
  (generatorDue s).map (fun b => execGeneratorQueue b.range b.block s)
    <|> (backoffDue s).map (fun id => execBackoffExpiry id s)
    <|> (dispatchAsk s).map (fun t => (.next t : Out))
    <|> (dispatchable s).map (fun p => execTaskDispatch p.1 p.2 s)
    <|> (stealDue s).map (fun p => execStealProbe p.1 p.2 s)
    <|> (if teamFits s then some (execTeamArrive s) else none)
    <|> (migrationDue s).map (fun m => execTeamMigrate m.1 m.2.1 m.2.2 s)
    <|> (shiftDue s).map (fun g => execRingShift g.1 g.2 s)

/-- The next event that is due. -/
def dueEvent (s : State) : Option Out :=
  memoryEvent s <|> unitEvent s <|> bellEvent s <|> launchEvent s <|> dispatchEvent s

/-! ### Accesses through BAR2 wait for a firmware switch (R302) -/

/-- An access through BAR2. -/
def usesBar2 (i : Instr) : Bool := match i with
  | .bindRecordWrite _ _ _ => true
  | .supervisorQueueWrite _ _ _ => true
  | .rangeTableWrite _ _ => true
  | .imageTableWrite _ _ => true
  | .ringDescriptorWrite _ _ => true
  | .ringModeControl _ _ => true
  | .segmapWrite _ _ => true
  | .powerCapWrite _ => true
  | .registerWrite bar _ _ => decide (bar = 2)
  | .stlResume _ => true
  | .stlKill _ => true
  | .readbackL2Tag _ _ => true
  | .readbackQueueEntry _ _ => true
  | .readbackDirectory _ _ => true
  | .readbackBadKind _ _ => true
  | .dmRead => true
  | .reclaim => true
  | .forget _ => true
  | .dmBadCommand => true
  | _ => false

/-- The agent whose writes stay in order: none for the host, also where it writes registers and tables, another device by its
number (R285, R299). -/
def writesAs (i : Instr) : Option (Option Nat) := match i with
  | .hostWrite _ _ => some none
  | .launchDoorbell _ => some none
  | .registerWrite _ _ _ => some none
  | .stage => some none
  | .attest => some none
  | .fabricWrite dev _ _ => some (some dev)
  | i => if usesBar2 i then some none else none

/-- The event may take effect now, before it being the agents whose older writes still wait. Accesses through BAR2 wait for a
firmware switch; a write that waits for lines goes once more to ask for them. -/
def mayGo (s : State) (before : List (Option Nat)) (i : Instr) : Bool :=
  !(decide (s.bar0.fwstate = 3) && usesBar2 i)
    && (match writesAs i with
        | some a => !before.contains a
        | none => true)
    && (let ls := writeBlocked s i; ls.isEmpty || ls.any (fun l => !asked s l))

/-- The first event that may take effect. -/
def firstGo (s : State) : List (Option Nat) → List Instr → Option Instr
  | _, [] => none
  | before, i :: is => if mayGo s before i then some i else firstGo s (before ++ (writesAs i).toList) is

/-- The event of the agenda that takes effect next: the oldest that may. -/
def nextAgenda (s : State) : Option Instr := firstGo s [] s.agenda

end Sys2Proof.Machine
end

