-- ==== Sys2Proof/Machine/Run.lean ====
section
/-! DEFINITION. One step of the machine: an event of the agenda, an event that is due, or an instruction of the context that
issues next (R25). -/

namespace Sys2Proof.Machine

/-! ### An instruction issues -/

/-- The task of an issue is still on the context's partition and goes on. -/
def goesOn (s : State) (c : CtxId) (id : Nat) : Bool :=
  decide ((s.partAt c.core c.part).task = some id) && (s.taskAt id).live

/-- The instruction that a context issued is still to be made: the context waits at it. -/
def atInstr (s : State) (c : CtxId) : Bool := (s.ctx c).valid && (s.ctx c).wait.isSome

/-- The instruction that a context issued has retired: the task goes on, also where the instruction was the end of this
context of it (R90). -/
def hasRetired (s : State) (c : CtxId) (id : Nat) : Bool := goesOn s c id && !atInstr s c

/-- What follows an issue of context c of task id: its retirement is counted, also by a counter that it has itself just
cleared to count retirements (DESIGN CHOICE log 74), what its blocks were kept for ends once it has been made (R248, R254),
the turn passes on, and time passes. -/
def afterIssue (s : State) (c : CtxId) (id : Nat) : State :=
  let s1 := if hasRetired s c id then countEvent s id 2 1 else s
  let s2 := if goesOn s c id && atInstr s c then s1 else endExempt s1 id c.tail
  tick (settle (passTurn s2 c))

/-- What an issue begins with: event 03 counts it. The core issues nothing speculatively, as R51 lets it, so event 03 counts
the instructions that a context comes to alone, and events 04 and 05 never count (R90; DESIGN CHOICE log 74). -/
def issued (s : State) (c : CtxId) : State :=
  let s1 := beginIssue (serve s c)
  countEvent s1 s1.taskId 3 1

/-- The meaning of what was fetched. -/
def runFetched (f : Fetched) (s : State) : Out := match f with
  | .instr i => exec i s
  | .fault cause detail straddle => execFetchFault cause detail straddle s
  | .bad => execIllegalEncoding s
  | .stalled line => .next (waitOn s (.snoop line))

/-- A next state goes on as f says; a fault or a refusal stays. -/
def Out.andThen (o : Out) (f : State → State) : Out := match o with
  | .next s => .next (f s)
  | .fault r => .fault r
  | .refused r => .refused r

/-- Context c issues the instruction at its PC. -/
def issueOne (s : State) (c : CtxId) : Out :=
  let s1 := issued s c
  Out.andThen (runFetched (fetch s1) (afterFetch s1)) (fun t => afterIssue t c s1.taskId)

/-! ### A step -/

/-- A step of the device itself: with the clock halted only TIME goes on (R307); else an event that is due, or the context
that issues next, or else time passes. -/
def advance (s : State) : Out :=
  if s.bar0.pstate = 3 then .next { s with time := s.time + 1 }
  else match dueEvent s with
    | some o => Out.andThen o settle
    | none => match pick s with
      | some c => issueOne s c
      | none => .next (tick s)

/-- The supply can only come back. -/
def isBringUp (i : Instr) : Bool := match i with
  | .bringUp => true
  | _ => false

/-- The agenda once an event of it has been made: a write that must wait stays on it (R285). -/
def agendaAfter (s : State) (i : Instr) : List Instr := if (writeBlocked s i).isEmpty then s.agenda.erase i else s.agenda

/-- One step: the agenda goes first. -/
def oneStep (s : State) : Out :=
  match nextAgenda s with
  | some i =>
    if s.power || isBringUp i then Out.andThen (exec i { s with agenda := agendaAfter s i }) settle else .fault .powerOff
  | none => if s.power then advance s else .fault .powerOff

/-! ### A place for an instruction -/

/-- The place that a fetch of 4 bytes at an address reaches, for the acting context. -/
def fetchPlace (s : State) (a : Word) : Option Nat :=
  (fetchAt s a).toOption.map (·.loc)

/-- Lay 8 bytes where the acting context fetches; none where it cannot fetch there. Neither an unpublished store of its own
nor the instruction cache may hide them. -/
def layInstr (s : State) (bytes : List Byte) : Option State :=
  match fetchPlace s s.pc, fetchPlace s (s.pc + 4) with
  | some a, some b =>
    let new := fun (l : Nat) => (decide (a ≤ l) && decide (l < a + 4)) || (decide (b ≤ l) && decide (l < b + 4))
    let s1 := s.setMe { s.me with pend := s.me.pend.filter (fun e => !new e.1) }
    some (l1iDrop { s1 with mem := (s1.mem.write a (bytes.take 4)).write b (bytes.drop 4) } s.turn.core [lineOf a, lineOf b])
  | _, _ => none

/-- The lines that the fetch of 8 bytes at the PC meets. -/
def fetchLines (s : State) : List Nat := ((fetchPlace s s.pc).toList ++ (fetchPlace s (s.pc + 4)).toList).map lineOf

/-- The next step of the machine is an instruction of this context. -/
def issuing (s : State) : Option CtxId :=
  if s.power && (nextAgenda s).isNone && decide (s.bar0.pstate ≠ 3) && (dueEvent s).isNone then pick s else none

/-- A supervisor task on core 0 whose code lies at the start of device memory, mapped at the same addresses: what a loader
and a launch bring about before a program's first instruction (log 7). -/
def launched (s : State) : State :=
  let c : CtxId := { core := 0, part := 0, tail := false }
  let page : TlbEntry := { colour := 0, page := 0, size := 2 ^ 21, leaf := 0xF, leased := [] }
  let task : Task := { Task.empty with header := BitVec.ofNat 512 (2 ^ 204), state := .running }
  let s1 := { s with power := true, agenda := [], turn := c,
                     bar0 := { s.bar0 with ready := true, fwstate := 1, pstate := 0 },
                     mgmt := { s.mgmt with homemap := Table.set s.mgmt.homemap 0 (BitVec.ofNat 32 (2 ^ 30)) } }
  let s2 := (s1.setCore 0 { s1.core 0 with split := 0, colour := some 0, tlb := [page] }).setPartAt 0 0 { s1.partAt 0 0 with task := some 1 }
  (s2.setTask 1 task).setCtx c { Ctx.empty with valid := true, pc := 0x1000 }

/-- s with an instruction's bytes, lowest first, where the next step fetches. -/
def placeInstr (s : State) (bytes : List Byte) : State :=
  match (issuing s).bind (fun c => layInstr (beginIssue (serve s c)) bytes |>.map (fun t => l1iDrop { t with turn := s.turn, cores := s.cores, tasks := s.tasks } c.core (fetchLines (beginIssue (serve s c))))) with
  | some t => t
  | none =>
    match layInstr (launched s) bytes with
    | some t => if (issuing t).isSome then t else (layInstr (launched State.reset) bytes).getD t
    | none => (layInstr (launched State.reset) bytes).getD s

end Sys2Proof.Machine
end

