-- ==== Sys2Proof/Machine/Step.lean ====
section
/-! DEFINITION. One step of the machine, and a state whose next step runs a given instruction. -/

namespace Sys2Proof.Machine

/-- One step. -/
def step (s : State) : Host.Outcome State Fault Refusal := oneStep s

/-- The instruction whose bits are w, numbered as spec/opcode_table.json numbers them (zeros above nbits), stands in
little-endian order (R5) where step fetches its next instruction. Where no context would issue next, a task is set up
as a launch would (log 7). -/
def State.withFetchWord (s : State) (nbits w : Nat) : State := placeInstr s (bytesOf 8 (w % 2 ^ nbits))

end Sys2Proof.Machine
end

