-- ==== Sys2Proof/Safety.lean ====
section
/-! DEFINITION. What claims say of states: what the acting context reads, which of its registers an instruction may
change, and what stays of the rest of the machine. -/

namespace Sys2Proof.Machine

/-! ### Bytes -/

/-- The byte at a place as the acting context reads it: its own unpublished store, or else the published byte. -/
def State.byte (s : State) (l : Nat) : Byte := seenByte s s.me.pend l

/-- Every byte reads as before, to the acting context and to everyone else. -/
def SameBytes (s t : State) : Prop := t.mem = s.mem ∧ ∀ l, t.byte l = s.byte l

/-! ### Registers -/

/-- The instruction of n bytes completes with a write of X[d]: of the whole machine only the acting context's x registers,
PC and wait differ; X[d] holds w, but for x0, which goes on reading 0 (R11). -/
def WritesX (s t : State) (d : Reg) (w : Word) (n : Nat) : Prop :=
  t = s.setMe { s.me with x := t.me.x, pc := s.pc + BitVec.ofNat 64 n, wait := none }
    ∧ (∀ r, t.x r = if r = d ∧ r ≠ 0 then w else s.x r) ∧ SameBytes s t

/-- The instruction completes at address a: of the whole machine only the acting context's PC and wait differ. -/
def GoesTo (s t : State) (a : Word) : Prop := t = s.setMe { s.me with pc := a, wait := none } ∧ SameBytes s t

/-- Nothing of the acting context differs but what the instruction of a memory access changes: x registers, PC, the stores
that it holds unpublished, and its wait. -/
def ContextKept (s t : State) : Prop :=
  { t.me with x := s.me.x, pc := s.me.pc, pend := s.me.pend, wait := none } = { s.me with wait := none }

/-! ### The rest of the machine -/

/-- What an instruction leaves alone beside memory: partitions (with the tail frame guards), queues, tables, the host's
registers, time, and every other context but for its wait, since a store can end an MWAIT. -/
structure Elsewhere (s t : State) : Prop where
  parts : t.parts = s.parts
  dies : t.dies = s.dies
  slices : t.slices = s.slices
  sched : t.sched = s.sched
  fill : t.fill = s.fill
  bar0 : t.bar0 = s.bar0
  fw : t.fw = s.fw
  saved : t.saved = s.saved
  turn : t.turn = s.turn
  time : t.time = s.time
  power : t.power = s.power
  agenda : t.agenda = s.agenda
  freeCnt : t.freeCnt = s.freeCnt
  ctxs : ∀ c : CtxId, c.key ≠ s.turn.key → { t.ctx c with wait := none } = { s.ctx c with wait := none }

/-- What a memory access that publishes nothing leaves alone: published memory and its poison too. Only translations, cache
tags, leases, signatures and counters are noted. -/
structure Noted (s t : State) : Prop where
  mem : t.mem = s.mem
  poison : t.poison = s.poison
  badCheck : t.badCheck = s.badCheck
  rest : Elsewhere s t

/-- No atomic task runs that writes of the acting task could abort (R33). -/
def NoVictims (s : State) : Prop := ∀ e ∈ s.tasks, isVictim s.taskId e = false

/-- The acting context can publish all that it has stored: it is of no atomic task, no other device or the host holds a line
of it, it stores to no part of a poisoned sector, and no atomic task would abort. Its stores are listed in order, and
another core whose scratchpad it stored to still has the task's colour (R273). -/
structure CanRelease (s : State) : Prop where
  plain : s.task.atomic = false
  ready : releaseHeld s s.turn = false
  clean : admitted s s.me.pend = s.me.pend
  calm : NoVictims s
  order : s.me.pend.Pairwise (fun a b => a.1 < b.1)
  kept : ∀ b ∈ s.me.pend, ∀ c, homeOfLoc b.1 = .scratch c → c = s.turn.core ∨ (s.core c).colour = some s.task.colour

/-- All that the acting context had stored is published, and every byte reads as it did to that context (R152). -/
def Published (s t : State) : Prop := t.me.pend = [] ∧ ∀ l, t.mem.get l = s.byte l

/-- n bytes from a place as the acting context reads them, as a number (R5). -/
def State.number (s : State) (l n : Nat) : Nat := ofBytes ((List.range n).map (fun i => s.byte (l + i)))

end Sys2Proof.Machine
end

