-- ==== Sys2Proof/Certificates/Slice0/Obligations.lean ====
section
/-! DEFINITION. Statements for the provers, with the words that they are said in. Each says in its docstring which rules of
spec/ it formalises. -/

namespace Sys2Proof.Claims
open Sys2Proof.Machine

/-- n as a two's-complement number of 64 bits (R16). -/
def ofZ (n : Int) : Word := BitVec.ofInt 64 n
/-- The low 32 bits of a number, sign-extended (R309). -/
def lowW (n : Int) : Word := BitVec.ofInt 64 (BitVec.ofInt 32 n).toInt
/-- The low 32 bits of a word as a signed number. -/
def z32 (w : Word) : Int := (w.setWidth 32).toInt
/-- The low 32 bits of a word as an unsigned number. -/
def n32 (w : Word) : Nat := (w.setWidth 32).toNat
/-- 1 or 0 (R360). -/
def one (c : Prop) [Decidable c] : Word := if c then 1 else 0

/-- Addition, subtraction, logic, compares and upper immediates: X[d] and its new value (R312, R317, R320, R337, R345,
R360, R361, R416). -/
def addRow (s : State) : Instr → Option (Reg × Word)
  | .add d a b => some (d, ofZ ((s.x a).toInt + (s.x b).toInt))
  | .addi d a i => some (d, ofZ ((s.x a).toInt + i.toInt))
  | .addw d a b => some (d, lowW ((s.x a).toInt + (s.x b).toInt))
  | .addiw d a i => some (d, lowW ((s.x a).toInt + i.toInt))
  | .sub d a b => some (d, ofZ ((s.x a).toInt - (s.x b).toInt))
  | .subw d a b => some (d, lowW ((s.x a).toInt - (s.x b).toInt))
  | .and d a b => some (d, BitVec.ofNat 64 ((s.x a).toNat &&& (s.x b).toNat))
  | .andi d a i => some (d, BitVec.ofNat 64 ((s.x a).toNat &&& (ofZ i.toInt).toNat))
  | .or d a b => some (d, BitVec.ofNat 64 ((s.x a).toNat ||| (s.x b).toNat))
  | .ori d a i => some (d, BitVec.ofNat 64 ((s.x a).toNat ||| (ofZ i.toInt).toNat))
  | .xor d a b => some (d, BitVec.ofNat 64 ((s.x a).toNat ^^^ (s.x b).toNat))
  | .xori d a i => some (d, BitVec.ofNat 64 ((s.x a).toNat ^^^ (ofZ i.toInt).toNat))
  | .slt d a b => some (d, one ((s.x a).toInt < (s.x b).toInt))
  | .sltu d a b => some (d, one ((s.x a).toNat < (s.x b).toNat))
  | .slti d a i => some (d, one ((s.x a).toInt < i.toInt))
  | .sltiu d a i => some (d, one ((s.x a).toNat < (ofZ i.toInt).toNat))
  | .lui d i => some (d, lowW (4096 * i.toNat))
  | .auipc d i => some (d, s.pc + lowW (4096 * i.toNat))
  | _ => none

/-- Shifts (R359): by 6 or 5 low bits of X[s2], or by the immediate. -/
def shiftRow (s : State) : Instr → Option (Reg × Word)
  | .sll d a b => some (d, ofZ ((s.x a).toInt * 2 ^ ((s.x b).toNat % 64)))
  | .srl d a b => some (d, ofZ ((s.x a).toNat / 2 ^ ((s.x b).toNat % 64)))
  | .sra d a b => some (d, ofZ ((s.x a).toInt / 2 ^ ((s.x b).toNat % 64)))
  | .slli d a h => some (d, ofZ ((s.x a).toInt * 2 ^ h.toNat))
  | .srli d a h => some (d, ofZ ((s.x a).toNat / 2 ^ h.toNat))
  | .srai d a h => some (d, ofZ ((s.x a).toInt / 2 ^ h.toNat))
  | .sllw d a b => some (d, lowW (z32 (s.x a) * 2 ^ ((s.x b).toNat % 32)))
  | .srlw d a b => some (d, lowW (n32 (s.x a) / 2 ^ ((s.x b).toNat % 32)))
  | .sraw d a b => some (d, lowW (z32 (s.x a) / 2 ^ ((s.x b).toNat % 32)))
  | .slliw d a h => some (d, lowW (z32 (s.x a) * 2 ^ h.toNat))
  | .srliw d a h => some (d, lowW (n32 (s.x a) / 2 ^ h.toNat))
  | .sraiw d a h => some (d, lowW (z32 (s.x a) / 2 ^ h.toNat))
  | _ => none

/-- A quotient: all ones for a divisor of 0 (R324). -/
def quot (a b : Int) : Int := if b = 0 then -1 else a.tdiv b
/-- A remainder: the dividend for a divisor of 0 (R353). -/
def rest (a b : Int) : Int := if b = 0 then a else a.tmod b

/-- Products, quotients and remainders (R324, R343, R353). -/
def mulRow (s : State) : Instr → Option (Reg × Word)
  | .mul d a b => some (d, ofZ ((s.x a).toInt * (s.x b).toInt))
  | .mulh d a b => some (d, ofZ ((s.x a).toInt * (s.x b).toInt / 2 ^ 64))
  | .mulhsu d a b => some (d, ofZ ((s.x a).toInt * (s.x b).toNat / 2 ^ 64))
  | .mulhu d a b => some (d, ofZ ((s.x a).toNat * (s.x b).toNat / 2 ^ 64))
  | .mulw d a b => some (d, lowW (z32 (s.x a) * z32 (s.x b)))
  | .div d a b => some (d, ofZ (quot (s.x a).toInt (s.x b).toInt))
  | .divu d a b => some (d, ofZ (quot (s.x a).toNat (s.x b).toNat))
  | .rem d a b => some (d, ofZ (rest (s.x a).toInt (s.x b).toInt))
  | .remu d a b => some (d, ofZ (rest (s.x a).toNat (s.x b).toNat))
  | .divw d a b => some (d, lowW (quot (z32 (s.x a)) (z32 (s.x b))))
  | .divuw d a b => some (d, lowW (quot (n32 (s.x a)) (n32 (s.x b))))
  | .remw d a b => some (d, lowW (rest (z32 (s.x a)) (z32 (s.x b))))
  | .remuw d a b => some (d, lowW (rest (n32 (s.x a)) (n32 (s.x b))))
  | _ => none

/-- Branches: whether one is taken, and its distance from its own address (R310, R321). -/
def branchRow (s : State) : Instr → Option (Bool × Int)
  | .beq a b i => some (decide (s.x a = s.x b), 2 * i.toInt)
  | .bne a b i => some (decide (s.x a ≠ s.x b), 2 * i.toInt)
  | .blt a b i => some (decide ((s.x a).toInt < (s.x b).toInt), 2 * i.toInt)
  | .bge a b i => some (decide ((s.x b).toInt ≤ (s.x a).toInt), 2 * i.toInt)
  | .bltu a b i => some (decide ((s.x a).toNat < (s.x b).toNat), 2 * i.toInt)
  | .bgeu a b i => some (decide ((s.x b).toNat ≤ (s.x a).toNat), 2 * i.toInt)
  | _ => none

/-- Jumps: the link register and the target (R334). -/
def jumpRow (s : State) : Instr → Option (Reg × Word)
  | .jal d i => some (d, s.pc + ofZ (2 * i.toInt))
  | .jalr d a i => some (d, ofZ (((s.x a).toInt + i.toInt) / 2 * 2))
  | _ => none

/-- Loads (R336): X[d], the effective address, the width in bytes, and whether the value is sign-extended. -/
def loadRow (s : State) : Instr → Option (Reg × Word × Nat × Bool)
  | .lb d a i => some (d, s.x a + ofZ i.toInt, 1, true)
  | .lh d a i => some (d, s.x a + ofZ i.toInt, 2, true)
  | .lw d a i => some (d, s.x a + ofZ i.toInt, 4, true)
  | .ld d a i => some (d, s.x a + ofZ i.toInt, 8, true)
  | .lbu d a i => some (d, s.x a + ofZ i.toInt, 1, false)
  | .lhu d a i => some (d, s.x a + ofZ i.toInt, 2, false)
  | .lwu d a i => some (d, s.x a + ofZ i.toInt, 4, false)
  | _ => none

/-- Stores (R354): the effective address, the width in bytes, and the register that is stored. -/
def storeRow (s : State) : Instr → Option (Word × Nat × Reg)
  | .sb b a i => some (s.x a + ofZ i.toInt, 1, b)
  | .sh b a i => some (s.x a + ofZ i.toInt, 2, b)
  | .sw b a i => some (s.x a + ofZ i.toInt, 4, b)
  | .sd b a i => some (s.x a + ofZ i.toInt, 8, b)
  | _ => none

/-- A number of n bytes, sign-extended or zero-extended to 64 bits. -/
def extend (signed : Bool) (v n : Nat) : Word := if signed then ofZ (BitVec.ofNat (8 * n) v).toInt else BitVec.ofNat 64 v

/-- Byte j of a word. -/
def byteOf (w : Word) (j : Nat) : Byte := BitVec.ofNat 8 (w.toNat / 256 ^ j)

/-- A jump through a table: the link register, the base, the count and the index (R52). -/
def tableRow (s : State) : Instr → Option (Reg × Word × Word × Word)
  | .jtbl d s1 s2 s3 => some (d, s.x s1, s.x s2, s.x s3)
  | _ => none

/-- The access that JTBL makes to entry i of the table at b. -/
def tableAcc (b i : Word) : Acc := accGv (b + 4 * i) 4 .load (decide ((b + 4 * i).toNat % 4 ≠ 0))

/-- SETVL: X[d], the request, and the 15 bits of the type (R357). -/
def setvlRow (s : State) : Instr → Option (Reg × Word × BitVec 15)
  | .setvl d s1 ty => some (d, s.x s1, ty)
  | .setvlReg d s1 s2 => some (d, s.x s1, BitVec.ofNat 15 (s.x s2).toNat)
  | _ => none

/-- The branches on Top (R50): whether one is taken, and its distance from its own address. -/
def topRow (s : State) : Instr → Option (Bool × Int)
  | .bmz off => some (decide (∀ i < s.vl, s.me.top.getLsbD i = false), 4 * off.toInt)
  | .bmnz off => some (decide (∃ i < s.vl, s.me.top.getLsbD i = true), 4 * off.toInt)
  | _ => none

/-- An operation of the mask stack (R49) and the stack that it leaves, given as bits below VL: none where it
overflows or underflows. -/
def stackRow (s : State) : Instr → Option (Option ((Nat → Bool) × List Mask))
  | .mpush n =>
    some (if s.me.mstk.length < 24 then some (fun i => s.me.top.getLsbD i && (s.k n.toNat).getLsbD i, s.me.mstk) else none)
  | .minv => some (match s.me.mstk with
    | [] => none
    | t :: rest => some (fun i => (rest.headD (BitVec.allOnes 65536)).getLsbD i && !t.getLsbD i, rest))
  | _ => none

/-- CSR forms: X[d], the CSR's number, and what the form writes, if it writes, given the old value (R323). -/
def csrRow (s : State) : Instr → Option (Reg × Nat × Option (Word → Word))
  | .csrrw d a c => some (d, c.toNat, some (fun _ => s.x a))
  | .csrrs d a c => some (d, c.toNat, if a = 0 then none else some (fun o => o ||| s.x a))
  | .csrrc d a c => some (d, c.toNat, if a = 0 then none else some (fun o => o &&& ~~~ (s.x a)))
  | .csrrwi d u c => some (d, c.toNat, some (fun _ => BitVec.ofNat 64 u.toNat))
  | .csrrsi d u c => some (d, c.toNat, if u = 0 then none else some (fun o => o ||| BitVec.ofNat 64 u.toNat))
  | .csrrci d u c => some (d, c.toNat, if u = 0 then none else some (fun o => o &&& ~~~ (BitVec.ofNat 64 u.toNat)))
  | _ => none

/-- FMASK as R88 gives it: 0 for an empty mask; else bit 63, the count of its elements, and the lowest of them. -/
def fmaskIs (m : Mask) (w : Word) : Prop :=
  (m = 0 → w = 0) ∧ (m ≠ 0 → bitOf w 63 = true ∧ bitsOf w 48 32 = ((List.range 65536).filter (fun i => m.getLsbD i)).length
    ∧ (∀ i < 65536, m.getLsbD i = true → bitsOf w 15 0 ≤ i) ∧ m.getLsbD (bitsOf w 15 0) = true
    ∧ bitsOf w 62 49 = 0 ∧ bitsOf w 31 16 = 0)

/-- What a CSR reads as, by its number (R84, R270), where a task of the given mode may read it. FMASK has a claim of its
own. -/
def csrValue (s : State) : Nat → Option Word
  | 0x801 => some s.me.vfcsr
  | 0xC01 => some (BitVec.ofNat 64 s.time)
  | 0xCC0 => some (BitVec.ofNat 64 s.me.vl)
  | 0xCC1 => some s.me.vty
  | 0xCC2 => some (BitVec.ofNat 64 s.me.mstk.length)
  | 0xCC4 => some (BitVec.ofNat 64 (s.myCore.split + 4 * s.turn.part))
  | 0xCC5 => some (BitVec.ofNat 64 (16 * s.part.tfg.base.toNat + (if s.part.tfg.live then 2 else 0) + (if s.part.tfg.armed then 1 else 0)))
  | 0xCC6 => some (BitVec.ofNat 64 (16 * s.part.tfg.limit.toNat))
  | 0xCC8 => some (BitVec.ofNat 64 s.taskId)
  | 0xCC9 => some (BitVec.ofNat 64 s.task.gang)
  | 0xCCA => some (BitVec.ofNat 64 s.task.colour)
  | 0x5C0 => if s.task.smode then some (BitVec.ofNat 64 (0x810000 + 0x100000 * s.task.die + 64 * s.task.recNo)) else none
  | 0x5C2 => if s.task.smode then some (BitVec.ofNat 64 (nextBell s s.turn.core s.task.colour)) else none
  | 0x5C1 => if s.task.smode then some (BitVec.ofNat 64 s.task.pkey.toNat) else none
  | n =>
    if 0x8E0 ≤ n ∧ n < 0x8E8 then some (Table.get 0 s.task.pcsel (n - 0x8E0))
    else if 0xCE0 ≤ n ∧ n < 0xCE8 then some (Table.get 0 s.task.pcnt (n - 0xCE0)) else none

/-- Boundaries (R150, R328, R329, R346): acquire, release, scope, and bytes of code. -/
def boundaryRow : Instr → Option (Bool × Bool × Nat × Nat)
  | .phase aq rl scope => some (aq, rl, scope.toNat, 8)
  | .fence _ _ => some (true, true, 3, 4)
  | .fenceTso => some (true, true, 3, 4)
  | .fenceI => some (false, false, 0, 4)
  | _ => none

/-- ENQ and ENQ.NB (R327): the register that holds the header's address, and the status register of ENQ.NB. -/
def enqRow : Instr → Option (Reg × Option Reg)
  | .enq s1 => some (s1, none)
  | .enqNb d s1 => some (s1, some d)
  | _ => none

/-- XPUSH and XPUSH.NB (R190): the first of the four registers, and the status register of XPUSH.NB. -/
def xpushRow : Instr → Option (Reg × Option Reg)
  | .xpush s1 => some (s1, none)
  | .xpushNb d s1 => some (s1, some d)
  | _ => none

/-- GENDONE and GENFAIL (R253): the register that names the block, whether it is FILLED, and the code of its failure. -/
def endRow (s : State) : Instr → Option (Reg × Bool × BitVec 16)
  | .gendone s1 => some (s1, true, 0)
  | .genfail s1 s2 => some (s1, false, BitVec.ofNat 16 (s.x s2).toNat)
  | _ => none

/-- X registers after a form that writes a status register, if it has one. -/
def StatusIn (s t : State) (d : Option Reg) (w : Word) : Prop :=
  ∀ r, t.x r = match d with
    | some d => if r = d ∧ r ≠ 0 then w else s.x r
    | none => s.x r

/-- The 16 bytes of slot n of a core as the acting context reads them. -/
def slotSeen (s : State) (core n : Nat) : Slot := BitVec.ofNat 128 (s.number (slotLoc core n) 16)

/-- The sector of slot n of a core is good. -/
def SlotGood (s : State) (core n : Nat) : Prop :=
  s.sectorBad (sectorOf (slotLoc core n)) = false ∧ ownerGone s (lineOf (slotLoc core n)) = false

/-- Bytes outside slot n of a core. -/
def outsideSlot (core n l : Nat) : Prop := l < slotLoc core n ∨ slotLoc core n + 16 ≤ l

/-- The copy of a header that a queue keeps, at an arrival order (R173). -/
def copyOf (h : Header) (colour arrival : Nat) : QEntry :=
  { header := h, colour := colour, arrival := arrival, run := false, task := none, gen := none, launch := 0, withheld := [] }

/-- Place l is one of n bytes from a place. -/
def within (a n l : Nat) : Prop := a ≤ l ∧ l < a + n

/-- n bytes from a place can be written: no sector of them is poisoned, and no line of them has lost its owner. -/
def Writable (s : State) (a n : Nat) : Prop :=
  ∀ l, within a n l → s.sectorBad (sectorOf l) = false ∧ ownerGone s (lineOf l) = false

/-- Byte j of a number. -/
def byteOfNat (v j : Nat) : Byte := BitVec.ofNat 8 (v / 256 ^ j)

/-- No atomic task runs, so that no write aborts one (R33). -/
def Calm (s : State) : Prop := ∀ e ∈ s.tasks, isVictim 0 e = false

/-- The device may write the byte at a place now: no one holds its line, its sector is not poisoned, and its owner is not
lost. -/
def Unheld (s : State) (l : Nat) : Prop := lineHeld s (lineOf l) = false ∧ s.sectorBad (sectorOf l) = false ∧ ownerGone s (lineOf l) = false

/-- Place l holds v in memory where it is one of n bytes from a place, and what it held elsewhere. -/
def Laid (s t : State) (a n : Nat) (v : Nat → Byte) : Prop :=
  ∀ l, t.mem.get l = if a ≤ l ∧ l < a + n then v (l - a) else s.mem.get l

/-- The access faults with a cause and a DETAIL, at its own address. -/
def FaultsWith (s : State) (a : Acc) (c : Cause) (detail : Nat) : Prop :=
  checkAcc s s.who a true = .error (.trap (trapAt c detail a.elem a.ea))

/-- The access's address is in order: aligned, in bounds, and clear of a guarded frame (R60). -/
structure Reaches (s : State) (a : Acc) : Prop where
  aligned : a.mis = false
  bounds : a.bounds = true
  listed : inWindow a.ea = true → (windowPlace s.turn.core a.ea a.width).isSome = true
  clear : a.guarded = true → s.turn.tail = false → s.part.tfg.armed = true → a.meetsFrame s.part.tfg = false

/-- A translated access reaches a page and a memory: the leaf, and the home and place. -/
def Paged (s : State) (a : Acc) (leaf : Word) (home : Home) (l : Nat) : Prop :=
  inWindow a.ea = false ∧ ∃ e fresh, translate s s.turn.core s.task.colour a.ea = .ok (e, fresh) ∧ e.leaf = leaf ∧ physical s (e.pa a.ea) = some (home, l)

/-- What the checks of a load or a store of the acting context find, in the order of R264: MISALIGNED, BOUNDS, FRAMEINUSE,
CONTAIN or PAGE and PERM, AMOTYPE, the procedural check of R246, and POISON. -/
structure FaultsInOrder (s : State) (a : Acc) : Prop where
  misaligned : a.mis = true → FaultsWith s a .misaligned 0
  bounds : a.mis = false → (a.bounds = false ∨ (inWindow a.ea = true ∧ windowPlace s.turn.core a.ea a.width = none)) → FaultsWith s a .bounds 0
  frameinuse : a.mis = false → a.bounds = true → (inWindow a.ea = true → (windowPlace s.turn.core a.ea a.width).isSome = true) →
    a.guarded = true → s.turn.tail = false → s.part.tfg.armed = true → a.meetsFrame s.part.tfg = true → FaultsWith s a .frameinuse 0
  contain : ∀ c o, Reaches s a → inWindow a.ea = true → windowPlace s.turn.core a.ea a.width = some (c, o) → c ≠ s.turn.core →
    (s.core c).colour ≠ some s.task.colour → FaultsWith s a .contain 2
  page : Reaches s a → inWindow a.ea = false → translate s s.turn.core s.task.colour a.ea = .error .page → FaultsWith s a .page a.kind.detail
  perm : ∀ leaf home l, Reaches s a → Paged s a leaf home l → inPool s.who a = false →
    ((a.kind.isStore = true ∧ bitOf leaf 1 = false) ∨ (s.task.smode = false ∧ bitOf leaf 3 = false) ∨ a.permitted = false) →
    FaultsWith s a .perm a.kind.detail
  amotype : ∀ leaf l, Reaches s a → Paged s a leaf .hostPosted l → leafPerm s.who a leaf = none → s.task.atomic = false → a.kind = .amo →
    FaultsWith s a .amotype 0
  parks : ∀ leaf home l b, Reaches s a → Paged s a leaf home l → leafPerm s.who a leaf = none → s.task.atomic = false → a.kind = .load →
    a.mwait = false → bitOf leaf 8 = true → blockAt s a.ea = some b →
    ((fillState s b = .blank → touchDepth s s.taskId < 4 → checkAcc s s.who a true = .error (.park [b]))
      ∧ (fillState s b = .turning → genBlock s s.taskId = none → checkAcc s s.who a true = .error (.park [b]))
      ∧ (fillState s b = .spoiled → checkAcc s s.who a true
          = .error (.trap { trapAt .fillfail 0 a.elem a.ea with aux := BitVec.ofNat 256 (failCode s s.taskId b).toNat })))
  poison : ∀ tg x, checkAcc s s.who a false = .ok tg → inWindow a.ea = false → x ∈ sectorsAt tg.loc a.width → s.sectorBad x = true →
    bytesIn s.me.pend x < 32 →
    ((a.kind = .load → checkAcc s s.who a true = .error (.trap { trapAt .poison 0 a.elem a.ea with span := a.width }))
      ∧ (a.kind = .store → covers tg.loc a.width x = false →
          checkAcc s s.who a true = .error (.trap { trapAt .poison 1 a.elem a.ea with span := a.width })))

/-- Forms that an atomic task may not perform (R34) where its checks before that pass, with the DETAIL: 0 the form itself, 1
its scratchpad access (R262). -/
def irrevocableRow (s : State) : Instr → Option Nat
  | .psend _ _ => some 0
  | .precv _ _ _ => some 0
  | .arrive _ _ _ _ => some 0
  | .waitb _ _ => some 0
  | .testb _ _ => some 1
  | .xpush _ => some 0
  | .xpushNb _ _ => some 0
  | .mwait _ _ => if s.me.wait = none then some 0 else none
  | .gendone _ => some 0
  | .genfail _ _ => some 0
  | .hback s1 _ => if s.turn.tail = false ∧ (s.x 2).toNat % 16 = 0 ∧ (s.x s1).toNat % 16 = 0 ∧ signNat (s.x 2).toNat 57 ≤ signNat (s.x s1).toNat 57
      then some 0 else none
  | _ => none

/-- A header lies where R174 and R179 route it; in ring mode its bytes are in the ring's memory, and TAIL has moved (R178). An
instruction's header is never spread over the segments. -/
def Placed (u t : State) (h : Header) (colour : Nat) : Prop := match route u h (some u.turn.core) with
  | .deque c => (t.core c).deque = (u.core c).deque ++ [copyOf h colour 0]
  | .segment n =>
    (inRingMode u n = false → (t.seg n).entries = (u.seg n).entries ++ [copyOf h colour (Table.get 0 (u.seg n).next (hPrio h))])
    ∧ (inRingMode u n = true → Calm u → ∀ l, ringSlot u n colour = some l → Writable u l 64 →
        Laid u t l 64 (byteOfNat h.toNat) ∧ ringTail (ringDesc t n) = (ringTail (ringDesc u n) + 1) % 2 ^ 32)
  | .spread _ => False

/-- A task's trap as its record tells it (R263): PC, ADDR, SPILL, TASKID, CAUSE, STRADDLE, CTX, PARKED, FINAL, SMODE, DETAIL,
ELEM, COLOUR and AUX. -/
structure RecordOf (r : BitVec 1024) (t : Trap) (pc : Word) (colour task spill : Nat) (tail smode final parked : Bool) : Prop where
  pc : bitsOf r 63 0 = pc.toNat
  addr : bitsOf r 127 64 = t.addr.toNat
  spill : bitsOf r 191 128 = if parked then spill else 0
  task : bitsOf r 255 192 = task
  cause : bitsOf r 263 256 = t.cause.code
  straddle : bitOf r 267 = t.straddle
  ctx : bitOf r 268 = tail
  parked : bitOf r 269 = parked
  final : bitOf r 270 = final
  smode : bitOf r 271 = smode
  detail : bitsOf r 303 288 = t.detail
  elem : bitsOf r 319 304 = t.elem
  colour : bitsOf r 335 320 = colour
  aux : bitsOf r 639 384 = t.aux.toNat

/-- The acting context can take a trap: its stores and those of its task's other context can be released. -/
def CanPark (s : State) : Prop := (parkHeld s && !s.task.atomic) = false

/-! ### Vector forms -/

/-- mm and its register select element i (R15). -/
def selects (s : State) (m : MaskSel) (i : Nat) : Bool :=
  decide (i < 65536) && match m.mm.toNat with
    | 0 => true
    | 1 => s.me.top.getLsbD i
    | 2 => (s.k m.k.toNat).getLsbD i
    | _ => s.me.top.getLsbD i && (s.k m.k.toNat).getLsbD i

/-- Element i is active: below VL, selected, and, while FMASK.ANY is 1, marked in the faulted-element mask (R265). -/
def acts (s : State) (m : MaskSel) (i : Nat) : Bool :=
  decide (i < s.vl) && selects s m i && (decide (s.me.fmask = 0) || s.me.fmask.getLsbD i)

/-- The active elements, ascending. -/
def actList (s : State) (m : MaskSel) : List Nat := (List.range s.vl).filter (acts s m)

/-- A form that depends on VTY executes (R82, R109): VTY.ILL is 0, the type is one that the form accepts, VL fits a type
that et names, tile registers are multiples of GF and leave room for a block type's scales, and rm selects a mode. -/
structure VecOk (s : State) (ty : ElTy) (accepts : Prop) (tiles : List Reg) (rm : Option (BitVec 3)) : Prop where
  ill : vtyIll s.me.vty = false
  takes : accepts
  fits : ty.ovr = true → s.vl ≤ s.vlmaxAt ty.sew
  rows : ∀ r ∈ tiles, r.toNat % s.gf = 0 ∧ (ty.blen ≠ 0 → r.toNat + s.gf + scaleRegs s.gf ≤ 32)
  mode : ∀ m, rm = some m → s.roundMode m ≤ 4

/-- Register n holds an element of the tile at register d (R17). -/
def inTile (s : State) (d sew n : Nat) : Prop := ∃ j < max s.vl (s.vlmaxAt sew), d + j / s.rcap sew = n

/-- Positions that may become all ones (R358): elements below VL that the mask leaves out, where VTY.MA is 1, and the tail
from lo, where VTY.TA is 1. With VL 0 there is none. -/
def loose (s : State) (sew : Nat) (out : Nat → Bool) (lo i : Nat) : Prop :=
  0 < s.vl ∧ ((vtyMa s.me.vty = true ∧ i < s.vl ∧ out i = true)
    ∨ (vtyTa s.me.vty = true ∧ lo ≤ i ∧ i < s.vlmaxAt sew))

/-- The tile at register d after a form: the elements with a result hold it, others keep their values but for the all ones
of R358, and every other register keeps its value. -/
structure TileAfter (s t : State) (d sew : Nat) (res : Nat → Option Nat) (free : Nat → Prop) : Prop where
  results : ∀ i v, res i = some v → t.elem d sew i = v % 2 ^ sew
  others : ∀ i, res i = none → t.elem d sew i = s.elem d sew i ∨ (free i ∧ t.elem d sew i = 2 ^ sew - 1)
  rows : ∀ n, ¬ inTile s d sew n → t.v n = s.v n

/-- k register d after a compare: as a tile, bit by bit; every other k register keeps its value. -/
structure BitsAfter (s t : State) (d : Nat) (res : Nat → Option Bool) (free : Nat → Prop) : Prop where
  results : ∀ i < 65536, ∀ b, res i = some b → (t.k d).getLsbD i = b
  others : ∀ i < 65536, res i = none → (t.k d).getLsbD i = (s.k d).getLsbD i ∨ (free i ∧ (t.k d).getLsbD i = true)
  rows : ∀ n, n ≠ d → t.k n = s.k n

/-- A form on registers completes: of the whole machine only the acting context's vector and k registers, VFCSR flags, FMASK
(now 0), PC and wait differ (and the count of free values drawn). -/
def VecFrame (s t : State) (fl : Nat) : Prop :=
  t = { s.setMe { s.me with v := t.me.v, k := t.me.k, vfcsr := s.me.vfcsr ||| BitVec.ofNat 64 (fl % 32), fmask := 0,
                            pc := s.pc + 8, wait := none } with freeCnt := t.freeCnt }
    ∧ SameBytes s t

/-- A form with an x destination completes: of the whole machine only the acting context's x registers, FMASK (now 0), PC and
wait differ. -/
def ScalarAfter (s t : State) (d : Reg) (w : Word) : Prop :=
  t = s.setMe { s.me with x := t.me.x, fmask := 0, pc := s.pc + 8, wait := none }
    ∧ (∀ r, t.x r = if r = d ∧ r ≠ 0 then w else s.x r) ∧ SameBytes s t

/-- Whether some active element has a property. -/
def someAct (s : State) (m : MaskSel) (p : Nat → Bool) : Bool := (actList s m).any p

/-- A number modulo 2^n (R16). -/
def md (n : Nat) (z : Int) : Nat := (z % 2 ^ n).toNat
/-- A code of n bits as a signed number. -/
def sg (n a : Nat) : Int := if 2 ^ (n - 1) ≤ a then (a : Int) - 2 ^ n else a
/-- A number clamped to a range. -/
def clamp (lo hi z : Int) : Int := max lo (min hi z)

/-- Element-wise integer forms (R381, R385): the exact result, given SEW and the elements a and b, and the range to which a
saturating form clamps it. -/
def viRow : Instr → Option (VecOp × (Nat → Nat → Nat → Int) × Option (Nat → Int × Int))
  | .vadd o => some (o, fun _ a b => a + b, none)
  | .vsub o => some (o, fun _ a b => a - b, none)
  | .vmul o => some (o, fun _ a b => a * b, none)
  | .vmulh o => some (o, fun n a b => sg n a * sg n b / 2 ^ n, none)
  | .vmulhu o => some (o, fun n a b => a * b / 2 ^ n, none)
  | .vdiv o => some (o, fun n a b => quot (sg n a) (sg n b), none)
  | .vdivu o => some (o, fun _ a b => quot a b, none)
  | .vrem o => some (o, fun n a b => rest (sg n a) (sg n b), none)
  | .vremu o => some (o, fun _ a b => rest a b, none)
  | .vmin o => some (o, fun n a b => min (sg n a) (sg n b), none)
  | .vminu o => some (o, fun _ a b => min a b, none)
  | .vmax o => some (o, fun n a b => max (sg n a) (sg n b), none)
  | .vmaxu o => some (o, fun _ a b => max a b, none)
  | .vand o => some (o, fun _ a b => (a &&& b : Nat), none)
  | .vor o => some (o, fun _ a b => (a ||| b : Nat), none)
  | .vxor o => some (o, fun _ a b => (a ^^^ b : Nat), none)
  | .vsll o => some (o, fun n a b => a * 2 ^ (b % n), none)
  | .vsrl o => some (o, fun n a b => a / 2 ^ (b % n), none)
  | .vsra o => some (o, fun n a b => sg n a / 2 ^ (b % n), none)
  | .vsadd o => some (o, fun n a b => sg n a + sg n b, some (fun n => (-(2 ^ (n - 1)), 2 ^ (n - 1) - 1)))
  | .vsaddu o => some (o, fun _ a b => a + b, some (fun n => (0, 2 ^ n - 1)))
  | .vssub o => some (o, fun n a b => sg n a - sg n b, some (fun n => (-(2 ^ (n - 1)), 2 ^ (n - 1) - 1)))
  | .vssubu o => some (o, fun _ a b => a - b, some (fun n => (0, 2 ^ n - 1)))
  | .vmv o => some (o, fun _ _ b => b, none)
  | .vbcast o => some (o, fun _ _ b => b, none)
  | _ => none

/-- What such a form writes. -/
def viValue (n : Nat) (z : Int) : Option (Nat → Int × Int) → Int
  | none => z
  | some r => clamp (r n).1 (r n).2 z

/-- Integer compares (R387). -/
def viCmpRow : Instr → Option (VecOp × (Nat → Nat → Nat → Bool))
  | .vcmpEq o => some (o, fun _ a b => decide (a = b))
  | .vcmpNe o => some (o, fun _ a b => decide (a ≠ b))
  | .vcmpLt o => some (o, fun n a b => decide (sg n a < sg n b))
  | .vcmpLe o => some (o, fun n a b => decide (sg n a ≤ sg n b))
  | .vcmpGt o => some (o, fun n a b => decide (sg n b < sg n a))
  | .vcmpGe o => some (o, fun n a b => decide (sg n b ≤ sg n a))
  | .vcmpLtu o => some (o, fun _ a b => decide (a < b))
  | .vcmpLeu o => some (o, fun _ a b => decide (a ≤ b))
  | .vcmpGtu o => some (o, fun _ a b => decide (b < a))
  | .vcmpGeu o => some (o, fun _ a b => decide (b ≤ a))
  | _ => none

/-- Reductions and scans (R408): whether it is a scan, the identity, and the operation of n-bit codes. -/
def viRedRow : Instr → Option (VecUn × Bool × (Nat → Nat) × (Nat → Nat → Nat → Nat))
  | .vredAdd o => some (o, false, fun _ => 0, fun n a b => md n (a + b))
  | .vredMin o => some (o, false, fun n => 2 ^ (n - 1) - 1, fun n a b => md n (min (sg n a) (sg n b)))
  | .vredMax o => some (o, false, fun n => 2 ^ (n - 1), fun n a b => md n (max (sg n a) (sg n b)))
  | .vredMinu o => some (o, false, fun n => 2 ^ n - 1, fun _ a b => min a b)
  | .vredMaxu o => some (o, false, fun _ => 0, fun _ a b => max a b)
  | .vredAnd o => some (o, false, fun n => 2 ^ n - 1, fun _ a b => a &&& b)
  | .vredOr o => some (o, false, fun _ => 0, fun _ a b => a ||| b)
  | .vredXor o => some (o, false, fun _ => 0, fun _ a b => a ^^^ b)
  | .vscanAdd o => some (o, true, fun _ => 0, fun n a b => md n (a + b))
  | .vscanMin o => some (o, true, fun n => 2 ^ (n - 1) - 1, fun n a b => md n (min (sg n a) (sg n b)))
  | .vscanMax o => some (o, true, fun n => 2 ^ (n - 1), fun n a b => md n (max (sg n a) (sg n b)))
  | .vscanMinu o => some (o, true, fun n => 2 ^ n - 1, fun _ a b => min a b)
  | .vscanMaxu o => some (o, true, fun _ => 0, fun _ a b => max a b)
  | _ => none

/-- The unsigned 64-bit distance or index of a slide or VMVXS (R406, R409). -/
def distance (s : State) : Src → Nat
  | .xreg r => (s.x r).toNat
  | .imm n => (ofZ n.toInt).toNat
  | .vec _ => 0

/-- Permutes (R407, R409): the checked tiles and the results; none where an element keeps its value. -/
def permRow (s : State) : Instr → Option (VecOp × List Reg × (Nat → Nat → Option Nat))
  | .vperm o => some (o, [o.d, o.s1] ++ Src.tiles o.b, fun n i =>
      some (if s.srcB o.b n i < s.vl then s.elem o.s1.toNat n (s.srcB o.b n i) else 0))
  | .vslideUp o => some (o, [o.d, o.s1], fun n i =>
      if distance s o.b ≤ i then some (s.elem o.s1.toNat n (i - distance s o.b)) else none)
  | .vslideDn o => some (o, [o.d, o.s1], fun n i =>
      some (if i + distance s o.b < s.vl then s.elem o.s1.toNat n (i + distance s o.b) else 0))
  | _ => none

/-- Counts over the bits of a k register (R401): the result. -/
def countRow (s : State) : Instr → Option (VecUn × Word)
  | .vpopc o => some (o, BitVec.ofNat 64 ((actList s o.m).filter (fun i => (s.k o.s1.toNat).getLsbD i)).length)
  | .vfirst o => some (o, match (actList s o.m).find? (fun i => (s.k o.s1.toNat).getLsbD i) with
      | some i => BitVec.ofNat 64 i
      | none => BitVec.allOnes 64)
  | _ => none

/-! ### Floating point -/

/-- Forms of group VF with a vector destination: their operands d, s1, b and s3 (where there is one), et, mask, and rm
where the form rounds; and the result and flags of codes a, b and c (R392 to R394, R396). -/
structure VfRow where
  d : Reg
  s1 : Reg
  b : Option Src
  s3 : Option Reg
  rm : Option (BitVec 3)
  et : BitVec 3
  m : MaskSel
  f : Nat → FloatFmt → Nat → Nat → Nat → Nat → Nat × Nat

def VfRow.two (o : FltOp) (rounds : Bool) (f : FloatFmt → Nat → Nat → Nat → Nat × Nat) : VfRow :=
  { d := o.d, s1 := o.s1, b := some o.b, s3 := none, rm := if rounds then some o.rm else none, et := o.et, m := o.m,
    f := fun _ g rm a b _ => f g rm a b }
def VfRow.three (o : FltOp) (f : FloatFmt → Nat → Nat → Nat → Nat → Nat × Nat) : VfRow :=
  { d := o.d, s1 := o.s1, b := some o.b, s3 := some o.s3, rm := some o.rm, et := o.et, m := o.m,
    f := fun _ g rm a b c => f g rm a b c }
def VfRow.one (o : FltUn) (rounds : Bool) (f : Nat → FloatFmt → Nat → Nat → Nat × Nat) : VfRow :=
  { d := o.d, s1 := o.s1, b := none, s3 := none, rm := if rounds then some o.rm else none, et := o.et, m := o.m,
    f := fun k g rm a _ _ => f k g rm a }

def vfRow : Instr → Option VfRow
  | .vfadd o => some (.two o true (fun g rm a b => finishOp g rm (addNum rm (g.value a) (g.value b))))
  | .vfsub o => some (.two o true (fun g rm a b => finishOp g rm (addNum rm (g.value a) (g.value b).neg)))
  | .vfmul o => some (.two o true (fun g rm a b => finishOp g rm (mulNum (g.value a) (g.value b))))
  | .vfdiv o => some (.two o true (fun g rm a b => finishOp g rm (divNum g (g.value a) (g.value b))))
  | .vfma o => some (.three o (fFused false false))
  | .vfms o => some (.three o (fFused false true))
  | .vfnma o => some (.three o (fFused true true))
  | .vfnms o => some (.three o (fFused true false))
  | .vfmin o => some (.two o false (fun g _ => fMinMax false g))
  | .vfmax o => some (.two o false (fun g _ => fMinMax true g))
  | .vfsqrt o => some (.one o true (fun _ g rm a => finishOp g rm (sqrtNum g (g.value a))))
  | .vfsgnj o => some (.two o false (fun g _ => fSign (fun _ b => b) g))
  | .vfsgnjn o => some (.two o false (fun g _ => fSign (fun _ b => !b) g))
  | .vfsgnjx o => some (.two o false (fun g _ => fSign (fun a b => a != b) g))
  | .vfrcp o => some (.one o false (fun k g _ => fRcp k g))
  | .vfrsq o => some (.one o false (fun k g _ => fRsq k g))
  | .vfexp2 o => some (.one o false (fun k g _ => fExp2 k g))
  | .vflog2 o => some (.one o false (fun k g _ => fLog2 k g))
  | .vfsin o => some (.one o false (fun k g _ => fSinCos false k g))
  | .vfcos o => some (.one o false (fun k g _ => fSinCos true k g))
  | .vfclass o => some (.one o false (fun _ g _ a => (fClass g a, 0)))
  | _ => none

/-- The tiles that such a form reads and writes. -/
def VfRow.tiles (r : VfRow) : List Reg :=
  [r.d, r.s1] ++ (match r.b with | some b => Src.tiles b | none => []) ++ (match r.s3 with | some x => [x] | none => [])

/-- Result and flags of element i. -/
def VfRow.elem (r : VfRow) (s : State) (i : Nat) : Nat × Nat :=
  let ty := fltType s.me.vty r.et
  r.f ty.fmt (fmtOf ty.fmt) (match r.rm with | some m => s.roundMode m | none => 0) (s.elem r.s1.toNat ty.sew i)
    (match r.b with | some b => s.srcB b ty.sew i | none => 0) (match r.s3 with | some x => s.elem x.toNat ty.sew i | none => 0)

/-- Compares (R395): the relation of two numbers, its value where one is NaN, and whether a quiet NaN raises NV. -/
def vfCmpRow : Instr → Option (FltOp × (Rat → Rat → Bool) × Bool × Bool)
  | .vfcmpEq o => some (o, fun a b => decide (a = b), false, false)
  | .vfcmpNe o => some (o, fun a b => decide (a ≠ b), true, false)
  | .vfcmpLt o => some (o, fun a b => decide (a < b), false, true)
  | .vfcmpLe o => some (o, fun a b => decide (a ≤ b), false, true)
  | .vfcmpGt o => some (o, fun a b => decide (b < a), false, true)
  | .vfcmpGe o => some (o, fun a b => decide (b ≤ a), false, true)
  | _ => none

/-- A number for comparing: infinities lie beyond every value of the format. -/
def ordinal (v : Machine.Num) : Rat := match v with
  | .nan _ => 0
  | .inf n => if n then -(2 ^ 2048 : Nat) else (2 ^ 2048 : Nat)
  | .fin n m e => ((signedInt n m : Int) : Rat) * (if 0 ≤ e then ((2 ^ e.toNat : Nat) : Rat) else 1 / ((2 ^ (-e).toNat : Nat) : Rat))

/-- A compare's truth and flags from two values. -/
def vfCmp (rel : Rat → Rat → Bool) (un loud : Bool) (a b : Machine.Num) : Bool × Nat :=
  if a.isNan || b.isNan then (un, if loud || a = .nan true || b = .nan true then 16 else 0) else (rel (ordinal a) (ordinal b), 0)

/-- Reductions and scans of group VF (R402): the operands, and rm where it rounds. -/
def vfRedRow : Instr → Option (FltUn × Bool)
  | .vfredSum o => some (o, true)
  | .vfredMin o => some (o, false)
  | .vfredMax o => some (o, false)
  | .vfscanSum o => some (o, true)
  | _ => none

/-- Results and flags: element 0 of a reduction, and every active element of a scan. -/
def vfRedResult (s : State) (i : Instr) : List (Nat × Nat) × Nat := match i with
  | .vfredSum o =>
    let ty := fltType s.me.vty o.et
    let f := fmtOf ty.fmt
    let t := treeSum f (s.roundMode o.rm) (Nat.log2 (s.vlmaxAt ty.sew)) ((List.range (s.vlmaxAt ty.sew)).map (fun i =>
      if acts s o.m i then some (s.elem o.s1.toNat ty.sew i) else none))
    match t.1 with
    | some v => ([(0, (fPass f v).1)], t.2 ||| (fPass f v).2)
    | none => ([(0, 0)], t.2)
  | .vfredMin o =>
    let ty := fltType s.me.vty o.et
    let r := minMaxAll false (fmtOf ty.fmt) ((actList s o.m).map (fun i => s.elem o.s1.toNat ty.sew i))
    ([(0, r.1)], r.2)
  | .vfredMax o =>
    let ty := fltType s.me.vty o.et
    let r := minMaxAll true (fmtOf ty.fmt) ((actList s o.m).map (fun i => s.elem o.s1.toNat ty.sew i))
    ([(0, r.1)], r.2)
  | .vfscanSum o =>
    let ty := fltType s.me.vty o.et
    runningSums (fmtOf ty.fmt) (s.roundMode o.rm) none ((actList s o.m).map (fun i => (i, s.elem o.s1.toNat ty.sew i)))
  | _ => ([], 0)

/-- Where the tail of such a form starts, and whether the mask rule applies. -/
def vfRedTail (s : State) : Instr → Nat × Bool
  | .vfscanSum _ => (s.vl, true)
  | _ => (1, false)

/-! ### Atomics -/

/-- Scalar AMOs (R313, R314): the width in bytes, and what is written, given the operand b, X[s3], and the old value: none
where nothing is written. -/
def amoRow : Instr → Option (AmoOp × Nat × (Nat → Nat → Nat → Option Nat))
  | .amoaddW o => some (o, 4, fun b _ old => some (md 32 (old + b)))
  | .amoandW o => some (o, 4, fun b _ old => some (old &&& b))
  | .amoorW o => some (o, 4, fun b _ old => some (old ||| b))
  | .amoxorW o => some (o, 4, fun b _ old => some (old ^^^ b))
  | .amoswapW o => some (o, 4, fun b _ _ => some b)
  | .amominW o => some (o, 4, fun b _ old => some (md 32 (min (sg 32 old) (sg 32 b))))
  | .amomaxW o => some (o, 4, fun b _ old => some (md 32 (max (sg 32 old) (sg 32 b))))
  | .amominuW o => some (o, 4, fun b _ old => some (min old b))
  | .amomaxuW o => some (o, 4, fun b _ old => some (max old b))
  | .amocasW o => some (o, 4, fun b c old => if old = b then some c else none)
  | .amoaddD o => some (o, 8, fun b _ old => some (md 64 (old + b)))
  | .amoandD o => some (o, 8, fun b _ old => some (old &&& b))
  | .amoorD o => some (o, 8, fun b _ old => some (old ||| b))
  | .amoxorD o => some (o, 8, fun b _ old => some (old ^^^ b))
  | .amoswapD o => some (o, 8, fun b _ _ => some b)
  | .amominD o => some (o, 8, fun b _ old => some (md 64 (min (sg 64 old) (sg 64 b))))
  | .amomaxD o => some (o, 8, fun b _ old => some (md 64 (max (sg 64 old) (sg 64 b))))
  | .amominuD o => some (o, 8, fun b _ old => some (min old b))
  | .amomaxuD o => some (o, 8, fun b _ old => some (max old b))
  | .amocasD o => some (o, 8, fun b c old => if old = b then some c else none)
  | _ => none

/-- VAMOs (R383): as above, with vd's element where a scalar form has X[s3]. -/
def vamoRow : Instr → Option (VAmoOp × Nat × (Nat → Nat → Nat → Option Nat))
  | .vamoaddW o => some (o, 4, fun b _ old => some (md 32 (old + b)))
  | .vamoandW o => some (o, 4, fun b _ old => some (old &&& b))
  | .vamoorW o => some (o, 4, fun b _ old => some (old ||| b))
  | .vamoxorW o => some (o, 4, fun b _ old => some (old ^^^ b))
  | .vamoswapW o => some (o, 4, fun b _ _ => some b)
  | .vamominW o => some (o, 4, fun b _ old => some (md 32 (min (sg 32 old) (sg 32 b))))
  | .vamomaxW o => some (o, 4, fun b _ old => some (md 32 (max (sg 32 old) (sg 32 b))))
  | .vamominuW o => some (o, 4, fun b _ old => some (min old b))
  | .vamomaxuW o => some (o, 4, fun b _ old => some (max old b))
  | .vamocasW o => some (o, 4, fun b c old => if old = c then some b else none)
  | .vamoaddD o => some (o, 8, fun b _ old => some (md 64 (old + b)))
  | .vamoandD o => some (o, 8, fun b _ old => some (old &&& b))
  | .vamoorD o => some (o, 8, fun b _ old => some (old ||| b))
  | .vamoxorD o => some (o, 8, fun b _ old => some (old ^^^ b))
  | .vamoswapD o => some (o, 8, fun b _ _ => some b)
  | .vamominD o => some (o, 8, fun b _ old => some (md 64 (min (sg 64 old) (sg 64 b))))
  | .vamomaxD o => some (o, 8, fun b _ old => some (md 64 (max (sg 64 old) (sg 64 b))))
  | .vamominuD o => some (o, 8, fun b _ old => some (min old b))
  | .vamomaxuD o => some (o, 8, fun b _ old => some (max old b))
  | .vamocasD o => some (o, 8, fun b c old => if old = c then some b else none)
  | _ => none

/-- The element type of a VAMO of w bytes: integers of that width, whose tiles leave room for the scales of VTY's type (R109,
R383). -/
def atomType (s : State) (w : Nat) : ElTy := { fmt := 0, sew := 8 * w, blen := (vtyType s.me.vty).blen, ovr := true }

/-- The access of a scalar AMO of w bytes through what its operand names. -/
def amoAcc (s : State) (o : AmoOp) (w : Nat) (m : Via) : Acc :=
  { accVia s.turn.core m (s.x o.s1) w .amo 0 with
    mis := decide ((accVia s.turn.core m (s.x o.s1) w .amo 0).ea.toNat % w ≠ 0), scalar := true, guarded := true }

/-! ### Vector memory -/

/-- Vector loads (R403, R405): where the elements lie, and whether the load is chained. -/
def vldRow : Instr → Option (MemOp × Pattern × Bool)
  | .vld o => some (o, .unit, false)
  | .vlds o => some (o, .stride o.s2, false)
  | .vldx o => some (o, .index o.s2, false)
  | .vldCh o => some (o, .unit, true)
  | _ => none

/-- Vector stores (R410). -/
def vstRow : Instr → Option (MemOp × Pattern)
  | .vst o => some (o, .unit)
  | .vsts o => some (o, .stride o.s2)
  | .vstx o => some (o, .index o.s2)
  | _ => none

/-- The tiles of such a form. -/
def memTiles (o : MemOp) : Pattern → List Reg
  | .index r => [o.d, r]
  | _ => [o.d]

/-- An element memory form that changes nothing but what it loads completes: vector registers, FMASK (now 0), PC and wait. -/
def VecLoaded (s t : State) : Prop :=
  t.me = { s.me with v := t.me.v, fmask := 0, pc := s.pc + 8, wait := none } ∧ SameBytes s t
    ∧ Noted s { t with freeCnt := s.freeCnt }

/-- An element form has done its part for some elements and stops: it stays at its PC, no byte is published, and the
faulted-element mask marks exactly the elements that fault or park (R265, R377). -/
structure Partly (s u : State) (marked : Nat → Prop) : Prop where
  pc : u.pc = s.pc
  x : ∀ r, u.x r = s.x r
  mem : u.mem = s.mem
  marks : ∀ j < 65536, u.me.fmask.getLsbD j = true ↔ marked j

/-- The first of the active elements that faults is k, with trap c; f says what the checks of each come to (R264). -/
def FirstFault {α : Type} (s : State) (m : MaskSel) (f : Nat → Except Halt α) (k : Nat) (c : Trap) : Prop :=
  acts s m k = true ∧ f k = .error (.trap c) ∧ ∀ j < k, acts s m j = true → ∀ d, f j ≠ .error (.trap d)

/-- None of the active elements faults, and some park. -/
def OnlyParks {α : Type} (s : State) (m : MaskSel) (f : Nat → Except Halt α) : Prop :=
  (∀ j, acts s m j = true → ∀ d, f j ≠ .error (.trap d)) ∧ ∃ j bs, acts s m j = true ∧ f j = .error (.park bs)

/-- An element stops: it faults, it parks, or it is one of a unit-stride load that parks as a whole (R246). -/
def stops {α : Type} (s : State) (m : MaskSel) (f : Nat → Except Halt α) (whole : Bool) (j : Nat) : Prop :=
  acts s m j = true ∧ ((∃ h, f j = .error h) ∨ (whole = true ∧ ∃ i bs, acts s m i = true ∧ f i = .error (.park bs)))

/-- Half-byte h of memory as the acting context reads it; byte l is half-bytes 2l and 2l + 1. -/
def nibble (s : State) (h : Nat) : Nat := (s.byte (h / 2)).toNat / 16 ^ (h % 2) % 16
/-- The first half-byte of an element of n bits at a place (R376). -/
def firstHalf (loc n i : Nat) : Nat := 2 * loc + (if n = 4 then i % 2 else 0)
/-- The element of n bits at a place holds half-byte h. -/
def holdsHalf (loc n i h : Nat) : Prop := firstHalf loc n i ≤ h ∧ h < firstHalf loc n i + n / 4

/-- The byte at l after writes in order, given what it was. -/
def lastWrite (ws : Table Byte) (l : Nat) (old : Byte) : Byte := ((ws.reverse.find? (fun b => b.1 = l)).map (·.2)).getD old

/-- The writes of some bytes to places one after another. -/
def writesTo (ts : List (Target × Nat)) (bytes : List Byte) : Table Byte := layBytes (ts.map (fun p => (p.1.loc, p.2))) bytes

/-! ### Matrix forms -/

/-- The accumulator tile at register d after products (R199): element n of row m has the dot product of row operand m and
column operand n added, and all else keeps its value. -/
structure MxAfter (s t : State) (d fmt blen : Nat) (rows : List (Nat × Operand)) (cols : List Operand) : Prop where
  acc : ∀ r ∈ rows, ∀ n c, cols[n]? = some c →
    t.elem (d + r.1) 32 n = (mxDot fmt blen r.2 c (s.elem (d + r.1) 32 n)).1 % 2 ^ 32
  rest : ∀ r n, n < s.rcap 32 → (∀ x ∈ rows, d + x.1 = r → cols.length ≤ n) → t.elem r 32 n = s.elem r 32 n
  flags : t.me.vfcsr = s.me.vfcsr ||| BitVec.ofNat 64 (orAll (rows.flatMap (fun r => (cols.zip (List.range cols.length)).map
    (fun c => (mxDot fmt blen r.2 c.1 (s.elem (d + r.1) 32 c.2)).2))) % 32)

/-- A form whose type comes from a tensor entry executes (R82). -/
def EntryOk (s : State) (tiles : List Reg) : Prop := VecOk s { fmt := 0, sew := 8, blen := 0, ovr := false } True tiles none

/-- In a ring, the instance's worker alone runs the matrix forms, and no product outruns a step (R202, R205). -/
def RingFree (s : State) : Prop := s.myCore.ringSize ≠ 0 → ringWorker s = true ∧ s.myCore.mc = s.myCore.sc

/-- What a matrix form that takes entry e needs of it before it waits for its ring (R202, R203, R204, R208): its tiles, the
number of the entry, and the condition on it. -/
def mxForm (s : State) : Instr → Option (List Reg × BitVec 6 × (Tid → Prop))
  | .mldb tn s1 => some ([], tn, fun e => tV e = true ∧ tLayout e = 0 ∧ 3 ≤ tFmt e ∧ 0 < s.vl ∧ s.vl ≤ 64
      ∧ tDim e 0 = kelOf (tSew e) ∧ s.vl ≤ tDim e 1 ∧ (s.x s1).toNat < tDim e 2)
  | .mmr d tn => some ([d], tn, fun e => s.myCore.ringSize ≠ 0 ∧ tV e = true ∧ tLayout e = 0)
  | .mconv d tn s1 => some ([d], tn, fun e => tV e = true ∧ tLayout e = 1 ∧ bitsOf (s.x s1) 63 56 = 0 ∧ bitsOf (s.x s1) 55 48 < tDim e 3)
  | _ => none
/-- What MMR and MCONV need of the latch once the ring lets them go on (R204, R208). -/
def mxLatchOk (s : State) (e : Tid) : Instr → Prop
  | .mldb _ _ => True
  | .mmr _ _ => s.myCore.latch.full = true ∧ s.vl = s.myCore.latch.nl ∧ s.vl ≤ 64 ∧ sameType e s.myCore.latch = true
      ∧ s.gf ≤ tDim e 1 ∧ (s.myCore.latch.kt + 1) * kelOf (tSew e) ≤ tDim e 0
  | _ => s.myCore.latch.full = true ∧ s.vl = s.myCore.latch.nl ∧ s.vl ≤ 64 ∧ sameType e s.myCore.latch = true
      ∧ (s.myCore.latch.kt + 1) * kelOf (tSew e) ≤ tDim e 0

/-- The rows of MCONV's tile that lie inside the tensor, each with its coordinate, and the row of dimension 2 (R208). -/
def convRows (s : State) (e : Tid) (w : Word) : List (Nat × Int) × Int :=
  let y : Int := ((bitsOf w 31 16 + bitsOf w 47 40 * (tDil2 e + 1) : Nat) : Int) - (tPad2 e : Int)
  (((List.range s.gf).map (fun m => (m, ((bitsOf w 15 0 + m + bitsOf w 39 32 * (tDil1 e + 1) : Nat) : Int) - (tPad1 e : Int)))).filter
    (fun p => decide (0 ≤ p.2) && decide (p.2 < (tDim e 1 : Int)) && decide (0 ≤ y) && decide (y < (tDim e 2 : Int))), y)

/-- The rows that a matrix form reads, each by the index of its first code. -/
def mxWants (s : State) (e : Tid) : Instr → List (Nat × Nat × Nat × Nat)
  | .mldb _ s1 => (List.range s.vl).map (fun n => (0, n, (s.x s1).toNat, 0))
  | .mmr _ _ => (List.range s.gf).map (fun m => (s.myCore.latch.kt * kelOf (tSew e), m, 0, 0))
  | .mconv _ _ s1 => (convRows s e (s.x s1)).1.map (fun p =>
      (s.myCore.latch.kt * kelOf (tSew e), p.2.toNat, (convRows s e (s.x s1)).2.toNat, bitsOf (s.x s1) 55 48))
  | _ => []

/-- A matrix form completes: of the whole machine only the acting context's vector registers, VFCSR, PC and wait differ from
the state that has made its reads. -/
def MxFrame (r t : State) : Prop := t = r.setMe { r.me with v := t.me.v, vfcsr := t.me.vfcsr, pc := r.pc + 8, wait := none }

/-- What MSTC stores: for each row its codes, its scale bytes and its flags, in the type that its et names with blocks of the
entry's length (R110, R207); and where they go and what they are, row by row, codes before scales. -/
def mstcRows (s : State) (vs : Reg) (et rm : BitVec 3) (e : Tid) : List (Nat × List Byte × List Byte × Nat) :=
  (List.range s.gf).map (fun m => (m, mstcRow s { fltType s.me.vty et with blen := tBlen e } (s.roundMode rm) (vs.toNat + m)))
/-- The accesses of a row's n bytes from the address that f gives. -/
def mstcPieces (f : Nat → Nat → Nat → Nat → Word) (w : Word) (m n : Nat) : List Acc :=
  mxPieces (f (bitsOf w 15 0) (bitsOf w 31 16 + m) (bitsOf w 47 32) (bitsOf w 63 48)) n .store
/-- The writes of rows from the places of all codes and of all scales. -/
def mstcWrites (e : Tid) (w : Word) : List (Nat × List Byte × List Byte × Nat) → List (Target × Nat) → List (Target × Nat) → Table Byte
  | [], _, _ => []
  | r :: rs, cs, ss =>
    let a := (mstcPieces (tData e) w r.1 r.2.1.length).length
    let b := (mstcPieces (tScale e) w r.1 r.2.2.1.length).length
    writesTo (cs.take a) r.2.1 ++ writesTo (ss.take b) r.2.2.1 ++ mstcWrites e w rs (cs.drop a) (ss.drop b)

/-! ### Graphics element forms -/

/-- VTY is what such a form needs (R225, R230): FP32, SEW 32, one row, and VL within it (as SETVL leaves it). -/
def RayOk (s : State) : Prop :=
  vtyIll s.me.vty = false ∧ vtyFmt s.me.vty = 2 ∧ vtySew s.me.vty = 32 ∧ s.gf = 1 ∧ s.vl ≤ s.rcap 32

/-- Registers d to d + n − 1 after such a form: component j of an active element's result lies in register d + j, where the
spec states it. -/
structure ColumnsAfter (s t : State) (d n : Nat) (m : MaskSel) (res : Nat → List (Option Nat)) : Prop where
  results : ∀ i j c, acts s m i = true → j < n → (res i)[j]? = some (some c) → t.elem (d + j) 32 i = c % 2 ^ 32
  others : ∀ i j, i < s.vl → acts s m i = false → j < n → t.elem (d + j) 32 i = s.elem (d + j) 32 i
    ∨ (loose s 32 (fun x => !selects s m x) s.vl i ∧ t.elem (d + j) 32 i = 2 ^ 32 - 1)
  rows : ∀ r, (r < d ∨ d + n ≤ r) → t.v r = s.v r

/-- VBOX and VTRI (R386, R412): destination, sources, mask, how many registers each takes, and the result. -/
def rayRow (s : State) : Instr → Option (Reg × Reg × Reg × MaskSel × Nat × Nat × (Nat → List (Option Nat)))
  | .vbox d s1 s2 m => some (d, s1, s2, m, 1, 6, fun i => [vboxResult (rayAt s s1.toNat i) (s.column s2.toNat 6 i)])
  | .vtri d s1 s2 m => some (d, s1, s2, m, 3, 9, fun i =>
      match triTest (rayAt s s1.toNat i) (s.column s2.toNat 9 i) with
      | .miss => [some 0x7F800000, some 0, some 0]
      | .hit t u v _ => [some t, some u, some v]
      | .inside _ _ _ => [])
  | _ => none

/-- Texture forms (R370): destination, coordinates, descriptor, mask, the form's own limit, and the plan of an element. -/
def texRow (s : State) : Instr → Option (Reg × Reg × BitVec 8 × MaskSel × Bool × (TexDesc → Nat → Option Plan))
  | .tex d s1 s2 n m => some (d, s1, n, m, decide (s.vl % 4 = 0), fun desc i =>
      some (planOf desc (s.elem s1.toNat 32 i) (s.elem (s1.toNat + 1) 32 i) (quadLod s s1 (s.elem s2.toNat 32 i) desc i)))
  | .texGrad d s1 s2 n m => some (d, s1, n, m, decide (s2.toNat ≤ 28), fun desc i =>
      some (planOf desc (s.elem s1.toNat 32 i) (s.elem (s1.toNat + 1) 32 i)
        (lodFrom desc (derivOf (s.elem s2.toNat 32 i)) (derivOf (s.elem (s2.toNat + 1) 32 i)) (derivOf (s.elem (s2.toNat + 2) 32 i))
          (derivOf (s.elem (s2.toNat + 3) 32 i)) 0)))
  | .texLod d s1 s2 n m => some (d, s1, n, m, true, fun desc i =>
      some (planOf desc (s.elem s1.toNat 32 i) (s.elem (s1.toNat + 1) 32 i) (lodGiven (s.elem s2.toNat 32 i))))
  | .txld d s1 s2 n m => some (d, s1, n, m, true, fun desc i => txldPlan s s1 s2 desc i)
  | _ => none

/-- The four channels of an element, from the texels that a plan reads; no plan reads as zeros. -/
def texValue (s : State) (desc : TexDesc) (reads : List (Word × Target × Nat)) : Option Plan → List (Option Nat)
  | some p => planValue desc (loadAt s s.me.pend reads) p
  | none => List.replicate 4 (some 0)

/-- The offer that TCOMMIT makes (R234, R362). -/
def offerOf (s : State) (s1 : Reg) (m : MaskSel) (w : Word) (tg : Target) (room : Nat) : TileOffer :=
  { hdr := tg.loc, addr := gva (commitAddr w), ticket := bitsOf w 63 52, last := bitOf w 51, sew := vtySew s.me.vty,
    mask := (s.maskSel m).setWidth 64, colours := (List.range 64).map (s.elem s1.toNat (vtySew s.me.vty)), task := s.taskId, room := room }

/-- Invalidations (R277): what a translation must match to go. -/
def invRow (s : State) : Instr → Option (TlbEntry → Bool)
  | .tlbinv s1 s2 => some (fun e => decide (e.colour = (s.x s2).toNat % 2 ^ 16)
      && decide (e.page ≤ (s.x s1).toNat % 2 ^ 57) && decide ((s.x s1).toNat % 2 ^ 57 < e.page + e.size))
  | .tlbinvCol _ s2 => some (fun e => decide (e.colour = (s.x s2).toNat % 2 ^ 16))
  | _ => none

/-- Commands of the S-mode trap log (R423): the slot, the command word, and whether it kills. -/
def logRow : Instr → Option (Nat × Nat × Bool)
  | .stlResume n => some (n.toNat, n.toNat, false)
  | .stlKill n => some (n.toNat, n.toNat + 256, true)
  | _ => none

/-- A form that depends on VTY, with its type, what it asks of the type, its tile registers and its rounding mode (R82). -/
inductive NeedsVty (s : State) : Instr → ElTy → Prop → List Reg → Option (BitVec 3) → Prop
  | int {i o f lim} : viRow i = some (o, f, lim) →
      NeedsVty s i (intType s.me.vty o.et) (8 ≤ (intType s.me.vty o.et).sew) ([o.d, o.s1] ++ Src.tiles o.b) none
  | intCmp {i o f} : viCmpRow i = some (o, f) →
      NeedsVty s i (intType s.me.vty o.et) (8 ≤ (intType s.me.vty o.et).sew) ([o.s1] ++ Src.tiles o.b) none
  | intRed {i o c e f} : viRedRow i = some (o, c, e, f) →
      NeedsVty s i (intType s.me.vty o.et) (8 ≤ (intType s.me.vty o.et).sew) [o.d, o.s1] none
  | perm {i o tiles f} : permRow s i = some (o, tiles, f) → NeedsVty s i (intType s.me.vty o.et) (8 ≤ (intType s.me.vty o.et).sew) tiles none
  | cmprs (o : VecUn) : NeedsVty s (.vcmprs o) (intType s.me.vty o.et) (8 ≤ (intType s.me.vty o.et).sew) [o.d, o.s1] none
  | count {i o w} : countRow s i = some (o, w) → NeedsVty s i (intType s.me.vty o.et) (8 ≤ (intType s.me.vty o.et).sew) [] none
  | extract (o : VecOp) : NeedsVty s (.vmvxs o) (intType s.me.vty o.et) (8 ≤ (intType s.me.vty o.et).sew) [o.s1] none
  | flt {i r} : vfRow i = some r →
      NeedsVty s i (fltType s.me.vty r.et) (1 ≤ (fltType s.me.vty r.et).fmt ∧ (fltType s.me.vty r.et).fmt ≤ 4) r.tiles r.rm
  | fltCmp {i o rel un loud} : vfCmpRow i = some (o, rel, un, loud) →
      NeedsVty s i (fltType s.me.vty o.et) (1 ≤ (fltType s.me.vty o.et).fmt ∧ (fltType s.me.vty o.et).fmt ≤ 4) ([o.s1] ++ Src.tiles o.b) none
  | fltRed {i o rounds} : vfRedRow i = some (o, rounds) →
      NeedsVty s i (fltType s.me.vty o.et) (1 ≤ (fltType s.me.vty o.et).fmt ∧ (fltType s.me.vty o.et).fmt ≤ 4) [o.d, o.s1]
        (if rounds then some o.rm else none)
  | load {i o p ch} : vldRow i = some (o, p, ch) →
      NeedsVty s i (memType s.me.vty o.et) (p = .unit ∨ (memType s.me.vty o.et).sew ≠ 4) (memTiles o p) none
  | store {i o p} : vstRow i = some (o, p) →
      NeedsVty s i (memType s.me.vty o.et) (p = .unit ∨ (memType s.me.vty o.et).sew ≠ 4) (memTiles o p) none
  | atomic {i o w new} : vamoRow i = some (o, w, new) →
      NeedsVty s i (atomType s w) True [o.d, o.s2, o.s3] none
  | mma (d s1 s2 : Reg) : NeedsVty s (.mma d s1 s2) { vtyType s.me.vty with blen := 0 } (3 ≤ vtyFmt s.me.vty) [d, s1, s2] none
  | mldb (tn : BitVec 6) (s1 : Reg) : NeedsVty s (.mldb tn s1) { fmt := 0, sew := 8, blen := 0, ovr := false } True [] none
  | mmr (d : Reg) (tn : BitVec 6) : NeedsVty s (.mmr d tn) { fmt := 0, sew := 8, blen := 0, ovr := false } True [d] none
  | mconv (d : Reg) (tn : BitVec 6) (s1 : Reg) : NeedsVty s (.mconv d tn s1) { fmt := 0, sew := 8, blen := 0, ovr := false } True [d] none
  | mstc (vs : Reg) (tn : BitVec 6) (s1 : Reg) (et rm : BitVec 3) :
      NeedsVty s (.mstc vs tn s1 et rm) { fltType s.me.vty et with blen := 0 } ((fltType s.me.vty et).fmt ≠ 0) [vs] (some rm)

/-! ### Events -/

/-- Of the machine only the tables of the queues and launches differ, and the registers of the launch ring. -/
def LaunchFrame (s t : State) : Prop := t = { s with sched := t.sched, bar0 := t.bar0 }

/-- Memory has been read: cache copies, translations, leases, and the poison of what fails its check are all that may differ
(R134, R136, R146, R276, R287). -/
def Looked (s t : State) : Prop :=
  t = { s with cores := t.cores, clusters := t.clusters, slices := t.slices, l2Due := t.l2Due, narrow := t.narrow, poison := t.poison,
               badCheck := t.badCheck, mgmt := { s.mgmt with leased := t.mgmt.leased } }

/-- LRHEAD has moved past a record. -/
def Passed (s t : State) : Prop := t.bar0.lrhead.toNat = (s.bar0.lrhead.toNat + 1) % 2 ^ 32

/-- The entries that a steal probe takes: half of those that match, oldest first (R180). -/
def stolen (es : List QEntry) : List QEntry := es.take ((es.length + 1) / 2)

/-- A task of a partition has been dispatched to it. -/
def Dispatched (t : State) (core part id : Nat) : Prop :=
  (t.partAt core part).task = some id ∧ (t.taskAt id).state = .dispatched ∧ (t.taskAt id).core = core ∧ (t.taskAt id).part = part

/-- What R29 says of a task that starts on a partition: PC, x2 and x10 to x12 from the header, every other register 0,
VTY.ILL 1, no tail context, and a zero tail frame guard. -/
def Started (t : State) (core part : Nat) (h : Header) : Prop :=
  let c := t.ctx { core := core, part := part, tail := false }
  let w := fun (r : Nat) => Table.get (0 : Word) c.x r
  c.valid = true ∧ c.pc.toNat = hEntry h ∧ (w 2).toNat = hFtop h ∧ (w 10).toNat = hArg h 0 ∧ (w 11).toNat = hArg h 1 ∧ (w 12).toNat = hArg h 2
    ∧ (∀ r, r ≠ 2 → r ≠ 10 → r ≠ 11 → r ≠ 12 → w r = 0)
    ∧ { c with pc := 0, x := [], valid := false } = Ctx.empty
    ∧ t.ctx { core := core, part := part, tail := true } = Ctx.empty
    ∧ (t.partAt core part).tfg = Tfg.zero ∧ (t.partAt core part).reserved = none

/-- What a request has written can be published: no sector refuses it, no atomic task would abort, and a scratchpad that it
wrote still has the request’s colour (R33, R146, R192). -/
structure CanPublish (s : State) (m : Msg) : Prop where
  clean : admitted s m.pend = m.pend
  calm : Calm s
  spads : ∀ b ∈ m.pend, ∀ c, homeOfLoc b.1 = .scratch c → (s.core c).colour = some m.colour

/-- Each ray that is left of a request ends without an error and without spilling, and its hit record can be written: the
walk of each and the places of its record. -/
def RaysEnd (s : State) (m : Msg) : List (Walk × List (Target × Nat)) → Prop
  | [] => CanPublish s m
  | (w, ts) :: rest =>
    let r := { noteReads s m w.read with freeCnt := w.cnt }
    traceRay s m m.done = (w, .over) ∧ w.deep ≤ 16
      ∧ storePieces r m (sectorPieces (BitVec.ofNat 64 (m.w2.toNat + 32 * m.done)).toNat 32) = .ok ts
      ∧ RaysEnd (ts.foldl noteWrite (noteWalks r m (BitVec.ofNat 64 (m.w2.toNat + 32 * m.done)) 32)) { m.wrote (writesTo ts (bytesOf 32 (hitRecord w.best 0))) with done := m.done + 1 } rest

/-- Each entry that is left of a request can be read, and its results written: the bytes of each and their places. -/
def EntriesEnd (desc : TexDesc) (s : State) (m : Msg) : List (List Byte × List (Target × Nat)) → Prop
  | [] => CanPublish s m
  | (bs, ts) :: rest => ∃ u, sampleEntry s m desc = .ok (bs, u)
      ∧ storePieces u m (sectorPieces (BitVec.ofNat 64 (m.w2.toNat + 16 * m.done)).toNat 16) = .ok ts
      ∧ EntriesEnd desc (ts.foldl noteWrite (noteWalks u m (BitVec.ofNat 64 (m.w2.toNat + 16 * m.done)) 16)) { m.wrote (writesTo ts bs) with done := m.done + 1 } rest

/-- What the commit unit has written to the tile at a place and not published lies within the tile's n bytes, in order. -/
structure Unretired (s : State) (hdr n : Nat) : Prop where
  tiles : s.blends.Pairwise (fun a b => a.1 < b.1)
  order : (Table.get [] s.blends hdr).Pairwise (fun a b => a.1 < b.1)
  inside : ∀ b ∈ Table.get [] s.blends hdr, within hdr n b.1

/-- A task that starts keeps what its entry says of it: header, colour, launch. -/
def TaskIs (t : State) (id : Nat) (h : Header) (colour launch : Nat) : Prop :=
  (t.taskAt id).header = h ∧ (t.taskAt id).colour = colour ∧ (t.taskAt id).launch = launch ∧ (t.taskAt id).gang = 0

/-! ### Memory, coherence and tables -/

/-- No L1D holds a grain of the line, and no L2 set lists it. -/
def NotCached (t : State) (line : Nat) : Prop :=
  (∀ n, ∀ g ∈ (t.core n).l1d, ∀ i < 4, l1Holds g (line * 128 + 32 * i) = false)
    ∧ ∀ g ∈ (t.slice (sliceOf (line * 128))).sets, ∀ x ∈ g.2, x.line ≠ line

/-- No translation that was made from the line is left (R293). -/
def NoWalkOf (t : State) (line : Nat) : Prop :=
  (∀ n, ∀ e ∈ (t.core n).tlb, line ∉ e.leased) ∧ ∀ n, ∀ e ∈ (t.cluster n).tlb, line ∉ e.leased

/-- No instruction cache holds the line. -/
def NoCode (t : State) (line : Nat) : Prop := ∀ n, ∀ e ∈ (t.core n).l1i, e.1 ≠ line

/-- The entry of a line that something has given back is d, unless nothing holds the line any more and no agent of this
device has writes of it to publish (log 59): then the device that has waited longest owns it (R288, R290). -/
def Granted (t : State) (line : Nat) (d : DirEntry) : Prop := ∃ e, dirOf t line = some e
  ∧ ((d.waiting = [] ∨ 0 < d.nlease ∨ d.rown = true ∨ d.olost = true ∨ d.hostc = true ∨ unpublished t line = true) → e = d)
  ∧ (∀ dev ds, d.waiting = dev :: ds → d.nlease = 0 → d.rown = false → d.olost = false → d.hostc = false → unpublished t line = false →
      e.rown = true ∧ e.rdev0 = some dev ∧ e.nlease = 0)

/-- A write that must wait has asked for lines and done nothing else. -/
def OnlyAsked (s t : State) : Prop := t = { s with slices := t.slices, mgmt := { s.mgmt with hostPending := t.mgmt.hostPending } }

/-- Byte i of some data. -/
def dataAt (data : List Byte) (i : Nat) : Byte := (data.drop i).headD 0

/-- The head of a set after an access of a line: the line, with its smallest encoding (R138). -/
def Resident (s t : State) (line : Nat) (dirty : Bool) : Prop :=
  ∃ rest, Table.get [] (t.slice (sliceOf (line * 128))).sets (setOf line)
    = { line := line, code := (encodeLine s line).1, sectors := (encodeLine s line).2, dirty := dirty } :: rest

/-- An entry of a table was written, or refused, and the write status says so (R298): value new where ok, else the old one. -/
def StatusIs (w : Word) (ok : Bool) (idx : Nat) : Prop := (bitOf w 0 = !ok) ∧ bitsOf w 31 16 = idx % 2 ^ 16

/-- The words of the adds, logic and compares: formats R and I, with the fields of their tables (R312, R317, R345, R360,
R361, R416). -/
def addWord : Instr → Option R32
  | .add d a b => some ⟨0b0000000, b, a, 0b000, d, 0b0110011⟩
  | .addw d a b => some ⟨0b0000000, b, a, 0b000, d, 0b0111011⟩
  | .sub d a b => some ⟨0b0100000, b, a, 0b000, d, 0b0110011⟩
  | .subw d a b => some ⟨0b0100000, b, a, 0b000, d, 0b0111011⟩
  | .slt d a b => some ⟨0b0000000, b, a, 0b010, d, 0b0110011⟩
  | .sltu d a b => some ⟨0b0000000, b, a, 0b011, d, 0b0110011⟩
  | .xor d a b => some ⟨0b0000000, b, a, 0b100, d, 0b0110011⟩
  | .or d a b => some ⟨0b0000000, b, a, 0b110, d, 0b0110011⟩
  | .and d a b => some ⟨0b0000000, b, a, 0b111, d, 0b0110011⟩
  | .addi d a i => some ⟨i.extractLsb' 5 7, i.extractLsb' 0 5, a, 0b000, d, 0b0010011⟩
  | .addiw d a i => some ⟨i.extractLsb' 5 7, i.extractLsb' 0 5, a, 0b000, d, 0b0011011⟩
  | .slti d a i => some ⟨i.extractLsb' 5 7, i.extractLsb' 0 5, a, 0b010, d, 0b0010011⟩
  | .sltiu d a i => some ⟨i.extractLsb' 5 7, i.extractLsb' 0 5, a, 0b011, d, 0b0010011⟩
  | .xori d a i => some ⟨i.extractLsb' 5 7, i.extractLsb' 0 5, a, 0b100, d, 0b0010011⟩
  | .ori d a i => some ⟨i.extractLsb' 5 7, i.extractLsb' 0 5, a, 0b110, d, 0b0010011⟩
  | .andi d a i => some ⟨i.extractLsb' 5 7, i.extractLsb' 0 5, a, 0b111, d, 0b0010011⟩
  | _ => none

/-- The words of the quotients and remainders: format R with funct7 0000001 (R324, R353). -/
def mulWord : Instr → Option R32
  | .div d a b => some ⟨0b0000001, b, a, 0b100, d, 0b0110011⟩
  | .divu d a b => some ⟨0b0000001, b, a, 0b101, d, 0b0110011⟩
  | .rem d a b => some ⟨0b0000001, b, a, 0b110, d, 0b0110011⟩
  | .remu d a b => some ⟨0b0000001, b, a, 0b111, d, 0b0110011⟩
  | .divw d a b => some ⟨0b0000001, b, a, 0b100, d, 0b0111011⟩
  | .divuw d a b => some ⟨0b0000001, b, a, 0b101, d, 0b0111011⟩
  | .remw d a b => some ⟨0b0000001, b, a, 0b110, d, 0b0111011⟩
  | .remuw d a b => some ⟨0b0000001, b, a, 0b111, d, 0b0111011⟩
  | _ => none

end Sys2Proof.Claims

open Sys2Proof Sys2Proof.Machine Sys2Proof.Claims

/-- ADD, SUB, AND, OR, XOR, SLT, SLTU, their immediate and W forms, LUI, AUIPC and the shifts complete in every state:
X[d] takes the value that the exact result gives, x0 keeps reading 0, PC moves by 4, and nothing else of the machine
changes. The words of the adds, logic and compares decode to them. (R312, R317, R345, R360, R361, R416) -/
def Obligations.ScalarArithmeticResults : Prop :=
  (∀ (i : Instr) (s : State) (d : Reg) (w : Word), addRow s i = some (d, w) → ∃ t, exec i s = .next t ∧ WritesX s t d w 4)
  ∧ (∀ (i : Instr) (s : State) (d : Reg) (w : Word), shiftRow s i = some (d, w) → ∃ t, exec i s = .next t ∧ WritesX s t d w 4)
  ∧ (∀ (i : Instr) (f : R32), addWord i = some f → decode (bytesOf 4 f.toWord.toNat) = .ok (i, []))

/-- Every form of MUL, DIV and REM completes in every state with the bits of the exact product, or the quotient or
remainder rounded toward zero; a divisor of 0 gives all ones or the dividend, and the overflow cases follow. Nothing
but X[d] and PC changes. The words of the quotients and remainders decode to them. (R324, R353) -/
def Obligations.MulDivResults : Prop :=
  (∀ (i : Instr) (s : State) (d : Reg) (w : Word), mulRow s i = some (d, w) → ∃ t, exec i s = .next t ∧ WritesX s t d w 4)
  ∧ (∀ (i : Instr) (f : R32), mulWord i = some f → decode (bytesOf 4 f.toWord.toNat) = .ok (i, []))

/-- A branch that is not taken moves PC by 4; one that is taken, JAL and JALR go to their target where it is a multiple of
4, and the jumps link PC + 4 in X[d]. JTBL at or above its length moves PC by 8; below it, it reads its signed 32-bit entry,
links PC + 8 and goes to base plus entry. A target that is no multiple of 4 takes MISALIGNED with the target in ADDR.
Nothing else changes. That ADDR of a taken branch’s MISALIGNED is its target is the model’s (log 17): R52 and R334 say so
for the jumps. (rests on R52, R309, R310, R321, R334, R335) -/
def Obligations.BranchAndJumpTargets : Prop :=
  (∀ (i : Instr) (s : State) (taken : Bool) (off : Int), branchRow s i = some (taken, off) →
      let tgt := s.pc + ofZ off
      (taken = false → ∃ t, exec i s = .next t ∧ GoesTo s t (s.pc + 4))
      ∧ (taken = true → tgt.toNat % 4 = 0 → ∃ t, exec i s = .next t ∧ GoesTo s t tgt))
  ∧ (∀ (i : Instr) (s : State) (d : Reg) (tgt : Word), jumpRow s i = some (d, tgt) → tgt.toNat % 4 = 0 →
      ∃ t, exec i s = .next t
        ∧ t = s.setMe { s.me with x := t.me.x, pc := tgt, wait := none }
        ∧ (∀ r, t.x r = if r = d ∧ r ≠ 0 then s.pc + 4 else s.x r) ∧ SameBytes s t)
  ∧ ((∀ (i : Instr) (s : State) (off : Int), branchRow s i = some (true, off) → (s.pc + ofZ off).toNat % 4 ≠ 0 →
      exec i s = .next (halted s (.trap (trapAt .misaligned 0 0 (s.pc + ofZ off)))))
    ∧ (∀ (i : Instr) (s : State) (d : Reg) (tgt : Word), jumpRow s i = some (d, tgt) → tgt.toNat % 4 ≠ 0 →
      exec i s = .next (halted s (.trap (trapAt .misaligned 0 0 tgt)))))
  ∧ (∀ (i : Instr) (s : State) (d : Reg) (b n k : Word), tableRow s i = some (d, b, n, k) →
      (n.toNat ≤ k.toNat → ∃ t, exec i s = .next t ∧ GoesTo s t (s.pc + 8))
      ∧ (k.toNat < n.toNat → ∀ tg, checkAcc s s.who (tableAcc b k) true = .ok tg →
          let tgt := b + extend true (s.number tg.loc 4) 4
          (tgt.toNat % 4 = 0 → ∃ t, exec i s = .next t ∧ t.pc = tgt
            ∧ (∀ r, t.x r = if r = d ∧ r ≠ 0 then s.pc + 8 else s.x r)
            ∧ ContextKept s t ∧ t.me.pend = s.me.pend ∧ SameBytes s t ∧ Noted s t)
          ∧ (tgt.toNat % 4 ≠ 0 → exec i s = .next (halted s (.trap (trapAt .misaligned 0 0 tgt))))))

/-- BMZ is taken when no element below VL of Top is set, BMNZ when one is. Where PC is a multiple of 4, and so the target, a
taken branch goes to PC + Sign(imm13, 13) × 4 and no MISALIGNED is raised; any other goes to PC + 8. Neither changes
anything else. (R50) -/
def Obligations.TopBranchTargets : Prop :=
  ∀ (i : Instr) (s : State) (taken : Bool) (off : Int), topRow s i = some (taken, off) →
    let tgt := s.pc + ofZ off
    (taken = false → ∃ t, exec i s = .next t ∧ GoesTo s t (s.pc + 8))
    ∧ (taken = true → s.pc.toNat % 4 = 0 → ∃ t, exec i s = .next t ∧ GoesTo s t tgt)

/-- A load whose access passes its checks sets X[d] to the bytes at its place as the context reads them, extended by
its kind, and moves PC by 4. No byte of memory changes, and of the rest only translations, cache tags, signatures and
counters are noted. An access that fails traps or parks on the cause that R264 puts first, and a task that parks waits
for the blocks whose waiter lists it has joined. (rests on R336, R123, R264, R262, R246, R146) -/
def Obligations.LoadsExtendMemory : Prop :=
  (∀ (i : Instr) (s : State) (d : Reg) (ea : Word) (n : Nat) (signed : Bool) (tg : Target), loadRow s i = some (d, ea, n, signed) →
    checkAcc s s.who (loadAcc ea n) true = .ok tg →
    ∃ t, exec i s = .next t ∧ t.pc = s.pc + 4
      ∧ (∀ r, t.x r = if r = d ∧ r ≠ 0 then extend signed (s.number tg.loc n) n else s.x r)
      ∧ ContextKept s t ∧ t.me.pend = s.me.pend ∧ SameBytes s t ∧ Noted s t)
  ∧ (∀ (i : Instr) (s : State) (d : Reg) (ea : Word) (n : Nat) (signed : Bool), loadRow s i = some (d, ea, n, signed) →
    FaultsInOrder s (loadAcc ea n) ∧ ((loadAcc ea n).mis = true ↔ 32 < (gva ea).toNat % 32 + n)
      ∧ ∀ h, checkAcc s s.who (loadAcc ea n) true = .error h → exec i s = .next (halted s h))
  ∧ (∀ (s u : State) (bs : List BlockId), CanPark s → s.task.atomic = false → s.part.task.isSome = true →
    parkTask s s.taskId (fun c => (s.ctx { s.turn with tail := c }).pc) false s.turn.tail = .ok u →
    let t := halted s (.park bs)
    (t.taskAt s.taskId).state = .parked ∧ (t.taskAt s.taskId).waitsOn = bs.eraseDups.filter (joined t s.taskId))

/-- A store whose access passes its checks writes the low bytes of X[s2] at the place that its checks give, for the
context that stores; every other byte reads as before, and nothing is published. A store to a barrier slot writes
memory at once, and those bytes alone. An access that fails traps on the cause that R264 puts first, the guard of its
frame among them. (rests on R354, R124, R152, R123, R264, R60, R146) -/
def Obligations.StoresWriteBytes : Prop :=
  (∀ (i : Instr) (s : State) (ea : Word) (n : Nat) (b : Reg) (tg : Target), storeRow s i = some (ea, n, b) →
      checkAcc s s.who (storeAcc ea n) true = .ok tg → inSlots tg n = false →
      ∃ t, exec i s = .next t ∧ t.pc = s.pc + 4 ∧ (∀ r, t.x r = s.x r)
        ∧ (∀ l, t.byte l = if tg.loc ≤ l ∧ l < tg.loc + n then byteOf (s.x b) (l - tg.loc) else s.byte l)
        ∧ ContextKept s t ∧ Noted s t)
  ∧ (∀ (i : Instr) (s : State) (ea : Word) (n : Nat) (b : Reg) (tg : Target), storeRow s i = some (ea, n, b) →
      checkAcc s s.who (storeAcc ea n) true = .ok tg → inSlots tg n = true → NoVictims s →
      (∀ l, tg.loc ≤ l → l < tg.loc + n → s.sectorBad (sectorOf l) = false ∧ ownerGone s (lineOf l) = false) →
      ∃ t, exec i s = .next t ∧ t.pc = s.pc + 4 ∧ (∀ r, t.x r = s.x r) ∧ ContextKept s t ∧ t.me.pend = s.me.pend
        ∧ ∀ l, t.mem.get l = if tg.loc ≤ l ∧ l < tg.loc + n then byteOf (s.x b) (l - tg.loc) else s.mem.get l)
  ∧ (∀ (i : Instr) (s : State) (ea : Word) (n : Nat) (b : Reg), storeRow s i = some (ea, n, b) →
      FaultsInOrder s (storeAcc ea n) ∧ (storeAcc ea n).guarded = true ∧ ((storeAcc ea n).mis = true ↔ 32 < (gva ea).toNat % 32 + n)
        ∧ ∀ h, checkAcc s s.who (storeAcc ea n) true = .error h → exec i s = .next (halted s h))

/-- SETVL always completes. An accepted type gives the greatest multiple of the block length that is at most the
request and VLMAX as VL, SHORT as defined, and the type in VTY; any other gives VL 0 and ILL alone. X[d] takes VL, PC
moves by 8, and nothing else changes; VL never exceeds VLMAX. (R357) -/
def Obligations.SetvlResults : Prop :=
  (∀ (i : Instr) (s : State) (d : Reg) (req : Word) (ty : BitVec 15), setvlRow s i = some (d, req, ty) →
      ∃ t, exec i s = .next t
        ∧ t = s.setMe { s.me with x := t.me.x, vl := t.me.vl, vty := t.me.vty, pc := s.pc + 8, wait := none }
        ∧ (∀ r, t.x r = if r = d ∧ r ≠ 0 then BitVec.ofNat 64 t.me.vl else s.x r) ∧ SameBytes s t
        ∧ if bitsOf ty 10 8 ≤ 4 ∧ typeOk (bitsOf ty 7 3) (bitsOf ty 2 0) (bitsOf ty 14 13) = true then
            let most := s.lanes * 512 / sewOf (bitsOf ty 2 0) * 2 ^ bitsOf ty 10 8
            let b := max 1 (blenOf (bitsOf ty 14 13))
            t.me.vl % b = 0 ∧ t.me.vl ≤ min req.toNat most ∧ min req.toNat most < t.me.vl + b
              ∧ bitsOf t.me.vty 14 0 = ty.toNat ∧ (bitOf t.me.vty 15 = true ↔ 0 < req.toNat ∧ req.toNat < b)
              ∧ bitsOf t.me.vty 63 16 = 0
          else t.me.vl = 0 ∧ t.me.vty = 0x8000000000000000#64)
  ∧ (∀ (i : Instr) (s : State) (row : Reg × Word × BitVec 15), setvlRow s i = some row →
      ∃ t, exec i s = .next t ∧ t.vl ≤ t.vlmaxAt (vtySew t.me.vty))

/-- MPUSH pushes Top AND K[s1], MINV replaces Top by its parent without it, both 0 at and above VL, and MPOP drops
Top; nothing else but PC changes. MPUSH on a full stack traps MSTKOVF with DETAIL 0, MINV and MPOP on an empty one
with DETAIL 1. (R49) -/
def Obligations.MaskStackForms : Prop :=
  ((∀ (i : Instr) (s : State) (f : Nat → Bool) (rest : List Mask), stackRow s i = some (some (f, rest)) →
      ∃ t m, exec i s = .next t ∧ t = s.setMe { s.me with mstk := m :: rest, pc := s.pc + 8, wait := none } ∧ SameBytes s t
        ∧ ∀ j < 65536, m.getLsbD j = (f j && decide (j < s.vl)))
    ∧ (∀ s : State, s.me.mstk ≠ [] →
        ∃ t, exec .mpop s = .next t ∧ t = s.setMe { s.me with mstk := s.me.mstk.tail, pc := s.pc + 8, wait := none } ∧ SameBytes s t))
  ∧ ((∀ (n : Reg) (s : State), 24 ≤ s.me.mstk.length → exec (.mpush n) s = .next (halted s (.trap (trapOf .mstkovf 0))))
    ∧ (∀ s : State, s.me.mstk = [] → exec .minv s = .next (halted s (.trap (trapOf .mstkovf 1)))
        ∧ exec .mpop s = .next (halted s (.trap (trapOf .mstkovf 1)))))

/-- A CSR form that only reads sets X[d] to the value of the register it names. VFCSR, FMASK and the counter selectors are
written as stated, a value that they do not admit traps ILLEGAL with DETAIL 1, and a CSR that does not exist, is read-only
or needs S-mode traps ILLEGAL with DETAIL 0. Nothing else changes. The value of BELL is the model’s reading of R270 (log
45). (rests on R323, R84, R85, R87, R88, R90, R270) -/
def Obligations.CsrForms : Prop :=
  (∀ (i : Instr) (s : State) (d : Reg) (n : Nat), csrRow s i = some (d, n, none) →
      (∀ w, csrValue s n = some w → ∃ t, exec i s = .next t ∧ WritesX s t d w 4)
      ∧ (n = 0x802 → ∃ t w, exec i s = .next t ∧ fmaskIs s.me.fmask w ∧ WritesX s t d w 4))
  ∧ (∀ (i : Instr) (s : State) (d : Reg) (n : Nat) (f : Word → Word), csrRow s i = some (d, n, some f) →
      (n = 0x801 → ∃ t, exec i s = .next t
        ∧ t = s.setMe { s.me with x := t.me.x, vfcsr := f s.me.vfcsr &&& 0xFF, pc := s.pc + 4, wait := none }
        ∧ (∀ r, t.x r = if r = d ∧ r ≠ 0 then s.me.vfcsr else s.x r) ∧ SameBytes s t)
      ∧ (n = 0x802 → ∃ old, fmaskIs s.me.fmask old
        ∧ (f old = 0 → ∃ t, exec i s = .next t ∧ t = s.setMe { s.me with x := t.me.x, fmask := 0, pc := s.pc + 4, wait := none }
            ∧ (∀ r, t.x r = if r = d ∧ r ≠ 0 then old else s.x r) ∧ SameBytes s t)
        ∧ (f old ≠ 0 → exec i s = .next (halted s (.trap (trapOf .illegal 1)))))
      ∧ (∀ j < 8, n = 0x8E0 + j →
        let old := Table.get 0 s.task.pcsel j
        ((f old).toNat % 256 ≤ 9 → ∃ t, exec i s = .next t
            ∧ t = (s.setMyTask { s.task with pcsel := Table.set s.task.pcsel j (f old &&& 0xFF), pcnt := Table.set s.task.pcnt j 0 }).setMe
                    { s.me with x := t.me.x, pc := s.pc + 4, wait := none }
            ∧ (∀ r, t.x r = if r = d ∧ r ≠ 0 then old else s.x r) ∧ SameBytes s t)
        ∧ (9 < (f old).toNat % 256 → exec i s = .next (halted s (.trap (trapOf .illegal 1))))))
  ∧ (∀ (i : Instr) (s : State) (d : Reg) (n : Nat) (f : Option (Word → Word)), csrRow s i = some (d, n, f) →
      (csrOf n = none ∨ (f.isSome = true ∧ n ≠ 0x801 ∧ n ≠ 0x802 ∧ (n < 0x8E0 ∨ 0x8E7 < n))
          ∨ (s.task.smode = false ∧ 0x5C0 ≤ n ∧ n ≤ 0x5FF)) →
      exec i s = .next (halted s (.trap (trapOf .illegal 0))))

/-- A boundary completes. One that releases, outside an atomic task, publishes every store that the context holds and leaves
every byte as the context reads it; any other leaves the stores held. An acquire at the widest scopes leaves no line marked
for refetch, and FENCE.I leaves none in the core’s instruction cache. No register but PC changes. That FENCE.I empties the
instruction cache is the model’s (log 13). (rests on R148, R149, R150, R328, R329, R346) -/
def Obligations.BoundariesPublish : Prop :=
  ∀ (i : Instr) (s : State) (aq rl : Bool) (scope n : Nat), boundaryRow i = some (aq, rl, scope, n) →
    (rl = true → s.task.atomic = false → CanRelease s) →
    ∃ t, exec i s = .next t ∧ t.pc = s.pc + BitVec.ofNat 64 n ∧ (∀ r, t.x r = s.x r) ∧ ContextKept s t ∧ Elsewhere s t
      ∧ (rl = true → s.task.atomic = false → Published s t)
      ∧ (rl = false ∨ s.task.atomic = true → t.me.pend = s.me.pend ∧ SameBytes s t)
      ∧ (aq = true → 5 ≤ scope → ∀ g ∈ (t.core s.turn.core).l1d, g.marked = 0)
      ∧ (aq = true → 4 ≤ scope → ∀ g ∈ (t.core s.turn.core).l1d, g.fabric = 0)
      ∧ (i = .fenceI → (t.core s.turn.core).l1i = [])

/-- ARRIVE publishes what its context holds and lowers N of the slot by the count, clamped, with LAP and FAULT as stated;
WAITB waits while N is above 0 and otherwise starts the next phase; TESTB reads the slot as stated and changes nothing.
Every byte outside the slot stays. That WAITB leaves LAP as it was is the model’s (log 40). (rests on R154, R194, R318,
R368, R414, R415) -/
def Obligations.BarrierSlotForms : Prop :=
  (∀ (target : BitVec 3) (slot : BitVec 7) (s1 : Reg) (scope : BitVec 3) (s : State),
      let k := if target = 1 then s.turn.core else s.turn.core / 4 * 4 + (target.toNat - 2)
      let c := (s.x s1).toNat
      CanRelease s → c ≤ 0x7FFFFFFF → (s.core k).colour = some s.task.colour → SlotGood s k slot.toNat →
      ∃ t, exec (.arrive target slot s1 scope) s = .next t ∧ t.pc = s.pc + 8 ∧ (∀ r, t.x r = s.x r) ∧ ContextKept s t
        ∧ Elsewhere s t ∧ t.me.pend = []
        ∧ (∀ l, outsideSlot k slot.toNat l → t.mem.get l = s.byte l)
        ∧ let w := slotSeen s k slot.toNat
          let w' := readSlot t k slot.toNat
          (c = 0 → w' = w)
          ∧ (0 < c → slotN w' = max (slotN w - c) (-2 ^ 31) ∧ slotE w' = slotE w ∧ slotPhase w' = slotPhase w
            ∧ slotBytes w' = slotBytes w ∧ (slotLap w' = true ↔ slotLap w = true ∨ slotN w' ≤ -(slotE w : Int))
            ∧ (slotFault w' = true ↔ slotFault w = true ∨ slotN w - c < -2 ^ 31)))
  ∧ (∀ (slot : BitVec 7) (scope : BitVec 3) (s : State), s.task.atomic = false →
      let w := readSlot s s.turn.core slot.toNat
      (0 < slotN w → exec (.waitb slot scope) s = .next (waitOn s (.barrier slot.toNat)))
      ∧ (slotN w ≤ 0 → NoVictims s → SlotGood s s.turn.core slot.toNat →
        ∃ t, exec (.waitb slot scope) s = .next t ∧ t.pc = s.pc + 8 ∧ (∀ r, t.x r = s.x r) ∧ ContextKept s t ∧ Elsewhere s t
          ∧ t.me.pend = s.me.pend ∧ (∀ l, outsideSlot s.turn.core slot.toNat l → t.mem.get l = s.mem.get l)
          ∧ let w' := readSlot t s.turn.core slot.toNat
            slotN w' = min (slotN w + slotE w) (2 ^ 31 - 1) ∧ slotPhase w' = (slotPhase w + 1) % 2 ^ 16 ∧ slotE w' = slotE w
              ∧ slotBytes w' = slotBytes w ∧ slotLap w' = slotLap w
              ∧ (slotFault w' = true ↔ slotFault w = true ∨ 2 ^ 31 - 1 < slotN w + slotE w)))
  ∧ (∀ (d : Reg) (slot : BitVec 7) (s : State), s.task.atomic = false →
      let w := readSlot s s.turn.core slot.toNat
      ∃ t v, exec (.testb d slot) s = .next t ∧ t.pc = s.pc + 8 ∧ (∀ r, t.x r = if r = d ∧ r ≠ 0 then v else s.x r)
        ∧ ContextKept s t ∧ t.me.pend = s.me.pend ∧ SameBytes s t ∧ Noted s t
        ∧ (bitOf v 63 = true ↔ slotN w ≤ 0) ∧ bitOf v 62 = slotFault w ∧ bitOf v 61 = slotLap w ∧ bitsOf v 15 0 = slotPhase w
        ∧ bitsOf v 60 16 = 0)

/-- An enqueue of a readable, well-formed header puts a copy behind those of its deque or segment where there is room, with
status 0; without room ENQ waits, and goes on with the header that it has read once there is room, and ENQ.NB gives status
1; an atomic task holds it with status 2. In ring mode the copy goes to the ring’s memory. A header that no core issues is
spread over the segments in turn. The colour in which a ring slot is translated, and no room where it cannot be, are the
model’s (log 15). (rests on R174, R175, R176, R178, R179, R32, R327) -/
def Obligations.EnqueuesPlaceHeaders : Prop :=
  (∀ (i : Instr) (s u : State) (s1 : Reg) (nb : Option Reg) (h : Header), enqRow i = some (s1, nb) →
      (s.x s1).toNat % 64 = 0 → s.me.wait = none → CanRelease s →
      readHeader s.releaseMe (s.x s1) = .ok (h, u) → checkHeader u h = .ok () → u.task.atomic = false →
      (queueRoom u h u.task.colour (some u.turn.core) = true → ∃ t, exec i s = .next t ∧ t.pc = u.pc + 8 ∧ StatusIn u t nb 0
        ∧ t.mem = (enqueue u h u.task.colour 0 none (some u.turn.core)).mem ∧ Placed u t h u.task.colour)
      ∧ (queueRoom u h u.task.colour (some u.turn.core) = false →
          (nb.isSome = true → ∃ t, exec i s = .next t ∧ t.pc = u.pc + 8 ∧ StatusIn u t nb 1 ∧ t.sched = u.sched ∧ t.cores = u.cores)
          ∧ (nb = none → exec i s = .next (waitOn u (.queueRoom h)))))
  ∧ (∀ (i : Instr) (s u : State) (s1 : Reg) (nb : Option Reg) (h : Header), enqRow i = some (s1, nb) →
      (s.x s1).toNat % 64 = 0 → s.me.wait = none → s.task.atomic = true →
      readHeader s.releaseMe (s.x s1) = .ok (h, u) → checkHeader u h = .ok () → u.task.atomic = true → u.task.held.length < 16 →
      ∃ t, exec i s = .next t ∧ t.pc = u.pc + 8 ∧ StatusIn u t nb 2 ∧ t.task.held = u.task.held ++ [h] ∧ t.sched = u.sched
        ∧ t.mem = u.mem)
  ∧ (∀ (i : Instr) (s : State) (s1 : Reg) (nb : Option Reg) (h : Header), enqRow i = some (s1, nb) → s.me.wait = some (.queueRoom h) →
      s.task.atomic = false →
      (queueRoom s h s.task.colour (some s.turn.core) = true → ∃ t, exec i s = .next t ∧ t.pc = s.pc + 8 ∧ StatusIn s t nb 0
        ∧ t.mem = (enqueue s h s.task.colour 0 none (some s.turn.core)).mem ∧ Placed s t h s.task.colour)
      ∧ (queueRoom s h s.task.colour (some s.turn.core) = false → nb = none → exec i s = .next (waitOn s (.queueRoom h))))
  ∧ (∀ (s : State) (h : Header) (colour n : Nat), route s h none = .spread n → inRingMode s n = false →
      let t := enqueue s h colour 0 none none
      n = segmap s (s.sched.spread % 256) ∧ t.sched.spread = s.sched.spread + 1
        ∧ (t.seg n).entries = (s.seg n).entries ++ [copyOf h colour (Table.get 0 (s.seg n).next (hPrio h))])

/-- PSEND copies 64 bytes of the scratchpad behind the full slots and publishes what the context holds, or waits while
the pipe is full. PRECV copies the oldest slot to the scratchpad with status 0, gives status 1 when the pipe is empty
and every producer is done, or waits. Nothing else changes. (rests on R38, R39, R40, R351, R352, R348) -/
def Obligations.PipesMoveSlots : Prop :=
  (∀ (n : BitVec 3) (s1 : Reg) (s : State) (g : GangHere), CanRelease s → myPipe s n.toNat true = .ok g →
      (s.x s1).toNat % 64 = 0 → (s.x s1).toNat ≤ 0x5FFC0 → g.done.getLsbD (pipeRoles g n.toNat).2 = false →
      let p := Table.get Pipe.empty g.pipe n.toNat
      (p.full < 16 → ∃ t q, exec (.psend n s1) s = .next t ∧ t.pc = s.pc + 8 ∧ (∀ r, t.x r = s.x r) ∧ ContextKept s t
        ∧ Elsewhere s t ∧ Published s t
        ∧ t.myCore.gang = some { g with pipe := Table.set g.pipe n.toNat q } ∧ q.head = p.head ∧ q.full = p.full + 1
        ∧ (∀ j, Table.get 0 q.data j = if j = (p.head + p.full) % 16
              then BitVec.ofNat 512 (s.number (scratchLoc s.turn.core (s.x s1).toNat) 64) else Table.get 0 p.data j))
      ∧ (16 ≤ p.full → exec (.psend n s1) s = .next (waitOn s (.pipe n.toNat true))))
  ∧ (∀ (d : Reg) (n : BitVec 3) (s1 : Reg) (s : State) (g : GangHere), s.task.atomic = false → myPipe s n.toNat false = .ok g →
      (s.x s1).toNat % 64 = 0 → (s.x s1).toNat < 0x5F800 →
      let p := Table.get Pipe.empty g.pipe n.toNat
      (0 < p.full → ∃ t q, exec (.precv d n s1) s = .next t ∧ t.pc = s.pc + 8
        ∧ (∀ r, t.x r = if r = d ∧ r ≠ 0 then 0 else s.x r) ∧ ContextKept s t ∧ Noted s t
        ∧ (∀ l, t.byte l = if scratchLoc s.turn.core (s.x s1).toNat ≤ l ∧ l < scratchLoc s.turn.core (s.x s1).toNat + 64
              then BitVec.ofNat 8 ((Table.get (0 : BitVec 512) p.data p.head).toNat / 256 ^ (l - scratchLoc s.turn.core (s.x s1).toNat))
              else s.byte l)
        ∧ t.myCore.gang = some { g with pipe := Table.set g.pipe n.toNat q } ∧ q.head = (p.head + 1) % 16 ∧ q.full = p.full - 1
        ∧ q.data = p.data)
      ∧ (p.full = 0 → g.done.getLsbD (pipeRoles g n.toNat).1 = true → ∃ t, exec (.precv d n s1) s = .next t ∧ WritesX s t d 1 8)
      ∧ (p.full = 0 → g.done.getLsbD (pipeRoles g n.toNat).1 = false →
          exec (.precv d n s1) s = .next (waitOn s (.pipe n.toNat false))))

/-- A legal message joins the end of the partition’s FIFO with its four words, the task’s key where it gives none, and
the sender’s task and colour; without room XPUSH waits and XPUSH.NB gives status 1. (rests on R190, R184, R185, R186,
R417) -/
def Obligations.XpushQueuesMessages : Prop :=
  ∀ (i : Instr) (s : State) (s1 : Reg) (nb : Option Reg), xpushRow i = some (s1, nb) → s.task.atomic = false →
    let m := myMsg s s1
    msgIllegal m = false → (s.task.smode = true ∨ mCap m = 0) →
    let room := s.part.fifo.length < 16 ∧ ((chainTo s.turn.core m).isSome = true → s.part.trackers.length < 4)
    (room → CanRelease s → ∃ t m', exec i s = .next t ∧ t.pc = s.pc + 8 ∧ StatusIn s t nb 0 ∧ ContextKept s t ∧ Published s t
      ∧ t.part.fifo = s.part.fifo ++ [m'] ∧ m'.w1 = s.x (s1 + 1) ∧ m'.w2 = s.x (s1 + 2) ∧ m'.w3 = s.x (s1 + 3)
      ∧ bitsOf m'.w0 47 0 = bitsOf (s.x s1) 47 0
      ∧ bitsOf m'.w0 63 48 = (if bitsOf (s.x s1) 63 48 = 0 then s.task.pkey.toNat else bitsOf (s.x s1) 63 48)
      ∧ m'.task = s.taskId ∧ m'.colour = s.task.colour ∧ t.part.task = s.part.task ∧ t.part.tfg = s.part.tfg
      ∧ t.sched = s.sched ∧ ∀ n, (t.core n).latch = (s.core n).latch)
    ∧ (¬ room → (nb.isSome = true → ∃ t, exec i s = .next t ∧ t.pc = s.pc + 8 ∧ StatusIn s t nb 1 ∧ ContextKept s t ∧ SameBytes s t ∧ Noted s t)
      ∧ (nb = none → exec i s = .next (waitOn s (.fifo (chainTo s.turn.core m).isSome))))

/-- MWAIT whose word differs from the expected value, or whose wait has been noticed, moves PC by 8 and changes
nothing else; one whose word equals it waits on that place. (rests on R197, R344) -/
def Obligations.MwaitNotices : Prop :=
  ∀ (s1 s2 : Reg) (s : State) (tg : Target), s.task.atomic = false →
    checkAcc s s.who { accGv (s.x s1) 4 .load (decide ((s.x s1).toNat % 4 ≠ 0)) with mwait := true } true = .ok tg →
    ((∃ l, s.me.wait = some (.word l true)) → ∃ t, exec (.mwait s1 s2) s = .next t ∧ GoesTo s t (s.pc + 8))
    ∧ (s.me.wait = none → s.number tg.loc 4 ≠ bitsOf (s.x s2) 31 0 →
        ∃ t, exec (.mwait s1 s2) s = .next t ∧ t.pc = s.pc + 8 ∧ (∀ r, t.x r = s.x r) ∧ ContextKept s t ∧ SameBytes s t ∧ Noted s t)
    ∧ (s.me.wait = none → s.number tg.loc 4 = bitsOf (s.x s2) 31 0 →
        ∃ t, exec (.mwait s1 s2) s = .next t ∧ t.pc = s.pc ∧ t.me.wait = some (.word tg.loc false) ∧ (∀ r, t.x r = s.x r) ∧ SameBytes s t)

/-- GENDONE and GENFAIL of the block’s generator publish its stores, end the fill, set the block’s state to FILLED or
SPOILED and free every task that waits for it. FILLRST in S-mode sets a FILLED or SPOILED block to BLANK and changes
no other byte; on a BLANK or TURNING one it changes nothing. (rests on R244, R253, R257, R330) -/
def Obligations.FillReports : Prop :=
  (∀ (i : Instr) (s : State) (s1 : Reg) (good : Bool) (code : BitVec 16) (b : BlockId), endRow s i = some (s1, good, code) →
      CanRelease s → Calm s → blockAt s (gva (s.x s1)) = some b → isGenOf s s.taskId b = true →
      ∃ t, exec i s = .next t ∧ t.pc = s.pc + 8 ∧ (∀ r, t.x r = s.x r) ∧ t.me.pend = [] ∧ fillOf t b = none
        ∧ (let p := publishBlock s.releaseMe b
            ∀ l, fstabPlace p b = some l → Unheld p l →
              bitsOf (t.mem.get l) (2 * (b.block % 4) + 1) (2 * (b.block % 4)) = if good then 2 else 3)
        ∧ (good = true → b ∈ t.fill.filled)
        ∧ ∀ id, (t.taskAt id).waitsOn = (s.taskAt id).waitsOn.filter (fun x => x ≠ b))
  ∧ (∀ (s1 : Reg) (s : State) (b : BlockId), s.task.smode = true → blockAt s (gva (s.x s1)) = some b →
      ((fillState s b = .filled ∨ fillState s b = .spoiled) → Calm s → ∃ t, exec (.fillrst s1) s = .next t ∧ t.pc = s.pc + 8
        ∧ (∀ r, t.x r = s.x r) ∧ b ∉ t.fill.filled
        ∧ (∀ l, fstabPlace s b = some l → Unheld s l → bitsOf (t.mem.get l) (2 * (b.block % 4) + 1) (2 * (b.block % 4)) = 0)
        ∧ (∀ l, fstabPlace s b ≠ some l → t.mem.get l = s.mem.get l))
      ∧ ((fillState s b = .blank ∨ fillState s b = .turning) → ∃ t, exec (.fillrst s1) s = .next t ∧ GoesTo s t (s.pc + 8)))

/-- HBACK continues the caller at its return address with the frame popped and the kept vector registers, starts the
tail context after itself with a copy of the state, and arms the tail frame guard with the frame’s bounds. FRJOIN
disarms the guard once the tail is done. Vector registers that HBACK does not keep are left open. (rests on R55, R56,
R57, R58, R59, R61, R62) -/
def Obligations.TailFrameForms : Prop :=
  (∀ (s1 s2 : Reg) (s : State), CanRelease s → s.turn.tail = false → (s.x 2).toNat % 16 = 0 → (s.x s1).toNat % 16 = 0 →
      signNat (s.x 2).toNat 57 ≤ signNat (s.x s1).toNat 57 → (s.x 1).toNat % 4 = 0 → s.part.tfg.live = false →
      ∃ t, exec (.hback s1 s2) s = .next t
        ∧ t.pc = s.x 1 ∧ (∀ r, t.x r = if r = 2 then s.x s1 else s.x r)
        ∧ (∀ r < 16, bitOf (s.x s2) r = true → t.v r = s.v r)
        ∧ { t.me with x := s.me.x, v := s.me.v, pc := s.me.pc, wait := none } = { s.me with pend := [], wait := none }
        ∧ t.ctx s.turn.other = { s.me with pc := s.pc + 8, pend := [], wait := none }
        ∧ t.part.tfg = { armed := true, live := true, base := BitVec.ofNat 53 (bitsOf (s.x 2) 56 4),
                         limit := BitVec.ofNat 53 (bitsOf (s.x s1) 56 4) }
        ∧ Published s t ∧ t.sched = s.sched ∧ t.turn = s.turn)
  ∧ (∀ s : State, CanRelease s → s.turn.tail = false → (s.part.tfg.armed = true → s.part.tfg.live = false) →
      ∃ t, exec .frjoin s = .next t ∧ t.pc = s.pc + 8 ∧ (∀ r, t.x r = s.x r) ∧ ContextKept s t ∧ Published s t
        ∧ t.part.tfg = { s.part.tfg with armed := false } ∧ t.part.task = s.part.task)

/-- TDONE of a task without a live tail, or of the tail of a task that waits for it, leaves the task DONE with a good
end. TDONE of a main context whose tail is live empties the context and leaves the task TAIL-PENDING, and TDONE of a
tail whose main context still runs empties the tail. TDONE of an atomic task publishes its tentative stores together,
queues the headers that it holds, and leaves it DONE; where its signatures meet what others have written it is queued
again and nothing is published. (rests on R30, R33, R34, R57, R58, R177, R366) -/
def Obligations.TdoneEnds : Prop :=
  (∀ (s : State) (id : Nat), s.part.task = some id → CanRelease s →
    (s.turn.tail = false → s.part.tfg.live = false →
      ∃ t, exec .tdone s = .next t ∧ (t.taskAt id).state = .done ∧ (t.taskAt id).ending = .good)
    ∧ (s.turn.tail = false → s.part.tfg.live = true →
      ∃ t, exec .tdone s = .next t ∧ (t.taskAt id).state = .tailPending ∧ t.me = Ctx.empty)
    ∧ (s.turn.tail = true → s.task.state = .tailPending →
      ∃ t, exec .tdone s = .next t ∧ (t.taskAt id).state = .done ∧ (t.taskAt id).ending = .good)
    ∧ (s.turn.tail = true → s.task.state ≠ .tailPending →
      ∃ t, exec .tdone s = .next t ∧ t.me = Ctx.empty ∧ t.part.tfg = { s.part.tfg with live := false }))
  ∧ (∀ (s : State) (id : Nat), s.part.task = some id → s.task.atomic = true → s.turn.tail = false → NoVictims s →
    ((∃ x ∈ s.task.others, x ∈ s.task.reads ++ s.task.writes) → ∃ t, exec .tdone s = .next t ∧ (t.taskAt id).state = .queued ∧ t.mem = s.mem
      ∧ (t.taskAt id).held = [] ∧ (t.taskAt id).reads = [] ∧ (t.taskAt id).writes = [])
    ∧ (s.task.others = [] → (∀ b ∈ s.me.pend, lineHeld s (lineOf b.1) = false) → admitted s s.me.pend = s.me.pend →
      s.me.pend.Pairwise (fun a b => a.1 < b.1) → (∀ n, inRingMode s n = false) → (∀ n, (s.seg n).entries.length + s.task.held.length ≤ 5760) →
      (∀ h ∈ s.task.held, ∃ n, route s h (some s.turn.core) = .segment n) →
      ∃ t, exec .tdone s = .next t ∧ (t.taskAt id).state = .done ∧ (t.taskAt id).ending = .good ∧ (∀ l, t.mem.get l = s.byte l)
        ∧ ∀ n, ∃ pre new, (t.seg n).entries = pre ++ new ∧ pre.Sublist (s.seg n).entries
            ∧ new.map (·.header) = s.task.held.filter (fun h => decide (route s h (some s.turn.core) = .segment n))
            ∧ ∀ e ∈ new, e.colour = s.task.colour))

/-- ECALL, EBREAK and an illegal encoding take their trap with DETAIL 0 and no address; a fetch that fails takes PAGE or
PERM with its detail, at PC, or at PC + 4 for the second half of an 8-byte instruction. A vector, matrix or graphics form
that R82 refuses takes ILLEGAL with DETAIL 1, and an irrevocable form of an atomic task ATOMIRREV. What taking a trap does
is the next statement. That ADDR of a fault in the second half is PC + 4 is the model’s (log 17). (rests on R20, R34, R65,
R81, R82, R109, R225, R230, R262, R264, R325) -/
def Obligations.EnvironmentTraps : Prop :=
  (∀ (i : Instr) (s : State) (n : Nat), irrevocableRow s i = some n → s.task.atomic = true →
    exec i s = .next (halted s (.trap (trapOf .atomirrev n))))
  ∧ (∀ (i : Instr) (s : State) (ty : ElTy) (takes : Prop) (tiles : List Reg) (rm : Option (BitVec 3)), NeedsVty s i ty takes tiles rm →
    ¬ VecOk s ty takes tiles rm → exec i s = .next (halted s (.trap (trapOf .illegal 1))))
  ∧ (∀ (o : CvtOp) (s : State), let ty := fltType s.me.vty o.et
    ¬ (VecOk s ty True [o.s1] (some o.rm) ∧ (o.usrc = true → ty.fmt = 0) ∧ o.d.toNat % s.gf = 0 ∧ s.vl ≤ s.vlmaxAt (sewOf o.sew.toNat)
        ∧ (8 ≤ o.fmt.toNat → s.vl % cvtBlockLen o ty = 0 ∧ o.d.toNat + s.gf + scaleRegs s.gf ≤ 32)) →
    exec (.vcvt o) s = .next (halted s (.trap (trapOf .illegal 1))))
  ∧ (∀ (i : Instr) (s : State) (d s1 s2 : Reg) (m : MaskSel) (n k : Nat) (res : Nat → List (Option Nat)),
    rayRow s i = some (d, s1, s2, m, n, k, res) →
    (vtyIll s.me.vty = true ∨ vtyFmt s.me.vty ≠ 2 ∨ vtySew s.me.vty ≠ 32 ∨ s.gf ≠ 1 ∨ 32 < s1.toNat + 8 ∨ 32 < s2.toNat + k ∨ 32 < d.toNat + n) →
    exec i s = .next (halted s (.trap (trapOf .illegal 1))))
  ∧ (∀ (i : Instr) (s : State) (d s1 : Reg) (n : BitVec 8) (m : MaskSel) (limit : Bool) (plan : TexDesc → Nat → Option Plan),
    texRow s i = some (d, s1, n, m, limit, plan) →
    (vtyIll s.me.vty = true ∨ vtyFmt s.me.vty ≠ 2 ∨ vtySew s.me.vty ≠ 32 ∨ s.gf ≠ 1 ∨ 28 < d.toNat ∨ 30 < s1.toNat ∨ limit = false) →
    exec i s = .next (halted s (.trap (trapOf .illegal 1))))
  ∧ ∀ s : State, CanPark s →
    exec .ecall s = .next (takeTrap s (trapOf .ecall 0)) ∧ exec .ebreak s = .next (takeTrap s (trapOf .ebreak 0))
    ∧ exec .illegalEncoding s = .next (takeTrap s (trapOf .illegal 0))
    ∧ ∀ (detail : Nat) (straddle : Bool),
        let a := gva (if straddle then s.pc + 4 else s.pc)
        exec (.fetchFault 4 detail straddle) s
            = .next (takeTrap s { cause := .page, detail := detail, elem := 0, addr := a, straddle := straddle, aux := 0 })
        ∧ exec (.fetchFault 5 detail straddle) s
            = .next (takeTrap s { cause := .perm, detail := detail, elem := 0, addr := a, straddle := straddle, aux := 0 })

/-- Taking a trap parks the task, opens the trap and leaves its record pending, with every field as its map gives it;
ECALL saves the address after it. A generator’s trap ends its task as faulted with a FINAL record. An atomic task whose
reads others have overtaken is queued again without a record where it attempts an irrevocable action. (rests on R34, R261,
R262, R263, R254, R265) -/
def Obligations.TrapsParkWithRecords : Prop :=
  (∀ (s u : State) (t : Trap), (t.cause = .atomirrev → readConflict s = false) → genBlock s s.taskId = none →
      parkTask (noteTrap s s.turn.core s.task.colour t) s.taskId
        (fun c => if c = s.turn.tail then (if t.cause = .ecall then s.pc + 4 else s.pc)
                  else (s.ctx { s.turn with tail := c }).pc) true s.turn.tail = .ok u →
      let v := takeTrap s t
      (v.taskAt s.taskId).state = .parked ∧ (v.taskAt s.taskId).trapOpen = true
        ∧ (v.taskAt s.taskId).pending
            = some (trapRecord t s.pc s.task.colour s.taskId s.task.spill s.turn.tail s.task.smode false true)
        ∧ v.mem = u.mem ∧ v.ctxs = u.ctxs ∧ v.parts = u.parts ∧ v.sched = u.sched ∧ v.fill = u.fill)
  ∧ (∀ (s : State) (t : Trap), t.cause = .atomirrev → readConflict s = true → s.part.task.isSome = true →
      let v := takeTrap s t
      (v.taskAt s.taskId).state = .queued ∧ (v.taskAt s.taskId).pending = s.task.pending ∧ v.mem = s.mem)
  ∧ (∀ (s : State) (t : Trap) (id : Nat) (b : BlockId), s.part.task = some id →
      (t.cause = .atomirrev → readConflict s = false) → genBlock s id = some b →
      let v := takeTrap s t
      (v.taskAt id).state = .done ∧ (v.taskAt id).ending = .faulted
        ∧ (v.taskAt id).pending = some (trapRecord t s.pc s.task.colour id 0 s.turn.tail s.task.smode true false))
  ∧ (∀ (t : Trap) (pc : Word) (colour task spill : Nat) (tail smode final parked : Bool),
      t.detail < 2 ^ 16 → t.elem < 2 ^ 16 → colour < 2 ^ 16 → task < 2 ^ 64 → spill < 2 ^ 64 →
      RecordOf (trapRecord t pc colour task spill tail smode final parked) t pc colour task spill tail smode final parked)

/-- TRESUME of a resolvable record closes the trap so that the task is dispatched again, an atomic task from its start;
TKILL ends it as killed. The commands of the S-mode log do the same for a slot and free it, or fail with status 1 and change
no task; one whose control block lies in a line that another device owns asks for the line first. What a resolvable record
needs beyond R271 is log 56, and that a held line is asked for first is log 59: the model’s. (rests on R268, R269, R271,
R371, R423) -/
def Obligations.RecordsResolve : Prop :=
  (∀ (s1 : Reg) (s u : State) (r : BitVec 1024) (cb : List Byte), resolveForm s s1 = .ok (r, cb, u) → u.readyToRelease = .ok () →
      cbHeld u r = none → u.tasks.Pairwise (fun a b => a.1 < b.1) →
      let id := bitsOf r 255 192
      (bytesAt cb 0 8 % 4 = 0 → ∃ t, exec (.tresume s1) s = .next t ∧ (t.taskAt id).trapOpen = false
        ∧ ((u.releaseMe.taskAt id).atomic = true → (t.taskAt id).state = .queued)
        ∧ ((u.releaseMe.taskAt id).atomic = false → (t.taskAt id).state = (u.releaseMe.taskAt id).state))
      ∧ (∃ t, exec (.tkill s1) s = .next t ∧ (t.taskAt id).state = .done ∧ (t.taskAt id).ending = .killed
        ∧ (t.taskAt id).trapOpen = false))
  ∧ (∀ (i : Instr) (s : State) (n w : Nat) (kill : Bool), logRow i = some (n, w, kill) →
      (∀ r line, Table.find s.mgmt.stl n = some r → bitOf r 270 = false → awaited (spillRead s (bitsOf r 255 192) (cbStart s r) 1024) = some line →
        exec i s = .next (askHolders s line))
      ∧ (∀ r line cb, Table.find s.mgmt.stl n = some r → bitOf r 270 = false → spillRead s (bitsOf r 255 192) (cbStart s r) 1024 = .ok cb →
        cbHeld s r = some line → exec i s = .next (askHolders s line))
      ∧ ((∀ r, Table.find s.mgmt.stl n = some r → bitOf r 270 = false → awaited (spillRead s (bitsOf r 255 192) (cbStart s r) 1024) = none
          ∧ ∀ cb, spillRead s (bitsOf r 255 192) (cbStart s r) 1024 = .ok cb → cbHeld s r = none) →
      ∃ t, exec i s = .next t ∧ t.mgmt.stlCmd = BitVec.ofNat 64 w
        ∧ (Table.find s.mgmt.stl n = none → t.mgmt.stlStat = 1 ∧ t.tasks = s.tasks ∧ t.mem = s.mem)
        ∧ (∀ r, Table.find s.mgmt.stl n = some r → bitOf r 270 = true →
            t.mgmt.stlStat = 0 ∧ t.mgmt.stl = Table.del s.mgmt.stl n ∧ t.tasks = s.tasks ∧ t.mem = s.mem)
        ∧ (∀ r cb, Table.find s.mgmt.stl n = some r → bitOf r 270 = false →
            spillRead s (bitsOf r 255 192) (cbStart s r) 1024 = .ok cb →
            let ok := resolvable s r cb = true ∧ (kill = true ∨ bytesAt cb 0 8 % 4 = 0)
            (ok → t.mgmt.stlStat = 0 ∧ (t.taskAt (bitsOf r 255 192)).trapOpen = false
              ∧ (kill = true → (t.taskAt (bitsOf r 255 192)).state = .done))
            ∧ (¬ ok → t.mgmt.stlStat = 1 ∧ t.tasks = s.tasks ∧ t.mem = s.mem))))

/-- Every element-wise integer form with an accepted type completes: each active element takes its exact result modulo
2^SEW, clamped where the form saturates, SAT is raised when one is clamped, other elements keep their values or become
all ones where VTY allows it, and nothing else changes. Inactive elements under MA follow log 16. (rests on R374,
R381, R385, R358, R82) -/
def Obligations.VectorIntegerResults : Prop :=
  ∀ (i : Instr) (s : State) (o : VecOp) (f : Nat → Nat → Nat → Int) (lim : Option (Nat → Int × Int)), viRow i = some (o, f, lim) →
    let ty := intType s.me.vty o.et
    let exact := fun j => f ty.sew (s.elem o.s1.toNat ty.sew j) (s.srcB o.b ty.sew j)
    VecOk s ty (8 ≤ ty.sew) ([o.d, o.s1] ++ Src.tiles o.b) none →
    ∃ t, exec i s = .next t
      ∧ VecFrame s t (if someAct s o.m (fun j => decide (viValue ty.sew (exact j) lim ≠ exact j)) then 4 else 0) ∧ t.me.k = s.me.k
      ∧ TileAfter s t o.d.toNat ty.sew (fun j => if acts s o.m j then some (md ty.sew (viValue ty.sew (exact j) lim)) else none)
          (loose s ty.sew (fun j => !selects s o.m j) s.vl)

/-- Compares write the truth of their relation into the bits of k[d] for active elements, a comparison with NaN as
stated, and raise NV where they must; other bits keep their values or become 1 where VTY allows it. Inactive elements
under MA follow log 16. (rests on R387, R395, R358, R82) -/
def Obligations.VectorCompareResults : Prop :=
  (∀ (i : Instr) (s : State) (o : VecOp) (f : Nat → Nat → Nat → Bool), viCmpRow i = some (o, f) →
    let ty := intType s.me.vty o.et
    VecOk s ty (8 ≤ ty.sew) ([o.s1] ++ Src.tiles o.b) none →
    ∃ t, exec i s = .next t ∧ VecFrame s t 0 ∧ t.me.v = s.me.v
      ∧ BitsAfter s t o.d.toNat (fun j => if acts s o.m j then some (f ty.sew (s.elem o.s1.toNat ty.sew j) (s.srcB o.b ty.sew j)) else none)
          (loose s ty.sew (fun j => !selects s o.m j) s.vl))
  ∧ (∀ (i : Instr) (s : State) (o : FltOp) (rel : Rat → Rat → Bool) (un loud : Bool), vfCmpRow i = some (o, rel, un, loud) →
    let ty := fltType s.me.vty o.et
    let f := fmtOf ty.fmt
    let r := fun j => vfCmp rel un loud (f.value (s.elem o.s1.toNat ty.sew j)) (f.value (s.srcB o.b ty.sew j))
    VecOk s ty (1 ≤ ty.fmt ∧ ty.fmt ≤ 4) ([o.s1] ++ Src.tiles o.b) none →
    ∃ t, exec i s = .next t ∧ VecFrame s t (if someAct s o.m (fun j => decide ((r j).2 ≠ 0)) then 16 else 0) ∧ t.me.v = s.me.v
      ∧ BitsAfter s t o.d.toNat (fun j => if acts s o.m j then some (r j).1 else none)
          (loose s ty.sew (fun j => !selects s o.m j) s.vl))

/-- Integer reductions leave the fold of the active elements, from the identity, in element 0, and scans the running fold in
each active element; the floating-point sums follow the tree of the rule or run in order, and minima and maxima their rule.
Inactive elements under MA follow log 16, the model’s. (rests on R402, R408, R358, R82) -/
def Obligations.VectorReductionResults : Prop :=
  (∀ (i : Instr) (s : State) (o : VecUn) (scan : Bool) (e : Nat → Nat) (f : Nat → Nat → Nat → Nat), viRedRow i = some (o, scan, e, f) →
      let ty := intType s.me.vty o.et
      let n := ty.sew
      let fold := fun l => (l.map (fun j => s.elem o.s1.toNat n j)).foldl (f n) (e n)
      VecOk s ty (8 ≤ n) [o.d, o.s1] none →
      ∃ t, exec i s = .next t ∧ VecFrame s t 0 ∧ t.me.k = s.me.k
        ∧ TileAfter s t o.d.toNat n
            (fun j => if scan then (if acts s o.m j then some (fold ((actList s o.m).filter (fun x => decide (x ≤ j)))) else none)
                      else (if j = 0 ∧ 0 < s.vl then some (fold (actList s o.m)) else none))
            (if scan then loose s n (fun j => !selects s o.m j) s.vl else loose s n (fun _ => false) 1))
  ∧ (∀ (i : Instr) (s : State) (o : FltUn) (rounds : Bool), vfRedRow i = some (o, rounds) →
      let ty := fltType s.me.vty o.et
      let r := vfRedResult s i
      let tail := vfRedTail s i
      VecOk s ty (1 ≤ ty.fmt ∧ ty.fmt ≤ 4) [o.d, o.s1] (if rounds then some o.rm else none) →
      ∃ t, exec i s = .next t ∧ VecFrame s t (if s.vl = 0 then 0 else r.2) ∧ t.me.k = s.me.k
        ∧ TileAfter s t o.d.toNat ty.sew (fun j => if 0 < s.vl then (r.1.find? (fun x => x.1 = j)).map (·.2) else none)
            (loose s ty.sew (fun j => tail.2 && !selects s o.m j) tail.1))

/-- VPERM, the slides and VCMPRS move the elements that the rules name; VPOPC, VFIRST and VMVXS set X[d] from the active
elements. Nothing else changes. Inactive elements under MA follow log 16, the model’s. (rests on R388, R401, R406, R407,
R409) -/
def Obligations.VectorPermuteResults : Prop :=
  ((∀ (i : Instr) (s : State) (o : VecOp) (tiles : List Reg) (f : Nat → Nat → Option Nat), permRow s i = some (o, tiles, f) →
      let ty := intType s.me.vty o.et
      VecOk s ty (8 ≤ ty.sew) tiles none →
      ∃ t, exec i s = .next t ∧ VecFrame s t 0 ∧ t.me.k = s.me.k
        ∧ TileAfter s t o.d.toNat ty.sew (fun j => if acts s o.m j then f ty.sew j else none)
            (loose s ty.sew (fun j => !selects s o.m j) s.vl))
    ∧ (∀ (o : VecUn) (s : State),
      let ty := intType s.me.vty o.et
      let vals := (actList s o.m).map (fun j => s.elem o.s1.toNat ty.sew j)
      VecOk s ty (8 ≤ ty.sew) [o.d, o.s1] none →
      ∃ t, exec (.vcmprs o) s = .next t ∧ VecFrame s t 0 ∧ t.me.k = s.me.k
        ∧ TileAfter s t o.d.toNat ty.sew (fun j => vals[j]?) (loose s ty.sew (fun _ => false) vals.length)))
  ∧ ((∀ (i : Instr) (s : State) (o : VecUn) (w : Word), countRow s i = some (o, w) →
      let ty := intType s.me.vty o.et
      VecOk s ty (8 ≤ ty.sew) [] none → ∃ t, exec i s = .next t ∧ ScalarAfter s t o.d w)
    ∧ (∀ (o : VecOp) (s : State),
      let ty := intType s.me.vty o.et
      VecOk s ty (8 ≤ ty.sew) [o.s1] none →
      ∃ t, exec (.vmvxs o) s = .next t ∧ ScalarAfter s t o.d
        (if acts s o.m (distance s o.b) then ofZ (sg ty.sew (s.elem o.s1.toNat ty.sew (distance s o.b))) else 0)))

/-- Every element-wise floating-point form with an accepted type and rounding mode completes: each active element takes the
rounded result, and VFCSR the union of the elements’ flags; nothing else changes. The approximations are the functions that
the model gives for their bounds (log 31), and inactive elements under MA follow log 16, both the model’s. (rests on R392,
R393, R394, R396, R397, R391) -/
def Obligations.VectorFloatResults : Prop :=
  ∀ (i : Instr) (s : State) (r : VfRow), vfRow i = some r →
    let ty := fltType s.me.vty r.et
    VecOk s ty (1 ≤ ty.fmt ∧ ty.fmt ≤ 4) r.tiles r.rm →
    ∃ t, exec i s = .next t ∧ VecFrame s t (orAll ((actList s r.m).map (fun j => (r.elem s j).2))) ∧ t.me.k = s.me.k
      ∧ TileAfter s t r.d.toNat ty.sew (fun j => if acts s r.m j then some (r.elem s j).1 else none)
          (loose s ty.sew (fun j => !selects s r.m j) s.vl)

/-- VCVT to a scalar or integer type converts each active element; to a block type it encodes each block of active elements
with its scale. Rounding a value that a format holds gives its code, without a flag. Inactive elements under MA follow log
16, the model’s. (rests on R389, R390, R96, R97, R98) -/
def Obligations.ConversionResults : Prop :=
  (∀ (o : CvtOp) (s : State),
      let ty := fltType s.me.vty o.et
      let dsew := sewOf o.sew.toNat
      let rm := s.roundMode o.rm
      VecOk s ty True [o.s1] (some o.rm) → (o.usrc = true → ty.fmt = 0) → o.d.toNat % s.gf = 0 → s.vl ≤ s.vlmaxAt dsew →
      (o.fmt.toNat < 8 → ∃ t, exec (.vcvt o) s = .next t
        ∧ VecFrame s t (orAll ((actList s o.m).map (fun j => (cvtElem s o ty rm j).2))) ∧ t.me.k = s.me.k
        ∧ TileAfter s t o.d.toNat dsew (fun j => if acts s o.m j then some (cvtElem s o ty rm j).1 else none)
            (loose s dsew (fun j => !selects s o.m j) s.vl))
      ∧ (8 ≤ o.fmt.toNat → s.vl % cvtBlockLen o ty = 0 → o.d.toNat + s.gf + scaleRegs s.gf ≤ 32 →
        ∃ t fl, exec (.vcvt o) s = .next t ∧ VecFrame s t fl ∧ t.me.k = s.me.k
          ∧ (∀ b, let is := (actList s o.m).filter (fun j => decide (j / cvtBlockLen o ty = b))
              is ≠ [] →
              let e := encodeBlock o.fmt.toNat rm (is.map (cvtSource s ty o.usrc o.s1.toNat))
              is.map (t.elem o.d.toNat dsew) = e.1.map (· % 2 ^ dsew) ∧ t.elem (o.d.toNat + s.gf) 8 b = e.2.2 % 256)
          ∧ (∀ j < s.vl, acts s o.m j = false → t.elem o.d.toNat dsew j = s.elem o.d.toNat dsew j
              ∨ (loose s dsew (fun j => !selects s o.m j) s.vl j ∧ t.elem o.d.toNat dsew j = 2 ^ dsew - 1))))
  ∧ (∀ (k rm code : Nat) (sat : Bool), 1 ≤ k → k ≤ 12 →
      let f := fmtOf k
      code < 2 ^ (f.eb + f.fb + 1) → (f.value code).isFin = true → roundNum f rm sat (f.value code) = (code, 0))

/-- An AMO whose access passes its checks sets X[d] to the old value, sign-extended, and writes the new one at its
place alone, at once outside an atomic task and held in one; a CAS that fails writes nothing. An access that fails traps
on the cause that R264 puts first. (rests on R313, R314, R82, R264, R286) -/
def Obligations.ScalarAtomics : Prop :=
  (∀ (i : Instr) (s : State) (o : AmoOp) (w : Nat) (new : Nat → Nat → Nat → Option Nat) (m : Via), amoRow i = some (o, w, new) →
    via s s.who o.sel o.n = .ok m → (s.task.atomic = true → namesScratch o.sel = false) →
    FaultsInOrder s (amoAcc s o w m) ∧ ((amoAcc s o w m).mis = true ↔ (amoAcc s o w m).ea.toNat % w ≠ 0)
      ∧ ∀ h, checkAcc s s.who (amoAcc s o w m) true = .error h → exec i s = .next (halted (s.noteVia o.sel o.n) h))
  ∧ ∀ (i : Instr) (s : State) (o : AmoOp) (w : Nat) (new : Nat → Nat → Nat → Option Nat) (m : Via) (tg : Target),
    amoRow i = some (o, w, new) → via s s.who o.sel o.n = .ok m → checkAcc s s.who (amoAcc s o w m) true = .ok tg →
    (s.task.atomic = true → namesScratch o.sel = false) → amoHeld s tg = false → NoVictims s → Writable s tg.loc w →
    (o.rl = true → s.task.atomic = false → CanRelease s) →
    let old := s.number tg.loc w
    let v := new ((s.x o.s2).toNat % 2 ^ (8 * w)) ((s.x o.s3).toNat % 2 ^ (8 * w)) old
    ∃ t, exec i s = .next t ∧ t.pc = s.pc + 8 ∧ (∀ r, t.x r = if r = o.d ∧ r ≠ 0 then extend true old w else s.x r)
      ∧ ContextKept s t ∧ Elsewhere s t
      ∧ (∀ l, ¬ within tg.loc w l → t.byte l = s.byte l)
      ∧ (∀ l, within tg.loc w l → t.byte l = match v with | some n => byteOfNat n (l - tg.loc) | none => s.byte l)
      ∧ (s.task.atomic = false → ∀ n, v = some n → ∀ l, within tg.loc w l → t.mem.get l = byteOfNat n (l - tg.loc))
      ∧ (s.task.atomic = true → t.mem = s.mem)

/-- A VAMO whose elements pass their checks at places that do not overlap performs one atomic per active element: vd takes
the old values, memory the new ones, and every byte outside those places stays. Where elements fault, the others are
performed, the mask marks those, and the form traps on the lowest that faults. Inactive elements under MA follow log 16, the
model’s. (rests on R264, R265, R377, R382, R383) -/
def Obligations.VectorAtomics : Prop :=
  (∀ (i : Instr) (s : State) (o : VAmoOp) (w : Nat) (new : Nat → Nat → Nat → Option Nat) (m : Via) (tg : Nat → Target),
    vamoRow i = some (o, w, new) → s.task.atomic = false → via s s.who o.sel o.n = .ok m →
    VecOk s (atomType s w) True [o.d, o.s2, o.s3] none →
    (∀ j, acts s o.m j = true → checkAcc s s.who (elemAcc s m (s.x o.s1) (.index o.s2) (8 * w) .amo j) true = .ok (tg j)
      ∧ amoHeld s (tg j) = false ∧ Writable s (tg j).loc w) →
    (∀ j k, acts s o.m j = true → acts s o.m k = true → j ≠ k → (tg j).loc + w ≤ (tg k).loc ∨ (tg k).loc + w ≤ (tg j).loc) →
    NoVictims s → (o.rl = true → CanRelease s) →
    let old := fun j => s.number (tg j).loc w
    let v := fun j => new (s.elem o.s3.toNat (8 * w) j) (s.elem o.d.toNat (8 * w) j) (old j)
    ∃ t, exec i s = .next t
      ∧ t.me = { s.me with v := t.me.v, pend := t.me.pend, fmask := 0, pc := s.pc + 8, wait := none }
      ∧ Elsewhere s { t with freeCnt := s.freeCnt }
      ∧ TileAfter s t o.d.toNat (8 * w) (fun j => if acts s o.m j then some (old j) else none)
          (loose s (8 * w) (fun j => !selects s o.m j) s.vl)
      ∧ (∀ l, (∀ j, acts s o.m j = true → ¬ within (tg j).loc w l) → t.byte l = s.byte l)
      ∧ (∀ j l, acts s o.m j = true → within (tg j).loc w l →
          t.byte l = match v j with | some n => byteOfNat n (l - (tg j).loc) | none => s.byte l))
  ∧ (∀ (i : Instr) (s : State) (o : VAmoOp) (w : Nat) (new : Nat → Nat → Nat → Option Nat) (m : Via) (f : Nat → Except Halt Target),
    vamoRow i = some (o, w, new) → s.task.atomic = false → via s s.who o.sel o.n = .ok m →
    VecOk s (atomType s w) True [o.d, o.s2, o.s3] none →
    (∀ j, acts s o.m j = true → checkAcc s s.who (elemAcc s m (s.x o.s1) (.index o.s2) (8 * w) .amo j) true = f j
      ∧ (∀ h, f j ≠ .error (.wait h)) ∧ ∀ tg, f j = .ok tg → amoHeld s tg = false ∧ Writable s tg.loc w) →
    (∀ j k tj tk, acts s o.m j = true → acts s o.m k = true → j ≠ k → f j = .ok tj → f k = .ok tk →
      tj.loc + w ≤ tk.loc ∨ tk.loc + w ≤ tj.loc) →
    NoVictims s → CanPark s → (o.rl = true → CanRelease s) →
    let did := fun (u : State) => u.pc = s.pc ∧ (∀ r, u.x r = s.x r)
      ∧ (∀ j < 65536, u.me.fmask.getLsbD j = true ↔ stops s o.m f false j)
      ∧ (∀ l, (∀ j tg, acts s o.m j = true → f j = .ok tg → ¬ within tg.loc w l) → u.byte l = s.byte l)
      ∧ ∀ j tg, acts s o.m j = true → f j = .ok tg → u.elem o.d.toNat (8 * w) j = s.number tg.loc w
        ∧ ∀ l, within tg.loc w l →
          u.byte l = match new (s.elem o.s3.toNat (8 * w) j) (s.elem o.d.toNat (8 * w) j) (s.number tg.loc w) with
            | some n => byteOfNat n (l - tg.loc) | none => s.byte l
    ∀ k c, FirstFault s o.m f k c → c.elem = k ∧ ∃ u ps, exec i s = .next (trapWithParks u c ps) ∧ did u)

/-- A vector load whose elements pass their checks sets each active element to the bytes, or half-byte, at its place; memory
does not change. Where elements fault or park, the others are loaded, the mask marks those, and the form traps on the lowest
that faults or parks on the blocks; a unit-stride load parks as a whole. VLD.CH sees what the hart’s copies have written and
waits while words that it reads have not landed. Inactive elements under MA follow log 16, and what a unit-stride load that
parks as a whole marks log 18: the model’s. (rests on R129, R131, R246, R247, R264, R265, R376, R377, R403, R405) -/
def Obligations.VectorLoads : Prop :=
  (∀ (i : Instr) (s : State) (o : MemOp) (p : Pattern) (ch : Bool) (m : Via) (tg : Nat → Target), vldRow i = some (o, p, ch) →
    let ty := memType s.me.vty o.et
    let r := if ch then s.setMe { s.me with pend := chainPend s } else s
    VecOk s ty (p = .unit ∨ ty.sew ≠ 4) (memTiles o p) none → (s.task.atomic = true → namesScratch o.sel = false) →
    via s s.who o.sel o.n = .ok m →
    (∀ j, acts s o.m j = true → checkAcc s s.who (elemAcc s m (s.x o.s1) p ty.sew .load j) true = .ok (tg j)) →
    (ch = true → (∀ t ∈ s.part.trackers, t.len ≤ t.landed) ∧ s.me.wait = none) →
    ∃ t, exec i s = .next t ∧ VecLoaded s t
      ∧ TileAfter s t o.d.toNat ty.sew
          (fun j => if acts s o.m j then
              some (if ty.sew = 4 then r.number (tg j).loc 1 / 16 ^ (j % 2) % 16 else r.number (tg j).loc (ty.sew / 8)) else none)
          (loose s ty.sew (fun j => !selects s o.m j) s.vl))
  ∧ (∀ (i : Instr) (s : State) (o : MemOp) (p : Pattern) (m : Via) (f : Nat → Except Halt Target), vldRow i = some (o, p, false) →
    let ty := memType s.me.vty o.et
    let marked := stops s o.m f (decide (p = .unit))
    let loads := fun (u : State) => ∀ j tg, acts s o.m j = true → ¬ marked j → f j = .ok tg →
      u.elem o.d.toNat ty.sew j = if ty.sew = 4 then s.number tg.loc 1 / 16 ^ (j % 2) % 16 else s.number tg.loc (ty.sew / 8)
    VecOk s ty (p = .unit ∨ ty.sew ≠ 4) (memTiles o p) none → (s.task.atomic = true → namesScratch o.sel = false) →
    via s s.who o.sel o.n = .ok m → CanPark s →
    (∀ j, acts s o.m j = true → checkAcc s s.who (elemAcc s m (s.x o.s1) p ty.sew .load j) true = f j ∧ ∀ w, f j ≠ .error (.wait w)) →
    (∀ k c, FirstFault s o.m f k c → c.elem = k ∧ ∃ u ps, exec i s = .next (trapWithParks u c ps) ∧ Partly s u marked ∧ loads u)
    ∧ (OnlyParks s o.m f → ∃ u ps, exec i s = .next (halted u (.park ps)) ∧ Partly s u marked ∧ loads u
        ∧ ∀ j bs b, acts s o.m j = true → f j = .error (.park bs) → b ∈ bs → b ∈ ps))
  ∧ (∀ (o : MemOp) (s : State) (m : Via) (tg : Nat → Target) (j : Nat) (tr : Tracker),
    let ty := memType s.me.vty o.et
    VecOk s ty True [o.d] none → (s.task.atomic = true → namesScratch o.sel = false) → via s s.who o.sel o.n = .ok m → s.me.wait = none →
    (∀ j, acts s o.m j = true → checkAcc s s.who (elemAcc s m (s.x o.s1) .unit ty.sew .load j) true = .ok (tg j)) →
    acts s o.m j = true → tr ∈ s.part.trackers → expects tr (tg j).loc ((tg j).loc + max 1 (ty.sew / 8)) = true →
    ∃ t before places missing, exec (.vldCh o) s = .next t ∧ t.pc = s.pc ∧ t.me.wait = some (.chain before places missing) ∧ t.mem = s.mem)

/-- A vector store whose elements pass their checks lays each active element at its place, the highest element winning
where places meet; every other half-byte reads as before and nothing is published. Where elements fault, the others are
stored, the mask marks those, and the form traps on the lowest that faults, where the state that has stored can be parked; where
another device or the host holds a line that it would publish, it waits for such lines first, which is the model's choice
(log 59). (rests on R264, R265, R376, R377, R410) -/
def Obligations.VectorStores : Prop :=
  ∀ (i : Instr) (s : State) (o : MemOp) (p : Pattern) (m : Via) (f : Nat → Except Halt Target), vstRow i = some (o, p) →
    let ty := memType s.me.vty o.et
    let n := ty.sew
    let lays := fun (j h : Nat) => ∃ tg, acts s o.m j = true ∧ f j = .ok tg ∧ holdsHalf tg.loc n j h
    let stored := fun (t : State) => (∀ h, (∀ j, ¬ lays j h) → nibble t h = nibble s h)
      ∧ ∀ j h tg, acts s o.m j = true → f j = .ok tg → holdsHalf tg.loc n j h → (∀ k, j < k → ¬ lays k h) →
          nibble t h = s.elem o.d.toNat n j / 16 ^ (h - firstHalf tg.loc n j) % 16
    VecOk s ty (p = .unit ∨ n ≠ 4) (memTiles o p) none → s.task.atomic = false → via s s.who o.sel o.n = .ok m →
    (∀ j, acts s o.m j = true → checkAcc s s.who (elemAcc s m (s.x o.s1) p n .store j) false = f j ∧ (∀ w, f j ≠ .error (.wait w))
      ∧ ∀ tg, f j = .ok tg → Writable s tg.loc (max 1 (n / 8))) →
    ((∀ j, acts s o.m j = true → ∃ tg, f j = .ok tg) → ∃ t, exec i s = .next t
      ∧ t.me = { s.me with pend := t.me.pend, fmask := 0, pc := s.pc + 8, wait := none } ∧ Noted s t ∧ stored t)
    ∧ (∀ k c, FirstFault s o.m f k c → c.elem = k ∧ ∃ u ps, Partly s u (stops s o.m f false) ∧ stored u
        ∧ (CanPark u → exec i s = .next (trapWithParks u c ps))
        ∧ (¬ CanPark u → exec i s = .next (waitOn u .lines)))

/-- VSPILL stores the compressed record of a register at its place and nothing else; VFILL of an accepted record
rebuilds the register. The record of any register is accepted, has the length that its header gives, and rebuilds the
register’s VLEN bits. A record that cannot be read or written whole halts the form with no effect, and one that is
malformed traps. (rests on R264, R398, R399, R400) -/
def Obligations.RegisterSpills : Prop :=
  (∀ (o : SpillOp) (s : State) (m : Via), (s.task.atomic = true → namesScratch o.sel = false) → via s s.who o.sel o.n = .ok m →
      let img := spillImage (s.vlen / 32) (s.v o.d.toNat)
      let bytes := padTo 64 [img.1] ++ img.2
      (∀ ts, checkWhole s s.who (recordAccs s m (s.x o.s1) 0 bytes.length .store) = .ok ts →
        ∃ t, exec (.vspill o) s = .next t ∧ t.pc = s.pc + 8 ∧ (∀ r, t.x r = s.x r) ∧ ContextKept s t ∧ Noted s t
          ∧ ∀ l, t.byte l = lastWrite (writesTo ts bytes) l (s.byte l))
      ∧ (∀ hd ts, checkWhole s s.who (recordAccs s m (s.x o.s1) 0 64 .load) = .ok hd →
          let fmt := (loadRun s hd).headD 0
          spillFormatOk (s.vlen / 32) fmt = true →
          checkWhole s s.who (recordAccs s m (s.x o.s1) 64 (64 * bitsOf fmt 5 0) .load) = .ok ts →
          ∃ t, exec (.vfill o) s = .next t ∧ t.me = { s.me with v := t.me.v, pc := s.pc + 8, wait := none } ∧ SameBytes s t ∧ Noted s t
            ∧ ∀ r, t.v r = if r = o.d.toNat then spillRebuild (s.vlen / 32) (bitsOf fmt 7 6) (loadRun s ts) else s.v r)
      ∧ (∀ h, checkWhole s s.who (recordAccs s m (s.x o.s1) 0 bytes.length .store) = .error h →
          exec (.vspill o) s = .next (halted (s.noteVia o.sel o.n) h))
      ∧ (∀ h, checkWhole s s.who (recordAccs s m (s.x o.s1) 0 64 .load) = .error h →
          exec (.vfill o) s = .next (halted (s.noteVia o.sel o.n) h))
      ∧ (∀ hd, checkWhole s s.who (recordAccs s m (s.x o.s1) 0 64 .load) = .ok hd →
          let fmt := (loadRun s hd).headD 0
          (spillFormatOk (s.vlen / 32) fmt = false → exec (.vfill o) s = .next (halted (s.noteVia o.sel o.n) (.trap (trapOf .illegal 2))))
          ∧ ∀ h, spillFormatOk (s.vlen / 32) fmt = true →
            checkWhole s s.who (recordAccs s m (s.x o.s1) 64 (64 * bitsOf fmt 5 0) .load) = .error h →
            exec (.vfill o) s = .next (halted (s.noteVia o.sel o.n) h)))
  ∧ (∀ (split : Nat) (v : VReg),
      let n := vlenOf split / 32
      let img := spillImage n v
      spillFormatOk n img.1 = true ∧ img.2.length = 64 * bitsOf img.1 5 0
        ∧ spillRebuild n (bitsOf img.1 7 6) img.2 = BitVec.ofNat 16384 (v.toNat % 2 ^ (32 * n)))

/-- Each accumulator element of the tile has the dot product of its row and its column operand added as the dot
product rule says, from registers, from memory against the latch, or from a window’s rows; MMR counts a step. Other
elements keep their values, and flags are merged. (rests on R199, R201, R204, R205, R208) -/
def Obligations.MatrixProducts : Prop :=
  (∀ (d s1 s2 : Reg) (s : State),
    let ty := vtyType s.me.vty
    let nb := nbOf ty.sew ty.blen
    let rb := (s.vl * kelOf ty.sew + s.rcap ty.sew - 1) / s.rcap ty.sew
    VecOk s { ty with blen := 0 } (3 ≤ ty.fmt) [d, s1, s2] none → s.vl ≤ 64 →
    s1.toNat + s.gf + (s.gf * nb + s.rcap 8 - 1) / s.rcap 8 ≤ 32 → s2.toNat + rb + (s.vl * nb + s.rcap 8 - 1) / s.rcap 8 ≤ 32 →
    ∃ t, exec (.mma d s1 s2) s = .next t ∧ MxFrame s t ∧ SameBytes s t
      ∧ MxAfter s t d.toNat ty.fmt ty.blen
          ((List.range s.gf).map (fun m => (m, regOperand s (s1.toNat + m) ty.sew 0 (s1.toNat + s.gf) nb (m * nb))))
          ((List.range s.vl).map (fun n => regOperand s s2.toNat ty.sew (n * kelOf ty.sew) (s2.toNat + rb) nb (n * nb))))
  ∧ (∀ (d : Reg) (tn : BitVec 6) (s r : State) (ops : List Operand),
    let e := takenEntry s tn.toNat
    let l := s.myCore.latch
    EntryOk s [d] → RingFree s → s.myCore.ringSize ≠ 0 → tV e = true → tLayout e = 0 → l.full = true → s.vl = l.nl → s.vl ≤ 64 →
    sameType e l = true → s.gf ≤ tDim e 1 → (l.kt + 1) * kelOf (tSew e) ≤ tDim e 0 →
    mxRead s e ((List.range s.gf).map (fun m => (l.kt * kelOf (tSew e), m, 0, 0))) = .ok (ops, r) →
    ∃ t, exec (.mmr d tn) s = .next t ∧ Noted s r ∧ SameBytes s r
      ∧ MxFrame (r.setMyCore { r.myCore with mc := r.myCore.mc + 1 }) t
      ∧ MxAfter s t d.toNat (tFmt e) (tBlen e) ((List.range s.gf).zip ops) (latchCols l))
  ∧ (∀ (d : Reg) (tn : BitVec 6) (s1 : Reg) (s r : State) (ops : List Operand),
    let e := takenEntry s tn.toNat
    let l := s.myCore.latch
    let w := s.x s1
    let inside := convRows s e w
    EntryOk s [d] → RingFree s → tV e = true → tLayout e = 1 → bitsOf w 63 56 = 0 → bitsOf w 55 48 < tDim e 3 →
    l.full = true → s.vl = l.nl → s.vl ≤ 64 → sameType e l = true → (l.kt + 1) * kelOf (tSew e) ≤ tDim e 0 →
    mxRead s e (inside.1.map (fun p => (l.kt * kelOf (tSew e), p.2.toNat, inside.2.toNat, bitsOf w 55 48))) = .ok (ops, r) →
    ∃ t, exec (.mconv d tn s1) s = .next t ∧ Noted s r ∧ SameBytes s r ∧ MxFrame r t
      ∧ MxAfter s t d.toNat (tFmt e) (tBlen e) ((inside.1.map (·.1)).zip ops) (latchCols l))

/-- MLDB reads the chunk’s columns into the latch with its format, count and tag, and changes nothing else; a ring
shift that is due moves each member’s latch to its neighbour and counts it, and changes no other core. MLDB, MMR and MCONV
trap where the entry, the latch or the instance is not what they need, wait in a ring whose last step has not been shifted
with the entry that they have read, and halt with no effect where their reads do. (rests on R118, R198, R202, R203, R204,
R205, R206, R208) -/
def Obligations.LatchLoadsAndShifts : Prop :=
  (∀ (tn : BitVec 6) (s1 : Reg) (s r : State) (ops : List Operand),
    let e := takenEntry s tn.toNat
    let k := (s.x s1).toNat
    EntryOk s [] → RingFree s → tV e = true → tLayout e = 0 → 3 ≤ tFmt e → 0 < s.vl → s.vl ≤ 64 → tDim e 0 = kelOf (tSew e) →
    s.vl ≤ tDim e 1 → k < tDim e 2 → mxRead s e ((List.range s.vl).map (fun n => (0, n, k, 0))) = .ok (ops, r) →
    ∃ t l, exec (.mldb tn s1) s = .next t ∧ Noted s r ∧ SameBytes s r
      ∧ t = (r.setMyCore { r.myCore with latch := l }).setMe { r.me with pc := s.pc + 8, wait := none }
      ∧ l.full = true ∧ l.nl = s.vl ∧ l.kt = k ∧ sameType e l = true ∧ latchCols l = ops)
  ∧ (∀ (gang ring : Nat) (s : State),
    let ms := ringMembers s gang ring
    (ringDue s gang ring = false → exec (.ringShift gang ring) s = .next s)
    ∧ (ringDue s gang ring = true → ∃ t, exec (.ringShift gang ring) s = .next t ∧ t = { s with cores := t.cores }
      ∧ (∀ p c q, ms[p]? = some c → ms[(p + ms.length - 1) % ms.length]? = some q →
          t.core c = { s.core c with latch := (s.core q).latch, sc := (s.core c).sc + 1 })
      ∧ ∀ c, c ∉ ms → t.core c = s.core c))
  ∧ (∀ (i : Instr) (s : State) (tiles : List Reg) (tn : BitVec 6) (ok : Tid → Prop), mxForm s i = some (tiles, tn, ok) →
    EntryOk s tiles →
    let e := takenEntry s tn.toNat
    let illegal := exec i s = .next (halted s (.trap (trapOf .illegal 1)))
    (s.myCore.ringSize ≠ 0 → ringWorker s = false → illegal)
    ∧ (¬ ok e → illegal)
    ∧ (ok e → s.myCore.ringSize ≠ 0 → ringWorker s = true → s.myCore.mc ≠ s.myCore.sc → exec i s = .next (waitOn s (.ring e)))
    ∧ (ok e → RingFree s → ¬ mxLatchOk s e i → illegal)
    ∧ (∀ h, ok e → RingFree s → mxLatchOk s e i → mxRead s e (mxWants s e i) = .error h → exec i s = .next (halted s h)))

/-- MSTC whose accesses pass their checks lays each row’s codes and then its scale bytes, row by row, at the places that the
entry gives, merges the flags, and changes nothing else. It traps where the entry does not serve, and halts with no effect
where an access does. (rests on R110, R207, R264, R340) -/
def Obligations.MatrixStores : Prop :=
  ∀ (vs : Reg) (tn : BitVec 6) (s1 : Reg) (et rm : BitVec 3) (s : State) (ts : List (Target × Nat)),
    let ty := fltType s.me.vty et
    let e := takenEntry s tn.toNat
    let w := s.x s1
    let rows := mstcRows s vs et rm e
    let codes := rows.flatMap (fun r => mstcPieces (tData e) w r.1 r.2.1.length)
    let scales := rows.flatMap (fun r => mstcPieces (tScale e) w r.1 r.2.2.1.length)
    let serves := s.vl ≤ 64 ∧ tV e = true ∧ tLayout e = 0 ∧ tFmt e = ty.fmt ∧ tSew e = ty.sew
      ∧ bitsOf w 15 0 + s.vl ≤ tDim e 0 ∧ bitsOf w 31 16 + s.gf ≤ tDim e 1 ∧ bitsOf w 47 32 < tDim e 2 ∧ bitsOf w 63 48 < tDim e 3
      ∧ (tBlen e ≠ 0 → bitsOf w 15 0 % tBlen e = 0 ∧ s.vl % tBlen e = 0)
    VecOk s { ty with blen := 0 } (ty.fmt ≠ 0) [vs] (some rm) →
    (¬ serves → exec (.mstc vs tn s1 et rm) s = .next (halted s (.trap (trapOf .illegal 1))))
    ∧ (∀ h, serves → keepEntry e (checkRun s s.who (codes ++ scales)) = .error h → exec (.mstc vs tn s1 et rm) s = .next (halted s h))
    ∧ (serves → checkRun s s.who (codes ++ scales) = .ok ts → s.task.atomic = false → ∃ t, exec (.mstc vs tn s1 et rm) s = .next t ∧ Noted s t
      ∧ t.me = { s.me with pend := t.me.pend, vfcsr := s.me.vfcsr ||| BitVec.ofNat 64 (orAll (rows.map (fun r => r.2.2.2)) % 32),
                           pc := s.pc + 8, wait := none }
      ∧ ∀ l, t.byte l = lastWrite (mstcWrites e w rows ts (ts.drop codes.length)) l (s.byte l))

/-- TDSET puts a well-formed image into its entry, empties it for an image without V, and traps ILLEGAL with DETAIL 1
for any other; TDGET stores the entry’s 32 bytes and nothing else. An access that fails halts either with no effect. (rests
on R115, R116, R117, R118, R264, R364) -/
def Obligations.TensorEntries : Prop :=
  (∀ (tn : BitVec 6) (s1 : Reg) (s : State) (h : Halt),
    (checkAcc s s.who (accGv (s.x s1) 32 .load (decide ((s.x s1).toNat % 32 ≠ 0))) true = .error h →
      exec (.tdset tn s1) s = .next (halted s h))
    ∧ (checkAcc s s.who (accGv (s.x s1) 32 .store (decide ((s.x s1).toNat % 32 ≠ 0))) true = .error h →
      exec (.tdget tn s1) s = .next (halted s h)))
  ∧ (∀ (tn : BitVec 6) (s1 : Reg) (s : State) (tg : Target),
    checkAcc s s.who (accGv (s.x s1) 32 .load (decide ((s.x s1).toNat % 32 ≠ 0))) true = .ok tg →
    let img : Tid := BitVec.ofNat 256 (s.number tg.loc 32)
    (bitOf img 0 = true → tWf img = true → ∃ t, exec (.tdset tn s1) s = .next t ∧ t.pc = s.pc + 8 ∧ (∀ r, t.x r = s.x r)
      ∧ ContextKept s t ∧ t.me.pend = s.me.pend ∧ SameBytes s t ∧ Noted s t ∧ ∀ n, t.tid n = if n = tn.toNat then img else s.tid n)
    ∧ (bitOf img 0 = false → ∃ t, exec (.tdset tn s1) s = .next t ∧ t.pc = s.pc + 8 ∧ (∀ r, t.x r = s.x r)
      ∧ ContextKept s t ∧ t.me.pend = s.me.pend ∧ SameBytes s t ∧ Noted s t ∧ ∀ n, t.tid n = if n = tn.toNat then 0 else s.tid n)
    ∧ (bitOf img 0 = true → tWf img = false → exec (.tdset tn s1) s = .next (halted s (.trap (trapOf .illegal 1)))))
  ∧ (∀ (tn : BitVec 6) (s1 : Reg) (s : State) (tg : Target),
    checkAcc s s.who (accGv (s.x s1) 32 .store (decide ((s.x s1).toNat % 32 ≠ 0))) true = .ok tg →
    ∃ t, exec (.tdget tn s1) s = .next t ∧ t.pc = s.pc + 8 ∧ (∀ r, t.x r = s.x r) ∧ ContextKept s t ∧ Noted s t
      ∧ (∀ n, t.tid n = s.tid n)
      ∧ ∀ l, t.byte l = if tg.loc ≤ l ∧ l < tg.loc + 32 then byteOfNat (s.tid tn.toNat).toNat (l - tg.loc) else s.byte l)

/-- VBOX and VTRI write the result of their test, where the rules state one, into the active elements of their destination
registers, and nothing else. Inactive elements under MA follow log 16, VBOX’s entry of +0 log 34, and where no result is
stated log 33: the model’s. (rests on R222, R224, R225, R386, R412) -/
def Obligations.RayTests : Prop :=
  ∀ (i : Instr) (s : State) (d s1 s2 : Reg) (m : MaskSel) (n k : Nat) (res : Nat → List (Option Nat)),
    rayRow s i = some (d, s1, s2, m, n, k, res) → RayOk s → s1.toNat + 8 ≤ 32 → s2.toNat + k ≤ 32 → d.toNat + n ≤ 32 →
    ∃ t, exec i s = .next t ∧ VecFrame s t 0 ∧ t.me.k = s.me.k ∧ ColumnsAfter s t d.toNat n m res

/-- A texture form whose texel reads pass their checks writes the four channels that the filter plan gives, where the rules
state them, into the active elements; memory does not change. A descriptor that cannot be read halts the form with no
effect; where elements fault or park, the others are written, the mask marks those, and the form traps on the lowest that
faults, or parks. Inactive elements under MA follow log 16, and corners of the level of detail and of the filter log 34: the
model’s. (rests on R226, R227, R228, R229, R230, R231, R232, R264, R265, R370) -/
def Obligations.TextureReads : Prop :=
  (∀ (i : Instr) (s r : State) (d s1 : Reg) (n : BitVec 8) (m : MaskSel) (limit : Bool) (plan : TexDesc → Nat → Option Plan)
    (desc : TexDesc) (reads : Nat → List (Word × Target × Nat)), texRow s i = some (d, s1, n, m, limit, plan) → RayOk s →
    d.toNat ≤ 28 → s1.toNat ≤ 30 → limit = true → readDesc s n = .ok (desc, r) →
    (∀ j p, acts s m j = true → plan desc j = some p → readsOf r r.who (planAccs desc j p) = .ok (reads j)) →
    ∃ t, exec i s = .next t ∧ Noted s r ∧ VecLoaded s t
      ∧ ColumnsAfter s t d.toNat 4 m (fun j => texValue s desc (reads j) (plan desc j)))
  ∧ (∀ (i : Instr) (s : State) (d s1 : Reg) (n : BitVec 8) (m : MaskSel) (limit : Bool) (plan : TexDesc → Nat → Option Plan),
    texRow s i = some (d, s1, n, m, limit, plan) → RayOk s → d.toNat ≤ 28 → s1.toNat ≤ 30 → limit = true →
    (∀ h, readDesc s n = .error h → exec i s = .next (halted s h))
    ∧ ∀ (r : State) (desc : TexDesc), readDesc s n = .ok (desc, r) → CanPark s →
      let f := fun j => match plan desc j with
        | some p => readsOf r r.who (planAccs desc j p)
        | none => .ok []
      let wrote := fun (u : State) => ∀ j k l c, acts s m j = true → f j = .ok l → k < 4 →
        (texValue s desc l (plan desc j))[k]? = some (some c) → u.elem (d.toNat + k) 32 j = c % 2 ^ 32
      (∀ j h, acts s m j = true → f j ≠ .error (.wait h)) →
      (∀ k c, FirstFault s m f k c → c.elem = k ∧ ∃ u ps, exec i s = .next (trapWithParks u c ps) ∧ Partly s u (stops s m f false) ∧ wrote u)
      ∧ (OnlyParks s m f → ∃ u ps, exec i s = .next (halted u (.park ps)) ∧ Partly s u (stops s m f false) ∧ wrote u))

/-- TCOMMIT publishes and offers its colours; an offer whose turn has come blends the covered pixels in order, and moves
NEXT, and RETIRE for the last offer, which publishes them all; one ahead of its turn is held, and any other refused with its
reason; a line of the tile that is held elsewhere is asked for first. A header that the commit unit may not write halts
TCOMMIT with no effect, and a refusal traps it with TILEFAULT. A stalled tile’s report is raised once. What the commit unit
may write in procedural pages, and that no agent reads a blend before the retire event, is log 19, and that it asks for a
held line log 59: the model’s. (rests on R234, R235, R236, R237, R238, R362) -/
def Obligations.TileCommits : Prop :=
  (∀ (s1 s2 : Reg) (m : MaskSel) (s : State) (tg : Target) (room : Nat), s.me.wait = none → CanRelease s →
    vtyIll s.me.vty = false → s.vl = 64 → s.gf = 1 → (vtySew s.me.vty = 32 ∨ vtySew s.me.vty = 64) →
    tileBad 1 (vtyType s.me.vty).blen s1.toNat = false → commitPlace s (commitAddr (s.x s2)) = .ok (tg, room) →
    ∃ t, exec (.tcommit s1 s2 m) s = .next t ∧ t.pc = s.pc ∧ (∀ r, t.x r = s.x r) ∧ Published s t
      ∧ t.me.wait = some (.tile (offerOf s s1 m (s.x s2) tg room) none))
  ∧ (∀ (s1 s2 : Reg) (m : MaskSel) (s : State),
    (∀ h, s.me.wait = none → s.task.atomic = false → vtyIll s.me.vty = false → s.vl = 64 → s.gf = 1 →
      (vtySew s.me.vty = 32 ∨ vtySew s.me.vty = 64) → tileBad 1 (vtyType s.me.vty).blen s1.toNat = false →
      commitPlace s (commitAddr (s.x s2)) = .error h → exec (.tcommit s1 s2 m) s = .next (halted s h))
    ∧ ∀ (o : TileOffer) (k next : Nat), s.me.wait = some (.tile o (some (k, next))) →
      exec (.tcommit s1 s2 m) s = .next (halted s (.trap { trapAt .tilefault k 0 o.addr with
        aux := BitVec.ofNat 256 (o.addr.toNat + 2 ^ 64 * next) })))
  ∧ (∀ (o : TileOffer) (s : State) (c : CtxId), offerer s o = some c → Calm s →
    let h := tileHeader s o.hdr
    let n := sliceOf o.hdr
    (verdict s o = .blended → heldOf (s.slice n) o.hdr = [] → Writable s o.hdr (64 + 64 * pixelBytes h) →
      (∀ l, within o.hdr (64 + 64 * pixelBytes h) l → tilePage s o (l / 4096) = true) → Unretired s o.hdr (64 + 64 * pixelBytes h) →
      ∃ t, exec (.tileOffer o) s = .next t ∧ (t.ctx c).pc = (s.ctx c).pc + 8 ∧ (t.ctx c).wait = none
        ∧ (∀ i < 64, tileBytes t o.hdr (o.hdr + 64 + pixelBytes h * i) (pixelBytes h)
            = let old := tileBytes s o.hdr (o.hdr + 64 + pixelBytes h * i) (pixelBytes h)
              if o.mask.getLsbD i then blendPixel h ((o.colours.drop i).headD 0) old % 256 ^ pixelBytes h else old)
        ∧ (o.last = false → t.mem = s.mem) ∧ (o.last = true → Table.get [] t.blends o.hdr = [])
        ∧ tlNext (tileHeader t o.hdr) = (tlNext h + 1) % 4096
        ∧ tlRetire (tileHeader t o.hdr) = (if o.last then (tlRetire h + 1) % 2 ^ 32 else tlRetire h)
        ∧ ∀ l, ¬ within o.hdr (64 + 64 * pixelBytes h) l → t.mem.get l = s.mem.get l)
    ∧ (verdict s o = .held → ∃ t, exec (.tileOffer o) s = .next t ∧ (t.ctx c).pc = (s.ctx c).pc + 8 ∧ (t.ctx c).wait = none
        ∧ t.mem = s.mem ∧ (heldOf (t.slice n) o.hdr).map (·.offer) = (heldOf (s.slice n) o.hdr).map (·.offer) ++ [o])
    ∧ (∀ k, verdict s o = .refused k → ∃ t, exec (.tileOffer o) s = .next t ∧ t.mem = s.mem
        ∧ (t.ctx c).wait = some (.tile o (some (k, tlNext h))))
    ∧ (∀ line, verdict s o = .asks line → exec (.tileOffer o) s = .next (askHolders s line)))
  ∧ (∀ (hdr : Nat) (s u : State) (h : Held) (hs : List Held), hdr ∈ stalledTiles s → stallReport s hdr = .done u →
    heldOf (s.slice (sliceOf hdr)) hdr = h :: hs →
    ∃ t, exec (.tileStallFault hdr) s = .next t
      ∧ (t.slice (sliceOf hdr)).raised = (s.slice (sliceOf hdr)).raised ++ [hdr]
      ∧ bitsOf (Table.get 0 (t.die h.die).supq h.recNo) 191 160
          = (bitsOf (Table.get 0 (s.die h.die).supq h.recNo) 191 160 + 1) % 2 ^ 32)

/-- In S-mode they publish and drop every matching translation of every core and cluster and no other; in U-mode they
trap ILLEGAL. (rests on R277, R372) -/
def Obligations.TranslationInvalidations : Prop :=
  ∀ (i : Instr) (s : State) (p : TlbEntry → Bool), invRow s i = some p →
    (s.task.smode = true → CanRelease s → ∃ t, exec i s = .next t ∧ t.pc = s.pc + 8 ∧ (∀ r, t.x r = s.x r) ∧ ContextKept s t
      ∧ Elsewhere s t ∧ Published s t
      ∧ (∀ n, (t.core n).tlb = (s.core n).tlb.filter (fun e => !p e))
      ∧ ∀ n, (t.cluster n).tlb = (s.cluster n).tlb.filter (fun e => !p e))
    ∧ (s.task.smode = false → exec i s = .next (halted s (.trap (trapOf .illegal 0))))

/-- A dispatch places its task on the partition, and a new task starts with the registers that its header gives. A steal
probe takes half of what matches, a team moves whole between dies, and a fill’s generator is queued with its slot. Where the
model chooses among tasks that the spec leaves open, the statement takes the choice as given (logs 3 and 6); the segment
that a team leaves and the home that takes it, ties by number, are log 53, the model’s. (rests on R29, R175, R176, R179,
R180, R181, R183, R244, R251) -/
def Obligations.DispatchEvents : Prop :=
  (∀ (core part : Nat) (s u : State), dispatchTo s core part = some u →
    exec (.taskDispatch core part) s = .next u ∧ ∃ id, Dispatched u core part id)
  ∧ (∀ (core part slice : Nat) (s u : State) (e : QEntry), takeFromSeg s core part slice e = some u → e.run = false → e.task = none →
    let id := s.sched.nextTask
    (u.partAt core part).task = some id ∧ TaskIs u id e.header e.colour e.launch ∧ Started u core part e.header ∧ u.sched.nextTask = id + 1
      ∧ (u.core core).colour = some e.colour ∧ (u.seg slice).sinceOldest = ((s.seg slice).sinceOldest + 1) % 16)
  ∧ (∀ (core victim p : Nat) (s : State) (es : List QEntry), idlePart s core = some p → stealable s core p victim = es →
    ∃ t, exec (.stealProbe core victim) s = .next t
      ∧ (es ≠ [] → (t.core victim).deque = (stolen es).foldl List.erase (s.core victim).deque ∧ (t.core core).probes = 0)
      ∧ (es = [] → t = s.setCore core { s.core core with probes := min 4 ((s.core core).probes + 1) }))
  ∧ (∀ (src dst colour n : Nat) (s : State), src ≠ dst → overloaded s src colour = true → advertises s dst colour = true →
    ((upTo 32).map (fun i => 32 * src + i)).find? (fun n => (s.seg n).entries.any (mayMigrate s colour)) = some n →
    ∃ t team aff, exec (.teamMigrate src dst colour) s = .next t ∧ t = { s with sched := t.sched }
      ∧ team = ((s.seg n).entries.filter (fun e => mayMigrate s colour e && decide (hAff e.header = aff))).take 16 ∧ team ≠ []
      ∧ t.sched.teams = s.sched.teams ++ [{ src := src, dst := dst, colour := colour, entries := team }]
      ∧ (t.seg n).entries = (s.seg n).entries.filter (fun e => !team.contains e)
      ∧ ∀ m, m ≠ n → t.seg m = s.seg m)
  ∧ (∀ (s : State) (tm : Team) (ts : List Team), s.sched.teams = tm :: ts → teamFits s = true →
    let n := leastOccupied s tm.dst
    ∃ t, exec .teamArrive s = .next t ∧ t.sched.teams = ts
      ∧ (t.seg n).entries.map (·.header) = (s.seg n).entries.map (·.header) ++ tm.entries.map (·.header)
      ∧ (∀ p, Table.get 0 (t.seg n).next p = Table.get 0 (s.seg n).next p + (tm.entries.filter (fun e => hPrio e.header = p)).length)
      ∧ ∀ m, m ≠ n → t.seg m = s.seg m)
  ∧ (∀ (range block j : Nat) (s : State) (f : Fill), let b : BlockId := { range := range, block := block }
    fillOf s b = some f → f.slot = none → freeSlot s range = some j →
    queueRoom s (generatorHeader s b j) (rangeColour (s.range range)) none = true →
    ∃ t, exec (.generatorQueue range block) s = .next t ∧ t.fill.slots = s.fill.slots ++ [(range, j, 0)]
      ∧ t.fill.fills = s.fill.fills.map (fun x => if x.blk = b then { x with slot := some j } else x)
      ∧ t.sched = (enqueue s (generatorHeader s b j) (rangeColour (s.range range)) 0 (some b) none).sched)

/-- A wake marks its context and runs its task; an expired back-off is cleared; an atomic task whose reads another has
written is queued again with its signatures, held headers and contexts gone, and no byte changes. (rests on R25, R30,
R33, R34, R173, R197) -/
def Obligations.TaskEvents : Prop :=
  (∀ (c : CtxId) (s : State), (s.ctx c).wait.isSome = true →
    ∃ t, exec (.contextWake c.core c.part c.tail) s = .next t ∧ t = { s with ctxs := t.ctxs, tasks := t.tasks }
      ∧ t.ctx c = { s.ctx c with woken := true } ∧ (∀ d : CtxId, d.key ≠ c.key → t.ctx d = s.ctx d)
      ∧ ∀ id, t.taskAt id = if (s.partAt c.core c.part).task = some id ∧ (s.taskAt id).state = .waiting
          then { s.taskAt id with state := .running } else s.taskAt id)
  ∧ (∀ (id r : Nat) (s : State), (s.taskAt id).retryAt = some r → r ≤ s.time →
    ∃ t, exec (.backoffExpiry id) s = .next t ∧ t = { s with tasks := t.tasks }
      ∧ ∀ n, t.taskAt n = if n = id then { s.taskAt id with retryAt := none } else s.taskAt n)
  ∧ (∀ (id : Nat) (s : State), (s.taskAt id).atomic = true → (s.taskAt id).live = true →
    (∃ x ∈ (s.taskAt id).others, x ∈ (s.taskAt id).reads) →
    let k := s.taskAt id
    ∃ t, exec (.atomicAbort id) s = .next t ∧ t.mem = s.mem
      ∧ t.taskAt id = { k with state := .queued, reads := [], writes := [], others := [], held := [], waitsOn := [] }
      ∧ (t.partAt k.core k.part).task = none
      ∧ ∀ tail, t.ctx { core := k.core, part := k.part, tail := tail } = Ctx.empty)

/-- The doorbell moves LRTAIL or raises LROVF; a record is read from the ring, accepted with its handles or dropped with
LRERR counted, released once its waits are over, and completed with its status in a completion record where it asks for one.
A line that another device owns is asked for first. What else is malformed is log 57, that a line is asked for first log 59,
and what becomes of the counters of nodes that never became ready log 69: the model’s. (rests on R165, R166, R167, R168,
R170, R195, R290, R299) -/
def Obligations.LaunchEvents : Prop :=
  (∀ s : State, s.bar0.ready = true → s.bar0.lrsize ≠ 0 → s.bar0.lrhead ≠ s.bar0.lrtail → s.sched.accepting = none →
    let a := s.bar0.lrbase.toNat + 64 * (s.bar0.lrhead.toNat % 2 ^ (s.bar0.lrsize.toNat % 32))
    (∀ h l, physical s a = some (h, l) → recordLine s = none → (∀ x ∈ sectorsAt l 64, s.sectorBad x = false) →
      ∃ u t r, exec .launchRecordRead s = .next t ∧ Looked s u ∧ LaunchFrame u t ∧ t.bar0 = s.bar0
        ∧ t.sched.accepting = some s.sched.nextLaunch ∧ t.sched.nextLaunch = s.sched.nextLaunch + 1
        ∧ Table.find t.sched.launches s.sched.nextLaunch = some r ∧ r.addr = a ∧ r.record = BitVec.ofNat 512 (s.pub l 64))
    ∧ ((physical s a = none ∨ ∃ h l x, physical s a = some (h, l) ∧ recordLine s = none ∧ x ∈ sectorsAt l 64 ∧ s.sectorBad x = true) →
      ∃ u t, exec .launchRecordRead s = .next t ∧ Looked s u ∧ LaunchFrame u t ∧ t.sched = s.sched ∧ Passed s t
        ∧ t.bar0.lrerr = s.bar0.lrerr + 1 ∧ t.bar0.lrrd = true)
    ∧ (∀ line, recordLine s = some line → asked s line = false → exec .launchRecordRead s = .next (askHolders s line)))
  ∧ (∀ (v : Word) (s : State), s.bar0.lrsize ≠ 0 →
    let ahead := (v.toNat % 2 ^ 32 + 2 ^ 32 - s.bar0.lrhead.toNat) % 2 ^ 32
    (ahead ≤ 2 ^ (s.bar0.lrsize.toNat % 32) → ∃ t, exec (.launchDoorbell v) s = .next t
      ∧ t = { s with bar0 := { s.bar0 with lrtail := t.bar0.lrtail } } ∧ t.bar0.lrtail.toNat = v.toNat % 2 ^ 32)
    ∧ (2 ^ (s.bar0.lrsize.toNat % 32) < ahead →
      exec (.launchDoorbell v) s = .next { s with bar0 := { s.bar0 with lrovf := true } }))
  ∧ (∀ (id : Nat) (s : State), s.sched.accepting = some id →
    let l := Table.get Launch.empty s.sched.launches id
    (∀ n rd wr hs, launchFields l.record = true → handleList s l.record = .ok (rd, wr) → launchLoad s l.record = .ok (hs, n) →
      let new := ((rd ++ wr).filter (fun h => (Table.find s.sched.handles h).isNone)).length
      s.sched.handles.length + new ≤ 4096 → (lKind l.record = 1 → staged s + hs.length ≤ 1048576) →
      ∃ u t, exec .launchAccept s = .next t ∧ Looked s u ∧ LaunchFrame u t ∧ t.sched.accepting = none ∧ Passed s t
        ∧ Table.find t.sched.launches id = some { l with waits := handleWaits s rd wr, headers := hs, left := n }
        ∧ (∀ h ∈ wr, Table.get { writer := none, readers := [] } t.sched.handles h = { writer := some id, readers := [] })
        ∧ ∀ h ∈ rd, h ∉ wr → id ∈ (Table.get { writer := none, readers := [] } t.sched.handles h).readers)
    ∧ ((launchFields l.record = false ∨ (awaited (handleList s l.record) = none ∧ awaited (launchLoad s l.record) = none
        ∧ ((∃ h, handleList s l.record = .error h) ∨ ∃ h, launchLoad s l.record = .error h))) → l.map = none →
      ∃ u t, exec .launchAccept s = .next t ∧ Looked s u ∧ LaunchFrame u t ∧ t.sched.accepting = none ∧ Passed s t
        ∧ t.sched.launches = Table.del s.sched.launches id ∧ t.bar0.lrerr = s.bar0.lrerr + 1
        ∧ (lCring l.record ≠ 0 → ∃ d, t.sched.due = s.sched.due ++ [d] ∧ d.ring.toNat = lCring l.record ∧ bitsOf d.body 35 32 = 4))
    ∧ (∀ line, launchFields l.record = true → (awaited (handleList s l.record)).or (awaited (launchLoad s l.record)) = some line →
      asked s line = false → exec .launchAccept s = .next (askHolders s line)))
  ∧ (∀ (id : Nat) (s : State) (l : Launch), Table.find s.sched.launches id = some l → releasable s id l = true →
    ∃ t, exec (.launchRelease id) s = .next t ∧ t = { s with sched := t.sched }
      ∧ Table.find t.sched.launches id = some { l with released := true, headers := if lKind l.record = 1 then [] else l.headers }
      ∧ t.sched.graphQ = s.sched.graphQ ++ (if lKind l.record = 1 then l.headers.map (fun h => (h, lColour l.record, id)) else []))
  ∧ (∀ (id : Nat) (s : State) (l : Launch), Table.find s.sched.launches id = some l → launchOver s id l = true →
    ∃ t, exec (.launchDone id) s = .next t ∧ t = { s with sched := t.sched, bar0 := t.bar0, dies := t.dies }
      ∧ t.sched.launches = Table.del s.sched.launches id
      ∧ (∀ e ∈ t.sched.handles, e.2.writer ≠ some id ∧ id ∉ e.2.readers)
      ∧ (l.map = none → t.dies = s.dies)
      ∧ (∀ m k, l.map = some m → k ∈ unready s m → cntV (Table.get 0 (t.die (k / 2 ^ 14)).cnt (k % 2 ^ 14)) = false)
      ∧ t.bar0 = { s.bar0 with lrerr := if l.bad then s.bar0.lrerr + 1 else s.bar0.lrerr }
      ∧ (lCring l.record = 0 → t.sched.due = s.sched.due)
      ∧ (lCring l.record ≠ 0 → ∃ d, t.sched.due = s.sched.due ++ [d] ∧ d.ring.toNat = lCring l.record
          ∧ bitsOf d.body 35 32 = (if l.bad then 4 else 0)))

/-- An expanded graph’s counters lie in the table as its nodes say; a gang whose cores all fit is created whole with
its roles, and otherwise reserves the free partitions that it needs; a reservation past its window lapses and nothing
else changes. (rests on R168, R169, R170, R182, R36, R37, R41, R172) -/
def Obligations.GraphsAndGangs : Prop :=
  (∀ (id : Nat) (s u : State) (l : Launch) (ns : List (BitVec 128)), Table.find s.sched.launches id = some l → expandGraph s id = .done u →
    graphNodes s (lColour l.record) (lTarget l.record) = .ok ns → (∀ e ∈ ns, bitsOf e 31 0 ≠ 0) →
    exec (.graphExpand id) s = .next u
    ∧ ∃ map, map < 4096 ∧ Table.find u.sched.launches id = some { l with map := some map, left := ns.length }
      ∧ (Table.get [] u.sched.maps map).length = ns.length
      ∧ ∀ p ∈ (Table.get [] u.sched.maps map).zip ns,
          let e := Table.get 0 (u.die (p.1 / 2 ^ 14)).cnt (p.1 % 2 ^ 14)
          p.1 / 2 ^ 14 = bitsOf p.2 34 32 ∧ cntV e = true ∧ cntMap e = map ∧ cntPend e = bitsOf p.2 31 0 ∧ cntHdrs e = bitsOf p.2 63 48
            ∧ cntColour e = lColour l.record ∧ bitsOf e 127 77 = bitsOf p.2 127 77)
  ∧ (∀ (id d n : Nat) (s : State) (l : Launch) (r : BindRec), Table.find s.sched.launches id = some l → pendingGang l = true →
    gangRec s l = some (d, n, r) →
    let g := l.headers.headD 0
    let cores := recCores d r
    (s.mgmt.stopped = false → (∀ c ∈ cores, coreFits s id c g r = true) → ∃ t l', exec (.rollCall id) s = .next t
      ∧ Table.find t.sched.launches id = some l' ∧ l'.gang = some id ∧ l'.left = cores.length * (gRoleList g).length
      ∧ (∀ c ∈ cores, ∃ h, (t.core c).gang = some h ∧ h.id = id ∧ h.roles = gRoles g ∧ h.done = 0)
      ∧ ∀ p ∈ t.parts, p.2.reserved ≠ some id)
    ∧ ((∃ c ∈ cores, coreFits s id c g r = false) → ∃ t, exec (.rollCall id) s = .next t ∧ t = { s with parts := t.parts }
      ∧ ∀ c ∈ cores, gangFor s c = some id → ∀ p < 8, (t.partAt c p).task = (s.partAt c p).task
          ∧ (t.partAt c p).reserved = if p ∈ neededParts s c g r ∧ (s.partAt c p).task = none then some id else none))
  ∧ (∀ (die rec : Nat) (s : State), bOpen (s.bindRec die rec) s.time = false →
    ∃ t, exec (.reservationLapse die rec) s = .next t ∧ t = { s with parts := t.parts }
      ∧ (∀ p ∈ t.parts, lapsed s die (s.bindRec die rec) p.1 p.2 = false)
      ∧ t.parts.map (fun p => (p.1, { p.2 with reserved := none })) = s.parts.map (fun p => (p.1, { p.2 with reserved := none })))

/-- A bell closes its record’s cores to dispatch; when its grace is over the colour’s cores are saved and cleared,
scratchpads read 0, and no task stays, or a line for which a task waits is asked for; the switch completes, or restores the
next colour on its cores. That steps 3 to 5 are one event, keep what they save beside memory and are undone when the switch
completes is log 46, and that a held line is asked for log 59: the model’s. (rests on R162, R172, R272, R273, R276) -/
def Obligations.BellEvents : Prop :=
  (∀ (die rec : Nat) (s : State), bellRings s die rec = true →
    ∃ t, exec (.bell die rec) s = .next t ∧ t = { s with dies := t.dies }
      ∧ Table.find (t.die die).bellAt rec = some (bWend (s.bindRec die rec))
      ∧ ∀ core part, dieOf core = die → bellOn s die (s.bindRec die rec) (core % Config.coresPerDie) = true → openRecs t core part = [])
  ∧ (∀ (die rec : Nat) (s s1 : State), graceOver s die rec = true →
    let r := s.bindRec die rec
    let cores := bellCores s die r
    (stopAll s (cores.flatMap (tasksOn s)) = (s1, none) →
      ∃ t v, exec (.bellDeadline die rec) s = .next t ∧ t.saved = s1.saved ++ [v] ∧ v.die = die ∧ v.recNo = rec ∧ v.colour = bColour r
        ∧ v.cores = s1.cores.filter (fun e => cores.contains e.1) ∧ v.parts = s1.parts.filter (fun e => cores.contains (e.1 / 8))
        ∧ v.ctxs = s1.ctxs.filter (fun e => cores.contains (e.1 / 16))
        ∧ ∀ c ∈ cores, (t.core c).colour = none ∧ (t.core c).deque = [] ∧ (t.core c).gang = none
            ∧ (∀ p < 8, (t.partAt c p).task = none)
            ∧ ∀ l, homeOfLoc l = .scratch c → t.mem.get l = 0)
    ∧ (∀ line, stopAll s (cores.flatMap (tasksOn s)) = (s1, some line) → exec (.bellDeadline die rec) s = .next (askHolders s1 line)))
  ∧ (∀ (die rec : Nat) (s : State),
    (switchDone s die rec = true → ∃ t, exec (.colourSwitchComplete die rec) s = .next t
      ∧ (t.die die).bellAt = Table.del (s.die die).bellAt rec)
    ∧ (∀ r c, switchDone s die rec = false → (s.die die).bind = [(rec, r)] → restorable s die r = [c] →
      ∃ t, exec (.colourSwitchComplete die rec) s = .next t ∧ (t.core c).colour = some (bColour r) ∧ (t.core c).pkey = bPkey r))

/-- A message with a valid key reaches its engine, any other is diverted to its supervisor with a CONTAIN record; a copy or
fill within one block lays exactly its bytes; PREFILL of a FILLED block completes at once, one of a TURNING block waits, in
its list or for 4 microseconds, and one of a BLANK block starts its fill and waits, or waits so. That a request is made in
one step, and that one without a completion publishes when it ends, is log 47, the model’s. (rests on R186, R187, R188,
R189, R191, R192, R193, R249, R258) -/
def Obligations.MessageEvents : Prop :=
  (∀ (core part : Nat) (s : State) (m : Msg) (rest : List Msg), (s.partAt core part).fifo = m :: rest → (inboxOf s m).length < 64 →
    (∀ d ∈ s.sched.diverts, d.unit ≠ unitFor m) →
    ((mKey m) ∈ keysFor s m → ∃ t, exec (.messageDeliver core part) s = .next t ∧ (t.partAt core part).fifo = rest
        ∧ inboxOf t m = inboxOf s m ++ [m] ∧ t.mem = s.mem ∧ t.sched = s.sched)
    ∧ ((mKey m) ∉ keysFor s m → earlier s m = [] → savedAhead s m = false → recordAhead s m = false →
      ∃ t d, exec (.messageDeliver core part) s = .next t ∧ (t.partAt core part).fifo = rest
        ∧ inboxOf t m = inboxOf s m ∧ t.sched.diverts = s.sched.diverts ++ [d] ∧ d.unit = unitFor m
        ∧ d.die = (s.taskAt m.task).die ∧ d.recNo = (s.taskAt m.task).recNo
        ∧ bitsOf d.record 263 256 = 11 ∧ bitsOf d.record 303 288 = 0 ∧ bitOf d.record 269 = false
        ∧ bitsOf d.record 639 384 = m.w0.toNat + 2 ^ 64 * m.w1.toNat + 2 ^ 128 * m.w2.toNat + 2 ^ 192 * m.w3.toNat
        ∧ (mRkind m = 2 → ∃ e, t.sched.due = s.sched.due ++ [e] ∧ e.ring = mRing m ∧ bitsOf e.body 35 32 = 3 ∧ bitsOf e.body 47 40 = 11))
    ∧ ((mKey m) ∉ keysFor s m → (earlier s m ≠ [] ∨ savedAhead s m = true ∨ recordAhead s m = true) → exec (.messageDeliver core part) s = .next s))
  ∧ (∀ (cl : Nat) (s s1 : State) (m : Msg) (dst : Target), takeRequest s cl 0 = some (m, s1) → mOp m ≤ 1 →
    bitsOf m.w0 30 24 = 0 → m.done = 0 → m.pend = [] → mRkind m = 0 → 0 < mLen m → m.w2.toNat % 32 + mLen m ≤ 32 →
    let u := noteReads s1 m (copyPieces m (mLen m))
    engineWrite u m m.w2 (mLen m) = .ok dst → Writable u dst.loc (mLen m) → Calm s →
    (∀ l c, within dst.loc (mLen m) l → homeOfLoc l = .scratch c → (s.core c).colour = some m.colour) →
    (mOp m = 1 → ∃ t, exec (.copyFill cl) s = .next t ∧ Laid s t dst.loc (mLen m) (fun i => byteOfNat m.w1.toNat (i % 8)))
    ∧ (∀ src, mOp m = 0 → m.w1.toNat % 32 + mLen m ≤ 32 → engineRead s1 m m.w1 (mLen m) = .ok src →
      ∃ t, exec (.copy cl) s = .next t ∧ Laid s t dst.loc (mLen m) (fun i => s.mem.get (src.loc + i))))
  ∧ (∀ (s s1 : State) (m : Msg) (b : BlockId), takePrefill s = some (m, s1) → mEng m = 3 → mOp m = 0 → mArg m = 0 → m.w2 = 0 →
    blockAt s1 m.w1 = some b →
    (fillState s b = .filled → mRkind m = 2 → ∃ t d, exec .prefill s = .next t ∧ t.sched.due = s.sched.due ++ [d]
        ∧ d.ring = mRing m ∧ d.unit = some 768 ∧ bitsOf d.body 35 32 = 0 ∧ t.mem = s.mem)
    ∧ (fillState s b = .turning → ∃ t a, exec .prefill s = .next t ∧ t.fill.waits = s1.fill.waits ++ [a] ∧ a.msg = m
        ∧ ((a.blocks = [b] ∧ a.retryAt = none) ∨ (a.blocks = [] ∧ a.backOff = [b] ∧ a.retryAt = some (s.time + 4000)))
        ∧ t.sched = s.sched ∧ t.mem = s.mem)
    ∧ (fillState s b = .blank → ∃ t a, exec .prefill s = .next t ∧ t.fill.waits = s1.fill.waits ++ [a] ∧ a.msg = m
        ∧ ((a.blocks = [b] ∧ a.retryAt = none ∧ ∃ f ∈ t.fill.fills, f.blk = b ∧ f.gen = none ∧ f.waiters = [.prefill m])
          ∨ (a.blocks = [] ∧ a.backOff = [b] ∧ a.retryAt = some (s.time + 4000)))))

/-- A raster request writes the records of the tiles that its views cover, in order with LAST in the last, whose masks agree
with the edge tests; a trace writes the best hit of each of its rays, and a sample request the channels of each of its
entries; no other byte changes. That a request is made in one step and published at its end is log 47, and what the trace
and the sampler take where nothing is stated logs 33 to 35: the model’s. (rests on R214, R215, R216, R217, R218, R219, R220,
R221, R226, R229, R231) -/
def Obligations.UnitRequests : Prop :=
  (∀ (cl : Nat) (s s1 : State) (m : Msg) (n : Nat) (off : Nat → Int × Int) (tg : Nat → Target), takeRequest s cl 1 = some (m, s1) →
    mOp m = 0 → mArg m < 2 ^ 16 → mRkind m = 0 → m.pend = [] → m.kept = [] → m.w2.toNat % 16 = 0 →
    structAt s1 m m.w1.toNat 64 64 = .ok n →
    let d : Setup := BitVec.ofNat 512 n
    let tab := bitsOf d 511 448
    let views := (List.range 128).filter (fun v => bitOf d (320 + v))
    let recs := views.flatMap (fun v => viewRecords d v (off v))
    (tab = 0 → ∀ v, off v = (0, 0)) →
    (tab ≠ 0 → ∀ v ∈ views, ∃ e, structAt s1 m (tab + 8 * v) 8 8 = .ok e ∧ off v = (signNat (e % 2 ^ 32) 32, signNat (e / 2 ^ 32) 32)) →
    setupOk d = true → 0 < mArg m → recs.length ≤ mArg m →
    let u := noteReads s1 m (sectorPieces m.w1.toNat 64 ++ offsetReads d views)
    let ps := (List.range recs.length).map (fun i => (tg i, 16))
    (∀ i < recs.length, engineWrite u m (BitVec.ofNat 64 (m.w2.toNat + 16 * i)) 16 = .ok (tg i)) →
    CanPublish (ps.foldl noteWrite (noteWalks u m m.w2 (16 * recs.length))) (m.wrote (writesTo ps (recordBytes recs))) →
    ∃ t, exec (.rast cl) s = .next t ∧ ∀ l, t.mem.get l = lastWrite (writesTo ps (recordBytes recs)) l (s.mem.get l))
  ∧ (∀ (d : Setup) (off : Int × Int) (sy sx x y : Nat), sy < 8 → sx < 8 → x < 8 → y < 8 →
    (bitOf (BitVec.ofNat 64 (tileMask d off sy sx)) (8 * y + x) = true
      ↔ covered d off (64 * bitsOf d 303 288 + 8 * sx + x) (64 * bitsOf d 319 304 + 8 * sy + y) = true))
  ∧ (∀ (cl : Nat) (s s1 : State) (m : Msg) (items : List (Walk × List (Target × Nat))), takeRequest s cl 1 = some (m, s1) → mOp m = 1 →
    mRkind m = 0 → m.done = 0 → m.pend = [] → m.fcode = 0 → bitsOf m.w0 31 29 = 0 → m.w2.toNat % 32 = 0 →
    let rays := bitsOf m.w0 9 0 + 1
    (0 < bitsOf m.w0 15 11 → 64 * bitsOf m.w0 28 16 + 8 * bitsOf m.w0 15 11 * rays ≤ Config.barrierBase) →
    items.length = rays → RaysEnd s1 m items →
    ∃ t, exec (.trace cl) s = .next t ∧ ∀ l, t.mem.get l
      = lastWrite (items.flatMap (fun p => writesTo p.2 (bytesOf 32 (hitRecord p.1.best 0)))) l (s.mem.get l))
  ∧ (∀ (cl n : Nat) (s s1 : State) (m : Msg) (items : List (List Byte × List (Target × Nat))), takeRequest s cl 2 = some (m, s1) →
    mOp m = 0 → 0 < mArg m → mArg m < 2 ^ 16 → mRkind m = 0 → m.done = 0 → m.pend = [] → m.w2.toNat % 16 = 0 →
    structAt s1 m m.w1.toNat 64 64 = .ok n →
    let desc : TexDesc := BitVec.ofNat 512 n
    descOk desc = true → items.length = mArg m → EntriesEnd desc (noteReads s1 m (sectorPieces m.w1.toNat 64)) m items →
    ∃ t, exec (.sample cl) s = .next t ∧ ∀ l, t.mem.get l = lastWrite (items.flatMap (fun p => writesTo p.2 p.1)) l (s.mem.get l))
  ∧ (∀ (s : State) (m : Msg) (desc : TexDesc) (e : Nat) (ls : List (Word × Target × Nat)),
    structAt s m (m.w1.toNat + 64 + 16 * m.done) 16 16 = .ok e → e / 2 ^ 96 = 0 →
    let p := planOf desc (e % 2 ^ 32) (e / 2 ^ 32 % 2 ^ 32) (lodGiven (e / 2 ^ 64 % 2 ^ 32))
    sampleReads s m (planAccs desc 0 p) = .ok ls →
    ∃ bs u, sampleEntry s m desc = .ok (bs, u) ∧ bs.length = 16
      ∧ ∀ c < 4, ∀ v, ((planValue desc (loadAt s m.pend ls) p).drop c).headD none = some v → (bs.drop (4 * c)).take 4 = bytesOf 4 v)

/-- A due completion record takes its index, and its slot and TAIL hold exactly what the steps of the ring write; one
whose ring cannot be read, is malformed or is refused is counted as an error (log 49: what then has been written stays). A
pending trap record is laid at the tail of its supervisor’s ring, whose TAIL moves; an S-mode record goes to a free slot of
the log, but not while firmware is being switched. (rests on R160, R195, R196, R266, R268, R308, R423) -/
def Obligations.RecordEvents : Prop :=
  (∀ (s s1 s2 : State) (d : DueRecord) (ds : List DueRecord) (bs : List Byte) (lt ls : Nat), s.sched.due = d :: ds → d.pend = [] →
    devRead s d.colour d.ring.toNat 32 = .ok bs →
    let e : BitVec 256 := BitVec.ofNat 256 (ofBytes bs)
    let tail := bitsOf e 191 160
    let seq := (tail + 1) % 2 ^ 32
    let slot := bitsOf e 63 0 + 32 * (tail % 2 ^ bitsOf e 71 64)
    let u := devNoted s d.colour d.ring.toNat 32
    bitsOf e 255 192 = 0 → bitsOf e 127 72 = 0 → 2 ≤ bitsOf e 71 64 → bitsOf e 71 64 ≤ 16 →
    (tail + 2 ^ 32 - bitsOf e 159 128) % 2 ^ 32 ≠ 2 ^ bitsOf e 71 64 →
    awaited (devPlaces s d.colour (d.ring.toNat + 20) 4) = none → awaited (devPlaces s d.colour slot 32) = none →
    Calm s → Writable u lt 4 → Writable u ls 32 →
    devPlaces u d.colour (d.ring.toNat + 20) 4 = .ok [(lt, 4)] → devWrite u d.colour (d.ring.toNat + 20) (bytesOf 4 seq) = .ok s1 →
    devPlaces s1 d.colour (slot + 4) 28 = .ok [(ls + 4, 28)] →
    devWrite s1 d.colour (slot + 4) ((bytesOf 32 d.body.toNat).drop 4) = .ok s2 →
    devPlaces s2 d.colour slot 4 = .ok [(ls, 4)] →
    ∃ t, exec .completionRecordWrite s = .next t ∧ t.sched.due = ds ∧ t.sched.errors = s.sched.errors
      ∧ ∀ l, t.mem.get l = if ls ≤ l ∧ l < ls + 4 then byteOfNat seq (l - ls)
          else if ls ≤ l ∧ l < ls + 32 then byteOfNat d.body.toNat (l - ls)
          else if lt ≤ l ∧ l < lt + 4 then byteOfNat seq (l - lt) else s.mem.get l)
  ∧ (∀ (s u : State) (d : DueRecord) (ds : List DueRecord), s.sched.due = d :: ds →
    (ringWrite s d = .written u → ∃ t, exec .completionRecordWrite s = .next t ∧ t.mem = u.mem ∧ t.sched.due = ds
        ∧ t.sched.errors = s.sched.errors)
    ∧ (ringWrite s d = .failed u → ∃ t, exec .completionRecordWrite s = .next t ∧ t.mem = u.mem ∧ t.sched.due = ds
        ∧ t.sched.errors = s.sched.errors + 1)
    ∧ (∀ line, ringWrite s d = .ask line → asked s line = false → exec .completionRecordWrite s = .next (askHolders s line))
    ∧ (ringWrite s d = .full → ds = [] → exec .completionRecordWrite s = .next s)
    ∧ (∀ h, d.pend = [] → devRead s d.colour d.ring.toNat 32 = .error h → awaited (devRead s d.colour d.ring.toNat 32) = none →
      ∃ t, exec .completionRecordWrite s = .next t ∧ t.mem = s.mem ∧ t.sched.due = ds ∧ t.sched.errors = s.sched.errors + 1)
    ∧ (∀ bs, let e : BitVec 256 := BitVec.ofNat 256 (ofBytes bs)
        d.pend = [] → devRead s d.colour d.ring.toNat 32 = .ok bs →
        (bitsOf e 255 192 ≠ 0 ∨ bitsOf e 127 72 ≠ 0 ∨ bitsOf e 71 64 < 2 ∨ 16 < bitsOf e 71 64) →
      ∃ t, exec .completionRecordWrite s = .next t ∧ t.mem = s.mem ∧ t.sched.due = ds ∧ t.sched.errors = s.sched.errors + 1))
  ∧ (∀ (id l : Nat) (s u : State) (r : BitVec 1024), id ≠ 0 → (s.taskAt id).pending = some r → bitOf r 271 = false →
    let k := s.taskAt id
    let e := Table.get 0 (s.die k.die).supq k.recNo
    postTo s k.die k.recNo k.colour r = .done u → (∀ n, inRingMode s n = false) → Calm s → Writable s l 128 →
    devPlaces s k.colour (supBase e + 128 * (supTail e % 2 ^ supLog e)) 128 = .ok [(l, 128)] →
    ∃ t, exec (.trapRecordPost id) s = .next t ∧ (t.taskAt id).pending = none
      ∧ Laid s t l 128 (byteOfNat r.toNat)
      ∧ supTail (Table.get 0 (t.die k.die).supq k.recNo) = (supTail e + 1) % 2 ^ 32)
  ∧ (∀ (s u : State) (d : Divert) (ds : List Divert), s.sched.diverts = d :: ds → postTo s d.die d.recNo d.colour d.record = .done u →
    ∃ t, exec (.trapRecordPost 0) s = .next t ∧ t.sched.diverts = ds ∧ t.mem = u.mem ∧ t.dies = u.dies)
  ∧ (∀ (id i : Nat) (s : State) (r : BitVec 1024), (s.taskAt id).pending = some r → bitOf r 271 = true →
    (s.bar0.fwstate = 3 → exec (.trapLogPost id) s = .next s)
    ∧ (s.bar0.fwstate ≠ 3 → freeLogSlot s = some i →
      ∃ t, exec (.trapLogPost id) s = .next t ∧ t = { s with mgmt := t.mgmt, tasks := t.tasks }
        ∧ Table.find t.mgmt.stl i = some r ∧ t.mgmt.stlCount = s.mgmt.stlCount + 1 ∧ i < 64 ∧ Table.find s.mgmt.stl i = none
        ∧ ∀ n, t.taskAt n = if n = id then { s.taskAt id with pending := none } else s.taskAt n))

/-- A write from outside lays exactly its bytes unless a line of it is held elsewhere: then its holders are asked, and
nothing else happens yet; a retired region takes and gives nothing. A read changes no byte and poisons what fails its check;
the host’s answer frees the line for a device that waits; snoops drop or demote the copies of their line. That a retired
region takes and gives nothing is log 30, and that a held line is asked for and the access made again log 59: the model’s.
(rests on R145, R146, R278, R284, R285, R286, R287, R288, R290, R306) -/
def Obligations.OutsideWrites : Prop :=
  (∀ (place : Nat) (data : List Byte) (s : State), homeOfLoc place = .local → place + data.length ≤ Config.gddrBytes →
    (retiredIn s place data.length = true → exec (.hostWrite place data) s = .next s)
    ∧ (retiredIn s place data.length = false → (∀ n ∈ linesAt place data.length, heldFrom s none n = false) →
      Writable s place data.length → Calm s →
      ∃ t, exec (.hostWrite place data) s = .next t ∧ Laid s t place data.length (dataAt data) ∧ t.dies = s.dies ∧ t.sched = s.sched
        ∧ t.tasks = s.tasks ∧ t.parts = s.parts)
    ∧ (retiredIn s place data.length = false → (∃ n ∈ linesAt place data.length, heldFrom s none n = true) →
      ∃ t, exec (.hostWrite place data) s = .next t ∧ OnlyAsked s t
        ∧ ∀ n ∈ linesAt place data.length, heldFrom s none n = true → asked t n = true))
  ∧ (∀ (place : Nat) (data : List Byte) (s : State), homeOfLoc place = .hostCoherent → Writable s place data.length → Calm s →
      ∃ t, exec (.hostWrite place data) s = .next t ∧ Laid s t place data.length (dataAt data))
  ∧ (∀ (dev place : Nat) (data : List Byte) (s : State), place + data.length ≤ Config.gddrBytes →
    (retiredIn s place data.length = true → exec (.fabricWrite dev place data) s = .next s)
    ∧ (retiredIn s place data.length = false →
      (∀ n ∈ linesAt place data.length, heldFrom s (some dev) n = false ∧ (dirEntry s n).hostc = false) → Writable s place data.length → Calm s →
      ∃ t, exec (.fabricWrite dev place data) s = .next t ∧ Laid s t place data.length (dataAt data) ∧ t.tasks = s.tasks ∧ t.parts = s.parts)
    ∧ (retiredIn s place data.length = false → (∃ n ∈ linesAt place data.length, heldFrom s (some dev) n = true ∨ (dirEntry s n).hostc = true) →
      ∃ t, exec (.fabricWrite dev place data) s = .next t ∧ OnlyAsked s t
        ∧ ∀ n ∈ linesAt place data.length, (heldFrom s (some dev) n = true ∨ (dirEntry s n).hostc = true) → asked t n = true))
  ∧ (∀ (place n : Nat) (s : State), place + n ≤ Config.gddrBytes →
    (retiredIn s place n = true → exec (.hostRead place n) s = .next s)
    ∧ ((∃ l ∈ linesAt place n, ownerGone s l = true) → exec (.hostRead place n) s = .next s)
    ∧ (retiredIn s place n = false → (∀ l ∈ linesAt place n, ownedAway s l = false ∧ ownerGone s l = false) →
      ∃ t, exec (.hostRead place n) s = .next t ∧ t.mem = s.mem ∧ t.tasks = s.tasks
        ∧ (∀ x ∈ sectorsAt place n, x ∈ s.badCheck → x ∈ t.poison) ∧ ∀ x ∈ s.poison, x ∈ t.poison)
    ∧ (retiredIn s place n = false → (∃ l ∈ linesAt place n, ownedAway s l = true) →
      ∃ t, exec (.hostRead place n) s = .next t ∧ OnlyAsked s t))
  ∧ (∀ (line : Nat) (s : State) (d : DirEntry), dirOf s line = some d →
    ∃ t, exec (.backInvalidationAnswer line) s = .next t ∧ Granted t line { d with hostc := false } ∧ line ∉ t.mgmt.hostPending
      ∧ t.mem = s.mem)
  ∧ (∀ (line : Nat) (s : State), homeOfLoc (line * 128) = .hostCoherent →
    (∃ t, exec (.hostSnoop line true) s = .next t ∧ NotCached t line ∧ t.mem = s.mem)
    ∧ (∃ t, exec (.hostSnoop line false) s = .next t ∧ t = { s with cores := t.cores }
      ∧ ∀ n, ∀ g ∈ (t.core n).l1d, g.region = regionOf (line * 128) → ∀ x ∈ g.states,
          g.region * 512 + x.1 * g.grain < line * 128 + 128 → line * 128 < g.region * 512 + x.1 * g.grain + g.grain →
          x.2 = .shared ∨ x.2 = .invalid))

/-- Leases are granted, returned, dropped, recalled and expired as the rules say, with the guards on TIME; ownership is
granted once no other holds the line, to the device that has waited longest, given back with the line’s data, and lost after
200 microseconds with the line poisoned and logged. The slot of OLLOG and the address logged there are log 54, that
unpublished writes of this device come first is log 59, and which devices have reported themselves synchronised is a free
value (log 65): the model’s. (rests on R287, R288, R289, R290, R291, R292, R293) -/
def Obligations.LeasesAndOwners : Prop :=
  ((∀ (line exp : Nat) (s : State), Table.find s.mgmt.leased line = some exp →
      (exp ≤ s.time + 40 → ∃ t, exec (.leaseDrop line) s = .next t ∧ t.mgmt.leased = Table.del s.mgmt.leased line ∧ NotCached t line
        ∧ NoCode t line ∧ NoWalkOf t line ∧ t.mem = s.mem)
      ∧ (s.time + 40 < exp → exec (.leaseDrop line) s = .next s)
      ∧ (∃ t, exec (.leaseRecall line) s = .next t ∧ t.mgmt.leased = Table.del s.mgmt.leased line ∧ NotCached t line
        ∧ NoCode t line ∧ NoWalkOf t line ∧ t.mem = s.mem))
    ∧ (∀ s : State, s.bar0.unsync = false → ∃ t, exec .timeUnsync s = .next t ∧ t.bar0 = { s.bar0 with unsync := true }
        ∧ t.mgmt.leased = [] ∧ t.mgmt.unsyncs = s.mgmt.unsyncs + 1 ∧ t.mem = s.mem)
    ∧ (∀ s : State, exec .timeSyncLock s = .next { s with bar0 := { s.bar0 with unsync := false } })
    ∧ (∀ (dev line : Nat) (s : State), ownLine line = true → ownerGone s line = false → retiredIn s (line * 128) 128 = false →
      (ownedAway s line = false → s.bar0.unsync = false → Config.peerSynced dev s.time = true → ∃ t d, exec (.remoteRead dev line) s = .next t ∧ dirOf t line = some d
          ∧ d.nlease = (dirEntry s line).nlease + 1 ∧ d.exp = max (dirEntry s line).exp (s.time + 1000 * s.mgmt.lease.toNat)
          ∧ ((dirEntry s line).rdev0 = none → d.rdev0 = some dev) ∧ t.mem = s.mem)
      ∧ (ownedAway s line = false → (s.bar0.unsync = true ∨ Config.peerSynced dev s.time = false) → ∃ t, exec (.remoteRead dev line) s = .next t ∧ dirOf t line = dirOf s line
          ∧ t.mem = s.mem)
      ∧ (ownedAway s line = true → (dirEntry s line).rdev0 ≠ some dev → (dirEntry s line).snoopAt = none →
          ∃ t, exec (.remoteRead dev line) s = .next t ∧ t.mem = s.mem ∧ (dirEntry t line).snoopAt = some s.time))
    ∧ (∀ (dev line : Nat) (s : State) (d : DirEntry), dirOf s line = some d → 0 < d.nlease →
      ∃ t e, exec (.leaseReturn dev line) s = .next t ∧ Granted t line e ∧ t.mem = s.mem
        ∧ e = { d with exp := e.exp, rdev0 := e.rdev0, rdev1 := e.rdev1, nlease := d.nlease - 1 })
    ∧ (∀ (line : Nat) (s : State) (d : DirEntry), dirOf s line = some d → 0 < d.nlease →
      (s.bar0.unsync = false → d.exp + 40 ≤ s.time → ∃ t e, exec (.leaseExpiry line) s = .next t ∧ Granted t line e
          ∧ e = { d with exp := 0, rdev0 := e.rdev0, rdev1 := none, nlease := 0 } ∧ t.mem = s.mem)
      ∧ (s.bar0.unsync = true → d.exp + 1000 ≤ s.time → ∃ t e, exec (.unsyncLeaseTimeout line) s = .next t ∧ Granted t line e
          ∧ e = { d with exp := 0, rdev0 := e.rdev0, rdev1 := none, nlease := 0 } ∧ t.mem = s.mem)))
  ∧ ((∀ (dev line : Nat) (s : State), ownLine line = true → ownerGone s line = false → retiredIn s (line * 128) 128 = false →
      ¬ ((dirEntry s line).rown = true ∧ (dirEntry s line).rdev0 = some dev) →
      (lineHeld s line = false → unpublished s line = false → ∃ t d, exec (.remoteOwnership dev line) s = .next t ∧ dirOf t line = some d ∧ d.rown = true
          ∧ d.rdev0 = some dev ∧ d.nlease = 0 ∧ t.mem = s.mem
          ∧ ∀ n, ∀ g ∈ (t.core n).l1d, ∀ i < 4, l1Holds g (line * 128 + 32 * i) = false)
      ∧ (lineHeld s line = true ∨ unpublished s line = true → ∃ t, exec (.remoteOwnership dev line) s = .next t ∧ dev ∈ (dirEntry t line).waiting ∧ t.mem = s.mem))
    ∧ (∀ (line at' : Nat) (data : List Byte) (s : State) (d : DirEntry), dirOf s line = some d → d.rown = true → d.olost = false →
      d.snoopAt = some at' → s.time ≤ at' + 200000 → data.length = 128 → Writable s (line * 128) 128 → Calm s →
      ∃ t, exec (.snoopAnswer line data) s = .next t ∧ Laid s t (line * 128) 128 (dataAt data)
        ∧ Granted t line { d with rown := false, rdev0 := none, snoopAt := none })
    ∧ (∀ (line at' : Nat) (s : State) (d : DirEntry), dirOf s line = some d → d.rown = true → d.olost = false → d.snoopAt = some at' →
      at' + 200000 ≤ s.time → ∃ t, exec (.ownerLost line) s = .next t ∧ ownerGone t line = true
        ∧ (∀ i < 4, line * 4 + i ∈ t.poison) ∧ t.mem = s.mem ∧ t.mgmt.olcount.toNat = (s.mgmt.olcount.toNat + 1) % 2 ^ 32
        ∧ Table.get 0 t.mgmt.ollog (s.mgmt.olcount.toNat % 64) = BitVec.ofNat 64 (linePa s line))
    ∧ (∀ (dev line : Nat) (s : State),
      (dev = bitsOf s.mgmt.devid 13 0 → line ∈ s.mgmt.owned → ∃ t, exec (.lateSnoopAnswer dev line) s = .next t ∧ line ∉ t.mgmt.owned
          ∧ t.mgmt.refused = s.mgmt.refused + 1 ∧ NotCached t line ∧ NoCode t line ∧ t.mem = s.mem)
      ∧ (line ∉ s.mgmt.owned → exec (.lateSnoopAnswer dev line) s = .next s))
    ∧ (∀ (line : Nat) (s : State),
      (s.mgmt.inService = true → line ∈ s.mgmt.owned → ∃ t, exec (.ownerSnoop line) s = .next t ∧ line ∉ t.mgmt.owned ∧ NotCached t line
          ∧ NoCode t line ∧ t.mem = s.mem)
      ∧ (s.mgmt.inService = false → exec (.ownerSnoop line) s = .next s)))

/-- READ, RECLAIM, FORGET and bad commands change DMSTAT, DMDATA and the entry as stated; the read-back port returns
tags, queue entries and directory entries in their maps, and status 2 for an index or kind that does not exist. The
numbering of entries follows log 20. (rests on R280, R292, R305) -/
def Obligations.DirectoryPort : Prop :=
  ((∀ s : State, (∀ line, dmLine s = some line → ∃ t, exec .dmRead s = .next t ∧ t.mgmt.dmstat = 0
          ∧ t.mgmt.dmdata = BitVec.ofNat 256 (dirWord s line (line * 128)) ∧ t.slices = s.slices)
      ∧ (dmLine s = none → exec .dmRead s = .next { s with mgmt := { s.mgmt with dmstat := 2 } }))
    ∧ (∀ s : State, (∀ line, dmLine s = some line → ownerGone s line = true → ∃ t d, exec .reclaim s = .next t ∧ t.mgmt.dmstat = 0
          ∧ dirOf t line = some d ∧ d.olost = false ∧ d.rown = false ∧ d.rdev0 = none ∧ t.mem = s.mem)
      ∧ (∀ line, dmLine s = some line → ownerGone s line = false → exec .reclaim s = .next { s with mgmt := { s.mgmt with dmstat := 3 } })
      ∧ (dmLine s = none → exec .reclaim s = .next { s with mgmt := { s.mgmt with dmstat := 2 } }))
    ∧ (∀ (dev : BitVec 14) (s : State),
      (∀ line d, dmLine s = some line → dirOf s line = some d → 0 < d.nlease → ∃ t e, exec (.forget dev) s = .next t ∧ t.mgmt.dmstat = 0
          ∧ Granted t line e ∧ e = { d with exp := e.exp, rdev0 := e.rdev0, rdev1 := e.rdev1, nlease := d.nlease - 1 }
          ∧ e.rdev0 = (if d.rown = false ∧ d.rdev0 = some dev.toNat then none else d.rdev0)
          ∧ e.rdev1 = (if d.rdev1 = some dev.toNat then none else d.rdev1))
      ∧ (dmLine s = none → exec (.forget dev) s = .next { s with mgmt := { s.mgmt with dmstat := 2 } }))
    ∧ (∀ s : State, exec .dmBadCommand s = .next { s with mgmt := { s.mgmt with dmstat := 1 } }))
  ∧ ((∀ (slice : Nat) (sel : Word) (s : State),
      (1536 ≤ bitsOf sel 10 0 → ∃ t, exec (.readbackL2Tag slice sel) s = .next t ∧ (t.slice slice).rbstat = 2 ∧ (t.slice slice).rbdata = 0)
      ∧ (∀ g, bitsOf sel 10 0 < 1536 → (Table.get [] (s.slice slice).sets (bitsOf sel 10 0))[bitsOf sel 15 11]? = some g → g.sectors ≤ 4 →
        ∃ t, exec (.readbackL2Tag slice sel) s = .next t ∧ t.mem = s.mem ∧ (t.slice slice).rbstat = 0 ∧ (t.slice slice).rbsel = sel
          ∧ let w := (t.slice slice).rbdata
            bitOf w 63 = true ∧ bitOf w 61 = g.dirty ∧ bitsOf w 56 54 = g.code.toNat ∧ bitsOf w 53 49 = bitsOf sel 15 11
              ∧ bitsOf w 48 46 = g.sectors ∧ bitsOf w 127 64 = lineAddr g.line
              ∧ (∀ i < 4, bitOf w (57 + i) = s.poison.contains (g.line * 4 + i))))
    ∧ (∀ (slice : Nat) (sel : Word) (s : State),
      (6144 ≤ bitsOf sel 12 0 → ∃ t, exec (.readbackQueueEntry slice sel) s = .next t ∧ (t.slice slice).rbstat = 2 ∧ (t.slice slice).rbdata = 0)
      ∧ (∀ e, bitsOf sel 12 0 < 6144 → inRingMode s slice = false → (s.seg slice).entries[bitsOf sel 12 0]? = some e →
        ∃ t, exec (.readbackQueueEntry slice sel) s = .next t ∧ (t.slice slice).rbstat = 0
          ∧ let w := (t.slice slice).rbdata
            bitsOf w 511 0 = e.header.toNat ∧ bitOf w 575 = true ∧ bitOf w 574 = e.run ∧ bitsOf w 573 572 = hPrio e.header
              ∧ bitsOf w 559 544 = e.colour % 2 ^ 16))
    ∧ (∀ (slice : Nat) (sel : Word) (s : State),
      (12288 ≤ bitsOf sel 17 4 → ∃ t, exec (.readbackDirectory slice sel) s = .next t ∧ (t.slice slice).rbstat = 2 ∧ (t.slice slice).rbdata = 0)
      ∧ (bitsOf sel 17 4 < 12288 → ∃ t, exec (.readbackDirectory slice sel) s = .next t ∧ (t.slice slice).rbstat = 0
          ∧ (t.slice slice).rbdata = BitVec.ofNat 2048 (dirData s slice (bitsOf sel 17 4) (bitsOf sel 3 0))))
    ∧ (∀ (slice : Nat) (sel : Word) (s : State),
      ∃ t, exec (.readbackBadKind slice sel) s = .next t ∧ (t.slice slice).rbstat = 2 ∧ (t.slice slice).rbdata = 0 ∧ (t.slice slice).rbsel = sel))

/-- A written line becomes the most recent of its set under an encoding of the fewest sectors; a slice that no map entry and
no queue entry needs is unpinned; array errors, those of a core’s caches and registers too, are counted for their array,
poison their sector or line, or leave a bad check value, in global memory; a repaired way is dropped. That errors of
scratchpads and vector registers are only counted, and how ways are numbered, is log 20, that L2 accesses are events of
their own log 51, and the repair of a way log 30: the model’s. (rests on R131, R136, R137, R138, R140, R141, R147, R306) -/
def Obligations.CacheEvents : Prop :=
  (∀ (line : Nat) (s : State), ∃ t, exec (.l2LineWrite line) s = .next t ∧ t = { s with slices := t.slices, dirDue := t.dirDue }
      ∧ Resident s t line true)
  ∧ (∀ (s : State) (line : Nat) (e : BitVec 3 × Nat), e ∈ encodings (lineWords s line) → linePoisoned s line = false →
      (encodeLine s line).2 ≤ e.2)
  ∧ (∀ (n : Nat) (s : State), (s.slice n).pinned = true → mapped s n = false → (s.seg n).entries = [] →
    ∃ t, exec (.sliceUnpin n) s = .next t ∧ t = s.setSlice n { s.slice n with pinned := false })
  ∧ (∀ (loc : Nat) (s : State),
    (∃ t, exec (.arrayError .soft loc) s = .next t ∧ t = { s with slices := t.slices, mgmt := { s.mgmt with softErrs := t.mgmt.softErrs } }
      ∧ Table.get 0 t.mgmt.softErrs (arrayOf loc) = Table.get 0 s.mgmt.softErrs (arrayOf loc) + 1
      ∧ (isGlobal loc = false → t.slices = s.slices)
      ∧ (isGlobal loc = true → Table.get 0 (t.slice (sliceOf (lineOf loc * 128))).count 10
          = Table.get 0 (s.slice (sliceOf (lineOf loc * 128))).count 10 + 1))
    ∧ (∃ t, exec (.arrayError .uncorrectable loc) s = .next t ∧ t.mem = s.mem
      ∧ Table.get 0 t.mgmt.badErrs (arrayOf (lineOf loc * 128)) = Table.get 0 s.mgmt.badErrs (arrayOf (lineOf loc * 128)) + 1
      ∧ (isGlobal (lineOf loc * 128) = false → t.poison = s.poison)
      ∧ (isGlobal (lineOf loc * 128) = true → ∀ x, x ∈ t.poison ↔ x ∈ s.poison ∨ x = sectorOf loc))
    ∧ (isGlobal loc = false → exec (.arrayError .escaped loc) s = .next s)
    ∧ (isGlobal loc = true → ∃ t, exec (.arrayError .escaped loc) s = .next t ∧ t = { s with badCheck := t.badCheck }
      ∧ ∀ x, x ∈ t.badCheck ↔ x ∈ s.badCheck ∨ x = sectorOf loc)
    ∧ (∀ g, isGlobal (lineOf loc * 128) = true →
      (Table.get [] (s.slice (sliceOf loc)).sets (setOf (lineOf loc))).find? (fun t => t.line = lineOf loc) = some g →
      ∃ t, exec (.arrayError .tag loc) s = .next t ∧ t.mem = s.mem
        ∧ (g.dirty = true → ∀ i < 4, lineOf loc * 4 + i ∈ t.poison)
        ∧ (g.dirty = false → t.poison = s.poison ∧ Resident s t (lineOf loc) false))
    ∧ ∀ (a : CoreArray) (core : Nat), let err := fun (corrected : Bool) => exec (.arrayError (.inCore a core corrected) loc) s
      let n := coreArrayNo a core
      (arrayHolds a s core loc = false → ∀ corrected, err corrected = .next s)
      ∧ (arrayHolds a s core loc = true →
        (∃ t, err true = .next t ∧ t = { s with mgmt := { s.mgmt with softErrs := t.mgmt.softErrs } }
          ∧ Table.get 0 t.mgmt.softErrs n = Table.get 0 s.mgmt.softErrs n + 1)
        ∧ ∃ t, err false = .next t ∧ t.mem = s.mem ∧ Table.get 0 t.mgmt.badErrs n = Table.get 0 s.mgmt.badErrs n + 1
          ∧ ∀ x, x ∈ t.poison ↔ x ∈ s.poison ∨ (a ≠ .vregs ∧ isGlobal (lineOf loc * 128) = true ∧ x = sectorOf loc)))
  ∧ (∀ (slice set way : Nat) (s : State), way < (Table.get [] (s.slice slice).sets set).length →
    ∃ t, exec (.l2WayRepair slice set way) s = .next t
      ∧ Table.get [] (t.slice slice).sets set = (Table.get [] (s.slice slice).sets set).eraseIdx way ∧ t.mem = s.mem
      ∧ t.mgmt.repairs = s.mgmt.repairs ++ [(1, 65536 * slice + 32 * set + way)])

/-- A table entry is written whole when it is well formed, and refused with its old value kept otherwise, with the write
status saying which; the doublewords before the highest are held. BAR0 and management registers take what the maps admit. A
refused ring descriptor and the HEAD and TAIL that are kept are log 22, entries of zeros and masked fields log 58, and
leaving ring mode only when empty log 15: the model’s. (rests on R172, R178, R241, R268, R297, R298, R299, R300, R420) -/
def Obligations.TableWrites : Prop :=
  ((∀ (die idx : Nat) (v : BitVec 512) (s : State), let n := idx % 1024
      let ok := !bV v || bindOk s die n v
      ∃ t, exec (.bindRecordWrite die idx v) s = .next t ∧ StatusIs (t.die die).status ok n
        ∧ (ok = true → bClean v ≠ 0 → t.bindRec die n = bClean v)
        ∧ (ok = true → bClean v = 0 → (t.die die).bind = Table.del (s.die die).bind n)
        ∧ (ok = false → (t.die die).bind = (s.die die).bind ∧ t.parts = s.parts))
    ∧ (∀ (s : State) (die idx : Nat) (r : BindRec), bindOk s die idx r = true →
        bitsOf r 127 8 = 0 ∧ (bKind r = 1 ∨ bKind r = 2) ∧ (bWend r ≠ 0 → bWstart r < bWend r)
          ∧ ∀ o ∈ (s.die die).bind, o.1 ≠ idx → bV o.2 = true → bOverlap r o.2 = true → bShare r o.2 = true → bSplit o.2 = bSplit r)
    ∧ (∀ (die idx : Nat) (v : BitVec 512) (s : State), let n := idx % 1024
      let new := putBits v 191 160 0
      let old := Table.get 0 (s.die die).supq n
      ∃ t, exec (.supervisorQueueWrite die idx v) s = .next t ∧ t = { s with dies := t.dies }
        ∧ StatusIs (t.die die).status (decide (new = 0) || supOk new) n
        ∧ (new ≠ 0 → supOk new = true → putBits (Table.get 0 (t.die die).supq n) 191 160 0 = new
            ∧ supTail (Table.get 0 (t.die die).supq n) = supTail old)
        ∧ (new = 0 → (t.die die).supq = Table.del (s.die die).supq n)
        ∧ (new ≠ 0 → supOk new = false → (t.die die).supq = (s.die die).supq))
    ∧ (∀ (idx : Nat) (v : BitVec 512) (s : State), let n := idx % 256
      let ok := !(rangeV v && !rangeOk s n v) && !(rangeV (s.range n) && rangeBusy s n)
      ∃ t, exec (.rangeTableWrite idx v) s = .next t ∧ StatusIs t.fill.status ok n
        ∧ (ok = true → rangeClean v ≠ 0 → t.range n = rangeClean v)
        ∧ (ok = false → t = { s with fill := { s.fill with status := t.fill.status } }))
    ∧ (∀ (idx : Nat) (v : BitVec 256) (s : State), let n := idx % 256
      let ok := !imgV v || imageOk s n v
      let w := putBits v 230 193 0
      ∃ t, exec (.imageTableWrite idx v) s = .next t ∧ t = { s with sched := { s.sched with imageTab := t.sched.imageTab, imageStatus := t.sched.imageStatus } }
        ∧ StatusIs t.sched.imageStatus ok n
        ∧ (ok = true → w ≠ 0 → Table.get 0 t.sched.imageTab n = w) ∧ (ok = false → t.sched.imageTab = s.sched.imageTab))
    ∧ (∀ (slice : Nat) (v : BitVec 256) (s : State),
      let good := bitsOf v 255 192 = 0 ∧ bitsOf v 127 72 = 0 ∧ 4 ≤ ringLog v ∧ ringLog v ≤ 20 ∧ ringBase v % 64 = 0
      (good → ∃ t, exec (.ringDescriptorWrite slice v) s = .next t ∧ t = { s with dies := t.dies } ∧ (∀ d, (t.die d).bind = (s.die d).bind)
        ∧ (inRingMode s slice = false → ringDesc t slice = v)
        ∧ (inRingMode s slice = true → ringBase (ringDesc t slice) = ringBase v ∧ ringLog (ringDesc t slice) = ringLog v
            ∧ ringHead (ringDesc t slice) = ringHead (ringDesc s slice) ∧ ringTail (ringDesc t slice) = ringTail (ringDesc s slice)))
      ∧ (¬ good → v ≠ 0 → exec (.ringDescriptorWrite slice v) s = .next s))
    ∧ (∀ (die : Nat) (v : Word) (s : State),
      (homesEmpty s die = true → ∃ t, exec (.ringModeControl die v) s = .next t ∧ t = { s with dies := t.dies }
          ∧ (t.die die).ringMode = bitOf v 0)
      ∧ (homesEmpty s die = false → exec (.ringModeControl die v) s = .next s))
    ∧ (∀ (idx : Nat) (v : Word) (s : State), ∃ t, exec (.segmapWrite idx v) s = .next t
        ∧ (bitsOf v 7 0 ≠ idx % 256 → segmap t (idx % 256) = bitsOf v 7 0) ∧ (∀ m, m ≠ idx % 256 → bitsOf v 7 0 ≠ idx % 256 → segmap t m = segmap s m)
        ∧ (t.slice (bitsOf v 7 0)).pinned = true ∧ t.mem = s.mem))
  ∧ ((∀ (v : Word) (s : State),
      let m := s.mgmt
      (∃ t, exec (.registerWrite 0 0x8 v) s = .next t ∧ t = { s with bar0 := { s.bar0 with lrbase := v } })
      ∧ (∃ t, exec (.registerWrite 0 0 v) s = .next t ∧ t = { s with bar0 := { s.bar0 with
            lrovf := s.bar0.lrovf && !bitOf v 20, lrrd := s.bar0.lrrd && !bitOf v 1 } })
      ∧ (4 ≤ v.toNat → v.toNat ≤ 16 → ∃ t, exec (.registerWrite 0 0x10 v) s = .next t ∧ t = { s with bar0 := { s.bar0 with lrsize := v } })
      ∧ ((v.toNat < 4 ∨ 16 < v.toNat) → exec (.registerWrite 0 0x10 v) s = .next s)
      ∧ exec (.registerWrite 0 0x20 v) s = exec (.launchDoorbell v) s
      ∧ (bitsOf v 7 0 ≠ 0 → ∃ t, exec (.registerWrite 2 0x10000 v) s = .next t ∧ t = { s with mgmt := { m with lease := t.mgmt.lease } }
          ∧ t.mgmt.lease.toNat = bitsOf v 7 0)
      ∧ (bitsOf v 7 0 = 0 → exec (.registerWrite 2 0x10000 v) s = .next s)
      ∧ (∃ t, exec (.registerWrite 2 0x10008 v) s = .next t ∧ t = { s with mgmt := { m with devid := t.mgmt.devid } } ∧ t.mgmt.devid.toNat = bitsOf v 13 0)
      ∧ (∀ c < 65536, v ≠ 0 → ∃ t, exec (.registerWrite 2 (0x100000 + 8 * c) v) s = .next t ∧ t = { s with mgmt := { m with roots := t.mgmt.roots } }
          ∧ Table.get 0 t.mgmt.roots c = v)
      ∧ (∀ o, exec (.registerWrite 4 o v) s = exec (.hostWrite (o / 8 * 8) (bytesOf 8 v.toNat)) s))
    ∧ (∀ (v : Word) (s : State), ∃ t, exec (.powerCapWrite v) s = .next t ∧ t.mgmt.cap.toNat = bitsOf v 0 0
        ∧ (s.bar0.throt = true → t.bar0 = s.bar0)
        ∧ (s.bar0.throt = false → t.bar0 = { s.bar0 with pstate := if bitOf v 0 then 1 else 0 }))
    ∧ (∀ (die idx i : Nat) (v : Word) (s : State), die < 8 → idx < 1024 → i < 7 →
      let o := 0x800000 + 2 ^ 20 * die + 64 * idx + 8 * i
      ∃ t, exec (.registerWrite 2 o v) s = .next t ∧ t = { s with mgmt := { s.mgmt with halves := Table.set s.mgmt.halves o v } })
    ∧ (∀ (die idx : Nat) (w : Nat → Word) (s : State), die < 8 → idx < 1024 →
      let o := 0x800000 + 2 ^ 20 * die + 64 * idx
      (∀ i < 7, Table.find s.mgmt.halves (o + 8 * i) = some (w i)) →
      ∃ t, exec (.registerWrite 2 (o + 56) (w 7)) s = .next t
        ∧ exec (.bindRecordWrite die idx (BitVec.ofNat 512 ((List.range 8).map (fun i => (w i).toNat * 2 ^ (64 * i))).sum))
            { s with mgmt := { s.mgmt with halves := s.mgmt.halves.filter (fun e => !(decide (o ≤ e.1) && decide (e.1 < o + 64))) } } = .next t))

/-- STAGE, ATTEST, the switch and its outcomes, bring-up and loss of power leave the registers, the images and memory as
stated; repairs, retirement, removal and thermal events change what they name and nothing else. What the spec leaves open is
a free value or the model’s choice: STAGE’s status 3 and corners of STAGE and ATTEST log 27, what bring-up keeps and flash
at a loss of power log 28, sensors log 29, repairs and retirement log 30. (rests on R301, R302, R303, R306, R307, R308) -/
def Obligations.FirmwareAndUpkeep : Prop :=
  ((∀ s : State, s.bar0.fwstate ≠ 2 → s.bar0.fwstate ≠ 3 →
      (2 ^ 26 < s.bar0.fwlen.toNat → exec .stage s = .next { s with bar0 := { s.bar0 with fwstat := 3 } })
      ∧ (∀ bs, s.bar0.fwlen.toNat ≤ 2 ^ 26 → firmwareBlocked s false = [] → readPhysical s s.bar0.fwaddr.toNat s.bar0.fwlen.toNat = some bs →
        let d := digestOf bs
        (Config.signatureGood d = false → exec .stage s = .next { s with bar0 := { s.bar0 with fwstat := 3 } })
        ∧ (Config.signatureGood d = true → Config.imageVersion d % 2 ^ 64 < s.fw.rollback.toNat →
            exec .stage s = .next { s with bar0 := { s.bar0 with fwstat := 4 } })
        ∧ (Config.signatureGood d = true → s.fw.rollback.toNat ≤ Config.imageVersion d % 2 ^ 64 →
            exec .stage s = .next { s with
              bar0 := { s.bar0 with fwstat := 1, fwstate := 2 },
              fw := { s.fw with staged := some d, stagedVersion := BitVec.ofNat 64 (Config.imageVersion d) } })))
    ∧ (∀ s s1 : State, s.bar0.fwstate ≠ 4 → firmwareBlocked s true = [] → writePhysical s s.bar0.fwaddr.toNat (report s) = some s1 →
      ∃ t, exec .attest s = .next t ∧ t.mem = s1.mem
        ∧ (s.bar0.fwstate ≠ 2 → s.bar0.fwstate ≠ 3 → t.bar0 = { s.bar0 with fwstat := 2 }))
    ∧ (∀ s : State, (report s).length = 1536 ∧ (report s).take 32 = bytesOf 32 s.bar0.nonce.toNat)
    ∧ (∀ (d : Nat) (s : State), switchReady s = true → s.fw.staged = some d →
      exec .firmwareSwitch s = .next { s with
        fw := { s.fw with running := d, version := s.fw.stagedVersion, switchAt := some s.time },
        bar0 := { s.bar0 with fwstate := 3 } })
    ∧ (∀ s : State, s.bar0.fwstate = 3 → healthOver s = false → ∃ t, exec .firmwareHealthy s = .next t
        ∧ t.bar0 = { s.bar0 with fwstate := 1, fwstat := 2, ready := s.mgmt.inService } ∧ t.fw.flash = some s.fw.running ∧ t.fw.running = s.fw.running
        ∧ t.fw.rollback.toNat = max s.fw.rollback.toNat s.fw.version.toNat ∧ t = { s with fw := t.fw, bar0 := t.bar0 })
    ∧ (∀ s : State, healthOver s = true → ∃ t, exec .firmwareHealthTimeout s = .next t ∧ t = { s with fw := t.fw, bar0 := t.bar0 }
        ∧ t.bar0.fwstat = 5 ∧ t.fw.flash = s.fw.flash ∧ t.fw.rollback = s.fw.rollback
        ∧ (∀ d, goodFlash s.fw = some d → t.fw.running = d ∧ t.bar0.fwstate = 1)
        ∧ (goodFlash s.fw = none → t.bar0.fwstate = 4 ∧ t.bar0.ready = false))
    ∧ (∀ s : State, ∃ t, exec .bringUp s = .next t
        ∧ (∀ l, l < 2 ^ 56 → t.mem.get l = 0) ∧ (s.mem.wf = true → ∀ l, 2 ^ 56 ≤ l → t.mem.get l = s.mem.get l)
        ∧ t.ctxs = [] ∧ t.parts = [] ∧ t.cores = [] ∧ t.tasks = [] ∧ t.dies = [] ∧ t.slices = [] ∧ t.sched = Sched.empty ∧ t.fill = FillUnit.empty
        ∧ t.time = s.time ∧ t.power = true ∧ t.fw.flash = s.fw.flash ∧ t.fw.rollback = s.fw.rollback
        ∧ (∀ d, goodFlash s.fw = some d → t.fw.running = d
            ∧ t.bar0 = (if bringUpFails s then { Bar0.reset with fwstate := 4 } else { Bar0.reset with fwstate := 1, ready := true }))
        ∧ (goodFlash s.fw = none → t.bar0 = { Bar0.reset with fwstate := 4 }))
    ∧ (∀ s : State, ∃ t, exec .powerLoss s = .next t ∧ t = { s with power := false, freeCnt := t.freeCnt, fw := { s.fw with flash := t.fw.flash } }
        ∧ (t.fw.flash = s.fw.flash ∨ (t.fw.flash = none ∧ s.bar0.fwstate = 3))))
  ∧ ((∀ (cl : Nat) (s : State), ∃ t, exec (.clusterRepair cl) s = .next t ∧ t = { s with mgmt := t.mgmt, bar0 := { s.bar0 with repair := t.bar0.repair } }
        ∧ (t.bar0.repair = true ↔ t.mgmt.repairing ≠ [])
        ∧ (spareLeft s cl = false → cl ∉ t.mgmt.repairing ∧ t.mgmt.repairs = s.mgmt.repairs)
        ∧ (spareLeft s cl = true → clusterBare s cl = true → cl ∉ t.mgmt.repairing ∧ t.mgmt.repairs = s.mgmt.repairs ++ [(0, cl)])
        ∧ (spareLeft s cl = true → clusterBare s cl = false → cl ∈ t.mgmt.repairing ∧ t.mgmt.repairs = s.mgmt.repairs))
    ∧ (∀ (n : Nat) (s : State), exec (.rowRepair n) s = .next { s with mgmt := { s.mgmt with repairs := s.mgmt.repairs ++ [(2, n)] } }
        ∧ exec (.fabricLaneRepair n) s = .next { s with mgmt := { s.mgmt with repairs := s.mgmt.repairs ++ [(4, n)] } })
    ∧ (∀ (n : Nat) (s : State), ∃ t, exec (.gddrDeviceRetire n) s = .next t ∧ t = { s with mgmt := t.mgmt } ∧ n ∈ t.mgmt.retired
        ∧ t.mgmt.repairs = s.mgmt.repairs ++ [(3, n)]
        ∧ ∀ pa h l, physical t pa = some (h, l) → h = .local → l / 2 ^ 21 ≠ n)
    ∧ (∀ s : State, ∃ t, exec .moduleRemoval s = .next t ∧ t.bar0 = { s.bar0 with ready := false } ∧ t.mgmt.inService = false
        ∧ t = { s with mgmt := t.mgmt, bar0 := t.bar0 } ∧ ∀ core part, openRecs t core part = [])
    ∧ (∀ s : State, ∃ t, exec .thermalHalt s = .next t ∧ t.bar0.pstate = 3 ∧ t.bar0.throt = true ∧ t.mgmt.stopped = true
        ∧ 105 < t.bar0.temp.toNat ∧ t = { s with mgmt := t.mgmt, bar0 := t.bar0, freeCnt := t.freeCnt } ∧ ∀ core part, openRecs t core part = [])
    ∧ (∀ s : State, ∃ t, exec .thermalThrottle s = .next t ∧ t.bar0.pstate.toNat = max s.bar0.pstate.toNat 1 ∧ t.bar0.throt = true
        ∧ t = { s with mgmt := t.mgmt, bar0 := t.bar0, freeCnt := t.freeCnt } ∧ t.mgmt.stopped = s.mgmt.stopped)
    ∧ (∀ s : State, ∃ t, exec .coolantThrottle s = .next t ∧ t.bar0.pstate.toNat = max s.bar0.pstate.toNat 2 ∧ t.bar0.throt = true
        ∧ t = { s with mgmt := t.mgmt, bar0 := t.bar0, freeCnt := t.freeCnt } ∧ t.mgmt.stopped = s.mgmt.stopped)
    ∧ (∀ s : State, ∃ t, exec .throttleRelease s = .next t ∧ t.bar0.throt = false ∧ t.mgmt.stopped = false
        ∧ t.bar0.pstate = (if bitOf s.mgmt.cap 0 then 1 else 0) ∧ t.bar0.temp.toNat ≤ 105
        ∧ t = { s with mgmt := t.mgmt, bar0 := t.bar0, freeCnt := t.freeCnt }))

/-- Thirteen words that the manual writes out, one or more of each family, decode to the instructions that it gives
for them, and two are refused for the reason that it gives. (rests on R68, R74, R76, R77, R78, R79, R80, R81) -/
def Obligations.DecodeWords : Prop :=
  decode (bytesOf 4 0x007E0E33) = .ok (.add 28 28 7, [])
  ∧ decode (bytesOf 4 0x43F55513) = .ok (.srai 10 10 63, [])
  ∧ decode (bytesOf 4 0x000EBF03) = .ok (.ld 30 29 0, [])
  ∧ decode (bytesOf 4 0x010000EF) = .ok (.jal 1 8, [])
  ∧ decode (bytesOf 8 0x00106000C005E2BF) = .ok (.setvl 5 11 0x0013, [])
  ∧ decode (bytesOf 8 0xFFE0000CC000603F) = .ok (.bmz 0x1FFC, [])
  ∧ decode (bytesOf 8 0x800B0044406522BF) = .ok (.amoswapW ⟨5, 10, 6, 0, 1, 0, true, false, 3⟩, [])
  ∧ decode (bytesOf 8 0x000800018001013F) = .ok (.vsub ⟨2, 2, .imm 1, 0, ⟨0, 0⟩⟩, [])
  ∧ decode (bytesOf 8 0x0000010444A0913F) = .ok (.vfma ⟨2, 1, .xreg 10, 2, 0, 0, ⟨1, 0⟩⟩, [])
  ∧ decode (bytesOf 8 0x00B0000A003520BF) = .ok (.vstx ⟨1, 10, 3, 6, 2, 0, ⟨0, 0⟩⟩, [])
  ∧ decode (bytesOf 8 0x0010A004C003343F) = .ok (.mstc 8 2 6 5 0, [])
  ∧ decode (bytesOf 8 0x101800080061443F) = .ok (.texLod 8 2 6 3 ⟨0, 0⟩, [])
  ∧ decode (bytesOf 8 0x08010008C00B503F) = .ok (.arrive 2 0 22 1, [])
  ∧ decode (bytesOf 8 0x0000000BC000603F) = .error .func8
  ∧ decode (bytesOf 8 0x000004000000103F) = .error .mask

/-- For every well-formed instruction that has an encoding, with every operand at every value that the encoding
admits, decoding its bytes gives that instruction, and leaves the bytes after it. (rests on R64, R66, R67, R68, R70,
R74, R75, R76, R77, R78, R79, R80) -/
def Obligations.DecodeEncode : Prop :=
  ∀ (i : Instr) (rest : List Byte), encodes i = true → i.wellFormed = true → decode (encode i ++ rest) = .ok (i, rest)

/-- Whatever bytes decode to an instruction, the instruction is well formed and its encoding is exactly the bytes that
were read: no two words decode to one instruction, and no reserved field is ignored. (rests on R64, R66, R67, R68,
R70, R71, R72, R73, R81) -/
def Obligations.EncodeDecode : Prop :=
  ∀ (bs rest : List Byte) (i : Instr), decode bs = .ok (i, rest) → i.wellFormed = true ∧ encodes i = true ∧ encode i ++ rest = bs

/-- Where no event is due and the picked context’s bytes at PC decode to an instruction, the step is that instruction’s
meaning at that state, after what the fetch leaves in the caches, and followed by the counting and the passing of turn and
time, which change nothing else. What cannot be fetched is a fetch fault, what does not decode an illegal encoding. An event
of the agenda, or a due one, is run in the same way, and a write that must wait stays on the agenda. The order of events
and the time of a step are the model’s (logs 3 and 5). (rests on R25, R53, R64, R65, R134, R285, R302, R307, R329) -/
def Obligations.StepRunsDecoded : Prop :=
  (∀ (s : State) (c : CtxId), s.power = true → nextAgenda s = none → s.bar0.pstate ≠ 3 → dueEvent s = none → pick s = some c →
    let s1 := issued s c
    let then' := fun (o : Out) => Out.andThen o (fun t => afterIssue t c s1.taskId)
    (∀ i, fetch s1 = .instr i → step s = then' (exec i (afterFetch s1)))
    ∧ (∀ cause detail straddle, fetch s1 = .fault cause detail straddle → step s = then' (exec (.fetchFault cause detail straddle) (afterFetch s1)))
    ∧ (fetch s1 = .bad → step s = then' (exec .illegalEncoding (afterFetch s1)))
    ∧ (∀ line, fetch s1 = .stalled line → step s = then' (.next (waitOn (afterFetch s1) (.snoop line)))))
  ∧ (∀ (s : State) (a : Word) (bs : List Byte), fetch4 s a = .ok bs →
    ∃ t, checkAcc s { s.who with atomic := false } (accGv a 4 .fetch false) false = .ok t
      ∧ (l1iBytes s.myCore.l1i t.loc 4 = none → bs = [s.byte t.loc, s.byte (t.loc + 1), s.byte (t.loc + 2), s.byte (t.loc + 3)])
      ∧ (∀ cs, l1iBytes s.myCore.l1i t.loc 4 = some cs → cs.length = 4 →
          ∀ i < 4, (bs.drop i).headD 0 = (Table.find s.me.pend (t.loc + i)).getD ((cs.drop i).headD 0)))
  ∧ (∀ (s : State) (b0 : List Byte) (i : Instr), fetch4 s s.pc = .ok b0 →
    (decode b0 = .ok (i, []) → fetch s = .instr i)
    ∧ ∀ b1, fetch4 s (s.pc + 4) = .ok b1 → decode (b0 ++ b1) = .ok (i, []) → fetch s = .instr i)
  ∧ (∀ (s : State) (c : CtxId), let t := issued s c
      t = { s with turn := c, cores := t.cores, tasks := t.tasks } ∧ t.pc = (s.ctx c).pc)
  ∧ (∀ s : State, Looked s (afterFetch s))
  ∧ (∀ (s : State) (c : CtxId) (id : Nat), let t := afterIssue s c id
      t = { s with turn := t.turn, tasks := t.tasks, sched := t.sched, fill := t.fill, time := s.time + 1 })
  ∧ (∀ (s : State) (i : Instr), nextAgenda s = some i → s.power = true ∨ i = .bringUp →
    step s = Out.andThen (exec i { s with agenda := if writeBlocked s i = [] then s.agenda.erase i else s.agenda }) settle)
  ∧ (∀ (s : State) (o : Out), s.power = true → nextAgenda s = none → s.bar0.pstate ≠ 3 → dueEvent s = some o →
    step s = Out.andThen o settle)
  ∧ (∀ s : State, s.power = true → nextAgenda s = none → s.bar0.pstate = 3 → step s = .next { s with time := s.time + 1 })
  ∧ (∀ s : State, s.power = false → nextAgenda s = none → step s = .fault .powerOff)

/-- After reset, UNSYNC is 1 and the other BAR0 fields are 0, LEASE is 16 microseconds, SEGMAP is the identity and every
slice pins, latches are empty, table write status reads 10, and the tables, contexts and memory hold nothing. That contexts,
TLBs, deques, tasks and memory hold nothing at reset is the model’s (logs 1 and 2). (rests on R174, R140, R198, R287, R298,
R299, R300) -/
def Obligations.ResetState : Prop :=
  let s := State.reset
  (s.bar0.unsync = true ∧ s.bar0.ready = false ∧ s.bar0.fwstate = 0 ∧ s.bar0.lrsize = 0 ∧ s.bar0.lrhead = 0 ∧ s.bar0.lrtail = 0
    ∧ s.bar0.lrerr = 0 ∧ s.bar0.fwstat = 0 ∧ s.bar0.nonce = 0 ∧ s.bar0.throt = false ∧ s.bar0.pstate = 0)
  ∧ s.mgmt.lease = 16
  ∧ (∀ n < 256, segmap s n = n ∧ (s.slice n).pinned = true)
  ∧ (∀ n, (s.core n).latch = Latch.empty ∧ (s.core n).mc = 0 ∧ (s.core n).sc = 0 ∧ (s.core n).tlb = [] ∧ (s.core n).deque = [])
  ∧ (∀ n, bitsOf (s.die n).status 1 0 = 2 ∧ (s.die n).bind = [] ∧ (s.die n).supq = [])
  ∧ bitsOf s.fill.status 1 0 = 2 ∧ s.fill.ranges = []
  ∧ (∀ c, (s.ctx c).valid = false) ∧ (∀ core p, (s.partAt core p).tfg = Tfg.zero) ∧ s.tasks = []
  ∧ s.mem = [] ∧ s.mem.wf = true ∧ s.poison = []

/-- From every state whose memory lists addresses in strictly rising order with no blank entry, every step that goes
on leaves such a memory. The form is the model’s own; it makes equal memories equal data. (rests on R5) -/
def Obligations.MemoryStaysCanonical : Prop :=
  ∀ s t : State, s.mem.wf = true → step s = .next t → t.mem.wf = true
end

