-- ==== Sys2Proof/Laws/Table.lean ====
section
/-! SUPPORT. Laws of sparse tables and of memory: reading after writing, and the canonical form, which every operation of
memory keeps. -/

set_option Elab.async false

namespace Sys2Proof.Machine

/-! ### Tables -/

namespace Table

variable {α : Type}

/-- An entry reads as what was last written to it. -/
@[simp] theorem get_set_same (d : α) (t : Table α) (n : Nat) (v : α) : get d (set t n v) n = v := by
  induction t with
  | nil => simp [set, get]
  | cons e t ih =>
    obtain ⟨k, w⟩ := e
    unfold set
    split
    · simp [get]
    · split
      · simp [get, *]
      · simp [get, *]

/-- A write leaves every other entry alone. -/
theorem get_set_other (d : α) (t : Table α) (n m : Nat) (v : α) (h : m ≠ n) : get d (set t n v) m = get d t m := by
  induction t with
  | nil =>
    simp only [set, get]
    split <;> simp_all
  | cons e t ih =>
    obtain ⟨k, w⟩ := e
    unfold set
    split
    · simp only [get]
      by_cases h1 : m < n
      · have : m < k := by omega
        simp [h1, this]
      · simp [h1, h]
    · split
      · rename_i _ h2
        subst h2
        simp only [get]
        split <;> simp
      · simp only [get, ih]

/-- Reading an entry of a table that has been written once. -/
theorem get_set (d : α) (t : Table α) (n m : Nat) (v : α) : get d (set t n v) m = if m = n then v else get d t m := by
  by_cases h : m = n
  · subst h; simp
  · simp [h, get_set_other d t n m v h]

/-- Of two writes to an entry the second stands. -/
@[simp] theorem set_set (t : Table α) (n : Nat) (v w : α) : set (set t n v) n w = set t n w := by
  induction t with
  | nil => simp [set]
  | cons e t ih =>
    obtain ⟨k, u⟩ := e
    by_cases h1 : n < k
    · simp [set, h1]
    · by_cases h2 : n = k
      · subst h2; simp [set]
      · simp [set, h1, h2, ih]

/-- An entry is listed after it has been written. -/
@[simp] theorem find_set_same (t : Table α) (n : Nat) (v : α) : find (set t n v) n = some v := by
  induction t with
  | nil => simp [set, find]
  | cons e t ih =>
    obtain ⟨k, w⟩ := e
    unfold set
    split
    · simp [find]
    · split
      · simp [find, *]
      · simp [find, *]

/-- A write lists no other entry and drops none. -/
theorem find_set_other (t : Table α) (n m : Nat) (v : α) (h : m ≠ n) : find (set t n v) m = find t m := by
  induction t with
  | nil =>
    simp only [set, find]
    split <;> simp_all
  | cons e t ih =>
    obtain ⟨k, w⟩ := e
    unfold set
    split
    · simp only [find]
      by_cases h1 : m < n
      · have : m < k := by omega
        simp [h1, this]
      · simp [h1, h]
    · split
      · rename_i _ h2
        subst h2
        simp only [find]
        split <;> simp
      · simp only [find, ih]

/-- Whether an entry is listed, and as what, in a table that has been written once. -/
theorem find_set (t : Table α) (n m : Nat) (v : α) : find (set t n v) m = if m = n then some v else find t m := by
  by_cases h : m = n
  · subst h; simp
  · simp [h, find_set_other t n m v h]

/-- Reading an entry is reading what is listed of it. -/
theorem get_eq_find (d : α) (t : Table α) (n : Nat) : get d t n = (find t n).getD d := by
  induction t with
  | nil => rfl
  | cons e t ih =>
    obtain ⟨k, w⟩ := e
    simp only [get, find]
    split
    · rfl
    · split
      · rfl
      · exact ih

end Table

/-! ### Memory -/

namespace Memory

/-- Rising from an address is rising from every lower one. -/
theorem risesFrom_mono {lo hi : Nat} {m : Memory} (h : risesFrom hi m = true) (hl : lo ≤ hi) : risesFrom lo m = true := by
  cases m with
  | nil => rfl
  | cons e t =>
    obtain ⟨k, w⟩ := e
    simp only [risesFrom, Bool.and_eq_true, decide_eq_true_eq] at h ⊢
    exact ⟨by omega, h.2⟩

/-- Bytes below the first listed address read as blank. -/
theorem get_below {lo : Nat} {m : Memory} (h : risesFrom lo m = true) {n : Nat} (hn : n < lo) : get m n = blank := by
  cases m with
  | nil => rfl
  | cons e t =>
    obtain ⟨k, w⟩ := e
    simp only [risesFrom, Bool.and_eq_true, decide_eq_true_eq] at h
    have : n < k := by omega
    simp [get, this]

/-- Dropping bytes keeps the order. -/
theorem risesFrom_filter (p : Host.Cell → Bool) {lo : Nat} {m : Memory} (h : risesFrom lo m = true) :
    risesFrom lo (m.filter p) = true := by
  induction m generalizing lo with
  | nil => rfl
  | cons e t ih =>
    obtain ⟨k, w⟩ := e
    simp only [risesFrom, Bool.and_eq_true, decide_eq_true_eq] at h
    by_cases hp : p (k, w) = true
    · simp only [List.filter_cons_of_pos hp, risesFrom, Bool.and_eq_true, decide_eq_true_eq]
      exact ⟨h.1, ih h.2⟩
    · simp only [List.filter_cons_of_neg hp]
      exact risesFrom_mono (ih h.2) (by omega)

/-- Dropping bytes keeps the canonical form. -/
theorem wf_filter (p : Host.Cell → Bool) {m : Memory} (h : m.wf = true) : wf (m.filter p) = true := by
  simp only [wf, Bool.and_eq_true, List.all_eq_true] at h ⊢
  exact ⟨risesFrom_filter p h.1, fun c hc => h.2 c (List.mem_filter.1 hc).1⟩

theorem dropWhile_rises {n lo : Nat} {t : Memory} (h : risesFrom lo t = true) (hl : n < lo) :
    t.dropWhile (fun c => decide (c.1 ≤ n)) = t := by
  cases t with
  | nil => rfl
  | cons e t =>
    obtain ⟨k, w⟩ := e
    simp only [risesFrom, Bool.and_eq_true, decide_eq_true_eq] at h
    simp [show ¬ k ≤ n by omega]

theorem risesFrom_set {lo : Nat} {m : Memory} (h : risesFrom lo m = true) (n : Nat) (v : Byte) (hn : lo ≤ n) :
    risesFrom lo (m.set n v) = true := by
  induction m generalizing lo with
  | nil =>
    simp only [set]
    split <;> simp [risesFrom, hn]
  | cons e t ih =>
    obtain ⟨k, w⟩ := e
    have h' := h
    simp only [risesFrom, Bool.and_eq_true, decide_eq_true_eq] at h'
    unfold set
    split
    · split
      · exact h
      · rename_i h1 _
        simp only [risesFrom, Bool.and_eq_true, decide_eq_true_eq]
        exact ⟨hn, by omega, h'.2⟩
    · split
      · rename_i h1 h2
        subst h2
        split
        · rw [dropWhile_rises h'.2 (by omega)]
          exact risesFrom_mono h'.2 (by omega)
        · simp only [risesFrom, Bool.and_eq_true, decide_eq_true_eq]
          exact ⟨hn, h'.2⟩
      · simp only [risesFrom, Bool.and_eq_true, decide_eq_true_eq]
        exact ⟨h'.1, ih h'.2 (by omega)⟩

theorem mem_set {m : Memory} {n : Nat} {v : Byte} {c : Host.Cell} (h : c ∈ m.set n v) :
    c ∈ m ∨ (c = (n, v) ∧ v ≠ blank) := by
  induction m with
  | nil =>
    simp only [set] at h
    split at h <;> simp_all
  | cons e t ih =>
    obtain ⟨k, w⟩ := e
    unfold set at h
    split at h
    · split at h
      · exact .inl h
      · simp only [List.mem_cons] at h ⊢
        rcases h with rfl | h
        · exact .inr ⟨rfl, by assumption⟩
        · exact .inl h
    · split at h
      · split at h
        · exact .inl (List.mem_cons_of_mem _ ((List.dropWhile_sublist _).mem h))
        · simp only [List.mem_cons] at h ⊢
          rcases h with rfl | h
          · exact .inr ⟨rfl, by assumption⟩
          · exact .inl (.inr h)
      · simp only [List.mem_cons] at h ⊢
        rcases h with rfl | h
        · exact .inl (.inl rfl)
        · rcases ih h with h | h
          · exact .inl (.inr h)
          · exact .inr h

/-- A write keeps the canonical form. -/
theorem wf_set {m : Memory} (h : m.wf = true) (n : Nat) (v : Byte) : wf (m.set n v) = true := by
  simp only [wf, Bool.and_eq_true, List.all_eq_true] at h ⊢
  refine ⟨risesFrom_set h.1 n v (Nat.zero_le _), fun c hc => ?_⟩
  rcases mem_set hc with hc | ⟨rfl, hv⟩
  · exact h.2 c hc
  · simpa using hv

/-- Writing several bytes keeps the canonical form. -/
theorem wf_write {m : Memory} (h : m.wf = true) (a : Nat) (bs : List Byte) : wf (m.write a bs) = true := by
  induction bs generalizing m a with
  | nil => exact h
  | cons b bs ih => exact ih (wf_set h a b) (a + 1)

/-- Writing a list of bytes, each to its own place, keeps the canonical form. -/
theorem wf_foldl_set {m : Memory} (h : m.wf = true) (l : List (Nat × Byte)) :
    wf (l.foldl (fun m b => m.set b.1 b.2) m) = true := by
  induction l generalizing m with
  | nil => exact h
  | cons b l ih => exact ih (wf_set h b.1 b.2)

/-- Dropping what does not lie above an address changes no byte above it. -/
theorem get_dropWhile (t : Memory) {n a : Nat} (h : n < a) : get (t.dropWhile (fun c => decide (c.1 ≤ n))) a = get t a := by
  induction t with
  | nil => rfl
  | cons e t ih =>
    obtain ⟨k, w⟩ := e
    by_cases hk : k ≤ n
    · simp [hk, get, show ¬ a < k by omega, show a ≠ k by omega, ih]
    · simp [hk]

/-- Nothing that lies above an address says anything of the bytes up to it. -/
theorem get_dropWhile_low (t : Memory) {n a : Nat} (h : a ≤ n) : get (t.dropWhile (fun c => decide (c.1 ≤ n))) a = blank := by
  induction t with
  | nil => rfl
  | cons e t ih =>
    obtain ⟨k, w⟩ := e
    by_cases hk : k ≤ n
    · simp [hk, ih]
    · simp [hk, get, show a < k by omega]

/-- A byte reads as what was last written to it. -/
@[simp] theorem get_set_same (m : Memory) (n : Nat) (v : Byte) : get (m.set n v) n = v := by
  induction m with
  | nil =>
    simp only [set]
    split <;> simp_all [get]
  | cons e t ih =>
    obtain ⟨k, w⟩ := e
    unfold set
    split
    · split <;> simp_all [get]
    · split
      · split
        · simp_all [get_dropWhile_low]
        · simp [get]
      · simp_all [get]

/-- A write leaves every other byte alone. -/
theorem get_set_other (m : Memory) (n a : Nat) (v : Byte) (ha : a ≠ n) : get (m.set n v) a = get m a := by
  induction m with
  | nil =>
    simp only [set]
    split
    · rfl
    · simp only [get]
      split <;> simp_all
  | cons e t ih =>
    obtain ⟨k, w⟩ := e
    unfold set
    split
    · split
      · rfl
      · simp only [get]
        by_cases h1 : a < n
        · simp [h1, show a < k by omega]
        · simp [h1, ha]
    · split
      · rename_i h1 h2
        subst h2
        split
        · by_cases h3 : a < n
          · simp [get, h3, get_dropWhile_low t (show a ≤ n by omega)]
          · simp [get, h3, ha, get_dropWhile t (show n < a by omega)]
        · simp only [get]
          split <;> simp
      · simp [get, ih]

/-- Reading a byte of memory that has been written once. -/
theorem get_set (m : Memory) (n a : Nat) (v : Byte) : get (m.set n v) a = if a = n then v else get m a := by
  by_cases ha : a = n
  · subst ha; simp
  · simp [ha, get_set_other m n a v ha]

/-- Bytes outside a range that is written stay as they are. -/
theorem get_write_other (m : Memory) (a : Nat) (bs : List Byte) (l : Nat) (h : l < a ∨ a + bs.length ≤ l) :
    get (m.write a bs) l = get m l := by
  induction bs generalizing m a with
  | nil => rfl
  | cons b bs ih =>
    simp only [List.length_cons] at h
    rw [write, ih (m.set a b) (a + 1) (by omega), get_set_other m a l b (by omega)]

end Memory

end Sys2Proof.Machine
end

