-- ==== Sys2Proof/Laws/State.lean ====
section
/-! SUPPORT. Laws of updates of the state: for each update and each field that it leaves alone, that it does; and what is
read of what has been written. -/

set_option Elab.async false

namespace Sys2Proof.Machine

/-! ### `setCtx` changes ctxs alone -/

@[simp] theorem setCtx_time (s : State) (c : CtxId) (k : Ctx) : (s.setCtx c k).time = s.time := rfl
@[simp] theorem setCtx_power (s : State) (c : CtxId) (k : Ctx) : (s.setCtx c k).power = s.power := rfl
@[simp] theorem setCtx_agenda (s : State) (c : CtxId) (k : Ctx) : (s.setCtx c k).agenda = s.agenda := rfl
@[simp] theorem setCtx_turn (s : State) (c : CtxId) (k : Ctx) : (s.setCtx c k).turn = s.turn := rfl
@[simp] theorem setCtx_freeCnt (s : State) (c : CtxId) (k : Ctx) : (s.setCtx c k).freeCnt = s.freeCnt := rfl
@[simp] theorem setCtx_mem (s : State) (c : CtxId) (k : Ctx) : (s.setCtx c k).mem = s.mem := rfl
@[simp] theorem setCtx_poison (s : State) (c : CtxId) (k : Ctx) : (s.setCtx c k).poison = s.poison := rfl
@[simp] theorem setCtx_l2Due (s : State) (c : CtxId) (k : Ctx) : (s.setCtx c k).l2Due = s.l2Due := rfl
@[simp] theorem setCtx_badCheck (s : State) (c : CtxId) (k : Ctx) : (s.setCtx c k).badCheck = s.badCheck := rfl
@[simp] theorem setCtx_uncached (s : State) (c : CtxId) (k : Ctx) : (s.setCtx c k).uncached = s.uncached := rfl
@[simp] theorem setCtx_dirUse (s : State) (c : CtxId) (k : Ctx) : (s.setCtx c k).dirUse = s.dirUse := rfl
@[simp] theorem setCtx_narrow (s : State) (c : CtxId) (k : Ctx) : (s.setCtx c k).narrow = s.narrow := rfl
@[simp] theorem setCtx_dirDue (s : State) (c : CtxId) (k : Ctx) : (s.setCtx c k).dirDue = s.dirDue := rfl
@[simp] theorem setCtx_blends (s : State) (c : CtxId) (k : Ctx) : (s.setCtx c k).blends = s.blends := rfl
@[simp] theorem setCtx_parts (s : State) (c : CtxId) (k : Ctx) : (s.setCtx c k).parts = s.parts := rfl
@[simp] theorem setCtx_cores (s : State) (c : CtxId) (k : Ctx) : (s.setCtx c k).cores = s.cores := rfl
@[simp] theorem setCtx_tasks (s : State) (c : CtxId) (k : Ctx) : (s.setCtx c k).tasks = s.tasks := rfl
@[simp] theorem setCtx_dies (s : State) (c : CtxId) (k : Ctx) : (s.setCtx c k).dies = s.dies := rfl
@[simp] theorem setCtx_slices (s : State) (c : CtxId) (k : Ctx) : (s.setCtx c k).slices = s.slices := rfl
@[simp] theorem setCtx_clusters (s : State) (c : CtxId) (k : Ctx) : (s.setCtx c k).clusters = s.clusters := rfl
@[simp] theorem setCtx_sched (s : State) (c : CtxId) (k : Ctx) : (s.setCtx c k).sched = s.sched := rfl
@[simp] theorem setCtx_fill (s : State) (c : CtxId) (k : Ctx) : (s.setCtx c k).fill = s.fill := rfl
@[simp] theorem setCtx_bar0 (s : State) (c : CtxId) (k : Ctx) : (s.setCtx c k).bar0 = s.bar0 := rfl
@[simp] theorem setCtx_mgmt (s : State) (c : CtxId) (k : Ctx) : (s.setCtx c k).mgmt = s.mgmt := rfl
@[simp] theorem setCtx_fw (s : State) (c : CtxId) (k : Ctx) : (s.setCtx c k).fw = s.fw := rfl
@[simp] theorem setCtx_saved (s : State) (c : CtxId) (k : Ctx) : (s.setCtx c k).saved = s.saved := rfl

/-! ### `setPartAt` changes parts alone -/

@[simp] theorem setPartAt_time (s : State) (c p : Nat) (q : Part) : (s.setPartAt c p q).time = s.time := rfl
@[simp] theorem setPartAt_power (s : State) (c p : Nat) (q : Part) : (s.setPartAt c p q).power = s.power := rfl
@[simp] theorem setPartAt_agenda (s : State) (c p : Nat) (q : Part) : (s.setPartAt c p q).agenda = s.agenda := rfl
@[simp] theorem setPartAt_turn (s : State) (c p : Nat) (q : Part) : (s.setPartAt c p q).turn = s.turn := rfl
@[simp] theorem setPartAt_freeCnt (s : State) (c p : Nat) (q : Part) : (s.setPartAt c p q).freeCnt = s.freeCnt := rfl
@[simp] theorem setPartAt_mem (s : State) (c p : Nat) (q : Part) : (s.setPartAt c p q).mem = s.mem := rfl
@[simp] theorem setPartAt_poison (s : State) (c p : Nat) (q : Part) : (s.setPartAt c p q).poison = s.poison := rfl
@[simp] theorem setPartAt_l2Due (s : State) (c p : Nat) (q : Part) : (s.setPartAt c p q).l2Due = s.l2Due := rfl
@[simp] theorem setPartAt_badCheck (s : State) (c p : Nat) (q : Part) : (s.setPartAt c p q).badCheck = s.badCheck := rfl
@[simp] theorem setPartAt_uncached (s : State) (c p : Nat) (q : Part) : (s.setPartAt c p q).uncached = s.uncached := rfl
@[simp] theorem setPartAt_dirUse (s : State) (c p : Nat) (q : Part) : (s.setPartAt c p q).dirUse = s.dirUse := rfl
@[simp] theorem setPartAt_narrow (s : State) (c p : Nat) (q : Part) : (s.setPartAt c p q).narrow = s.narrow := rfl
@[simp] theorem setPartAt_dirDue (s : State) (c p : Nat) (q : Part) : (s.setPartAt c p q).dirDue = s.dirDue := rfl
@[simp] theorem setPartAt_blends (s : State) (c p : Nat) (q : Part) : (s.setPartAt c p q).blends = s.blends := rfl
@[simp] theorem setPartAt_ctxs (s : State) (c p : Nat) (q : Part) : (s.setPartAt c p q).ctxs = s.ctxs := rfl
@[simp] theorem setPartAt_cores (s : State) (c p : Nat) (q : Part) : (s.setPartAt c p q).cores = s.cores := rfl
@[simp] theorem setPartAt_tasks (s : State) (c p : Nat) (q : Part) : (s.setPartAt c p q).tasks = s.tasks := rfl
@[simp] theorem setPartAt_dies (s : State) (c p : Nat) (q : Part) : (s.setPartAt c p q).dies = s.dies := rfl
@[simp] theorem setPartAt_slices (s : State) (c p : Nat) (q : Part) : (s.setPartAt c p q).slices = s.slices := rfl
@[simp] theorem setPartAt_clusters (s : State) (c p : Nat) (q : Part) : (s.setPartAt c p q).clusters = s.clusters := rfl
@[simp] theorem setPartAt_sched (s : State) (c p : Nat) (q : Part) : (s.setPartAt c p q).sched = s.sched := rfl
@[simp] theorem setPartAt_fill (s : State) (c p : Nat) (q : Part) : (s.setPartAt c p q).fill = s.fill := rfl
@[simp] theorem setPartAt_bar0 (s : State) (c p : Nat) (q : Part) : (s.setPartAt c p q).bar0 = s.bar0 := rfl
@[simp] theorem setPartAt_mgmt (s : State) (c p : Nat) (q : Part) : (s.setPartAt c p q).mgmt = s.mgmt := rfl
@[simp] theorem setPartAt_fw (s : State) (c p : Nat) (q : Part) : (s.setPartAt c p q).fw = s.fw := rfl
@[simp] theorem setPartAt_saved (s : State) (c p : Nat) (q : Part) : (s.setPartAt c p q).saved = s.saved := rfl

/-! ### `setCore` changes cores alone -/

@[simp] theorem setCore_time (s : State) (n : Nat) (c : Core) : (s.setCore n c).time = s.time := rfl
@[simp] theorem setCore_power (s : State) (n : Nat) (c : Core) : (s.setCore n c).power = s.power := rfl
@[simp] theorem setCore_agenda (s : State) (n : Nat) (c : Core) : (s.setCore n c).agenda = s.agenda := rfl
@[simp] theorem setCore_turn (s : State) (n : Nat) (c : Core) : (s.setCore n c).turn = s.turn := rfl
@[simp] theorem setCore_freeCnt (s : State) (n : Nat) (c : Core) : (s.setCore n c).freeCnt = s.freeCnt := rfl
@[simp] theorem setCore_mem (s : State) (n : Nat) (c : Core) : (s.setCore n c).mem = s.mem := rfl
@[simp] theorem setCore_poison (s : State) (n : Nat) (c : Core) : (s.setCore n c).poison = s.poison := rfl
@[simp] theorem setCore_l2Due (s : State) (n : Nat) (c : Core) : (s.setCore n c).l2Due = s.l2Due := rfl
@[simp] theorem setCore_badCheck (s : State) (n : Nat) (c : Core) : (s.setCore n c).badCheck = s.badCheck := rfl
@[simp] theorem setCore_uncached (s : State) (n : Nat) (c : Core) : (s.setCore n c).uncached = s.uncached := rfl
@[simp] theorem setCore_dirUse (s : State) (n : Nat) (c : Core) : (s.setCore n c).dirUse = s.dirUse := rfl
@[simp] theorem setCore_narrow (s : State) (n : Nat) (c : Core) : (s.setCore n c).narrow = s.narrow := rfl
@[simp] theorem setCore_dirDue (s : State) (n : Nat) (c : Core) : (s.setCore n c).dirDue = s.dirDue := rfl
@[simp] theorem setCore_blends (s : State) (n : Nat) (c : Core) : (s.setCore n c).blends = s.blends := rfl
@[simp] theorem setCore_ctxs (s : State) (n : Nat) (c : Core) : (s.setCore n c).ctxs = s.ctxs := rfl
@[simp] theorem setCore_parts (s : State) (n : Nat) (c : Core) : (s.setCore n c).parts = s.parts := rfl
@[simp] theorem setCore_tasks (s : State) (n : Nat) (c : Core) : (s.setCore n c).tasks = s.tasks := rfl
@[simp] theorem setCore_dies (s : State) (n : Nat) (c : Core) : (s.setCore n c).dies = s.dies := rfl
@[simp] theorem setCore_slices (s : State) (n : Nat) (c : Core) : (s.setCore n c).slices = s.slices := rfl
@[simp] theorem setCore_clusters (s : State) (n : Nat) (c : Core) : (s.setCore n c).clusters = s.clusters := rfl
@[simp] theorem setCore_sched (s : State) (n : Nat) (c : Core) : (s.setCore n c).sched = s.sched := rfl
@[simp] theorem setCore_fill (s : State) (n : Nat) (c : Core) : (s.setCore n c).fill = s.fill := rfl
@[simp] theorem setCore_bar0 (s : State) (n : Nat) (c : Core) : (s.setCore n c).bar0 = s.bar0 := rfl
@[simp] theorem setCore_mgmt (s : State) (n : Nat) (c : Core) : (s.setCore n c).mgmt = s.mgmt := rfl
@[simp] theorem setCore_fw (s : State) (n : Nat) (c : Core) : (s.setCore n c).fw = s.fw := rfl
@[simp] theorem setCore_saved (s : State) (n : Nat) (c : Core) : (s.setCore n c).saved = s.saved := rfl

/-! ### `setTask` changes tasks alone -/

@[simp] theorem setTask_time (s : State) (n : Nat) (t : Task) : (s.setTask n t).time = s.time := rfl
@[simp] theorem setTask_power (s : State) (n : Nat) (t : Task) : (s.setTask n t).power = s.power := rfl
@[simp] theorem setTask_agenda (s : State) (n : Nat) (t : Task) : (s.setTask n t).agenda = s.agenda := rfl
@[simp] theorem setTask_turn (s : State) (n : Nat) (t : Task) : (s.setTask n t).turn = s.turn := rfl
@[simp] theorem setTask_freeCnt (s : State) (n : Nat) (t : Task) : (s.setTask n t).freeCnt = s.freeCnt := rfl
@[simp] theorem setTask_mem (s : State) (n : Nat) (t : Task) : (s.setTask n t).mem = s.mem := rfl
@[simp] theorem setTask_poison (s : State) (n : Nat) (t : Task) : (s.setTask n t).poison = s.poison := rfl
@[simp] theorem setTask_l2Due (s : State) (n : Nat) (t : Task) : (s.setTask n t).l2Due = s.l2Due := rfl
@[simp] theorem setTask_badCheck (s : State) (n : Nat) (t : Task) : (s.setTask n t).badCheck = s.badCheck := rfl
@[simp] theorem setTask_uncached (s : State) (n : Nat) (t : Task) : (s.setTask n t).uncached = s.uncached := rfl
@[simp] theorem setTask_dirUse (s : State) (n : Nat) (t : Task) : (s.setTask n t).dirUse = s.dirUse := rfl
@[simp] theorem setTask_narrow (s : State) (n : Nat) (t : Task) : (s.setTask n t).narrow = s.narrow := rfl
@[simp] theorem setTask_dirDue (s : State) (n : Nat) (t : Task) : (s.setTask n t).dirDue = s.dirDue := rfl
@[simp] theorem setTask_blends (s : State) (n : Nat) (t : Task) : (s.setTask n t).blends = s.blends := rfl
@[simp] theorem setTask_ctxs (s : State) (n : Nat) (t : Task) : (s.setTask n t).ctxs = s.ctxs := rfl
@[simp] theorem setTask_parts (s : State) (n : Nat) (t : Task) : (s.setTask n t).parts = s.parts := rfl
@[simp] theorem setTask_cores (s : State) (n : Nat) (t : Task) : (s.setTask n t).cores = s.cores := rfl
@[simp] theorem setTask_dies (s : State) (n : Nat) (t : Task) : (s.setTask n t).dies = s.dies := rfl
@[simp] theorem setTask_slices (s : State) (n : Nat) (t : Task) : (s.setTask n t).slices = s.slices := rfl
@[simp] theorem setTask_clusters (s : State) (n : Nat) (t : Task) : (s.setTask n t).clusters = s.clusters := rfl
@[simp] theorem setTask_sched (s : State) (n : Nat) (t : Task) : (s.setTask n t).sched = s.sched := rfl
@[simp] theorem setTask_fill (s : State) (n : Nat) (t : Task) : (s.setTask n t).fill = s.fill := rfl
@[simp] theorem setTask_bar0 (s : State) (n : Nat) (t : Task) : (s.setTask n t).bar0 = s.bar0 := rfl
@[simp] theorem setTask_mgmt (s : State) (n : Nat) (t : Task) : (s.setTask n t).mgmt = s.mgmt := rfl
@[simp] theorem setTask_fw (s : State) (n : Nat) (t : Task) : (s.setTask n t).fw = s.fw := rfl
@[simp] theorem setTask_saved (s : State) (n : Nat) (t : Task) : (s.setTask n t).saved = s.saved := rfl

/-! ### `setDie` changes dies alone -/

@[simp] theorem setDie_time (s : State) (n : Nat) (d : Die) : (s.setDie n d).time = s.time := rfl
@[simp] theorem setDie_power (s : State) (n : Nat) (d : Die) : (s.setDie n d).power = s.power := rfl
@[simp] theorem setDie_agenda (s : State) (n : Nat) (d : Die) : (s.setDie n d).agenda = s.agenda := rfl
@[simp] theorem setDie_turn (s : State) (n : Nat) (d : Die) : (s.setDie n d).turn = s.turn := rfl
@[simp] theorem setDie_freeCnt (s : State) (n : Nat) (d : Die) : (s.setDie n d).freeCnt = s.freeCnt := rfl
@[simp] theorem setDie_mem (s : State) (n : Nat) (d : Die) : (s.setDie n d).mem = s.mem := rfl
@[simp] theorem setDie_poison (s : State) (n : Nat) (d : Die) : (s.setDie n d).poison = s.poison := rfl
@[simp] theorem setDie_l2Due (s : State) (n : Nat) (d : Die) : (s.setDie n d).l2Due = s.l2Due := rfl
@[simp] theorem setDie_badCheck (s : State) (n : Nat) (d : Die) : (s.setDie n d).badCheck = s.badCheck := rfl
@[simp] theorem setDie_uncached (s : State) (n : Nat) (d : Die) : (s.setDie n d).uncached = s.uncached := rfl
@[simp] theorem setDie_dirUse (s : State) (n : Nat) (d : Die) : (s.setDie n d).dirUse = s.dirUse := rfl
@[simp] theorem setDie_narrow (s : State) (n : Nat) (d : Die) : (s.setDie n d).narrow = s.narrow := rfl
@[simp] theorem setDie_dirDue (s : State) (n : Nat) (d : Die) : (s.setDie n d).dirDue = s.dirDue := rfl
@[simp] theorem setDie_blends (s : State) (n : Nat) (d : Die) : (s.setDie n d).blends = s.blends := rfl
@[simp] theorem setDie_ctxs (s : State) (n : Nat) (d : Die) : (s.setDie n d).ctxs = s.ctxs := rfl
@[simp] theorem setDie_parts (s : State) (n : Nat) (d : Die) : (s.setDie n d).parts = s.parts := rfl
@[simp] theorem setDie_cores (s : State) (n : Nat) (d : Die) : (s.setDie n d).cores = s.cores := rfl
@[simp] theorem setDie_tasks (s : State) (n : Nat) (d : Die) : (s.setDie n d).tasks = s.tasks := rfl
@[simp] theorem setDie_slices (s : State) (n : Nat) (d : Die) : (s.setDie n d).slices = s.slices := rfl
@[simp] theorem setDie_clusters (s : State) (n : Nat) (d : Die) : (s.setDie n d).clusters = s.clusters := rfl
@[simp] theorem setDie_sched (s : State) (n : Nat) (d : Die) : (s.setDie n d).sched = s.sched := rfl
@[simp] theorem setDie_fill (s : State) (n : Nat) (d : Die) : (s.setDie n d).fill = s.fill := rfl
@[simp] theorem setDie_bar0 (s : State) (n : Nat) (d : Die) : (s.setDie n d).bar0 = s.bar0 := rfl
@[simp] theorem setDie_mgmt (s : State) (n : Nat) (d : Die) : (s.setDie n d).mgmt = s.mgmt := rfl
@[simp] theorem setDie_fw (s : State) (n : Nat) (d : Die) : (s.setDie n d).fw = s.fw := rfl
@[simp] theorem setDie_saved (s : State) (n : Nat) (d : Die) : (s.setDie n d).saved = s.saved := rfl

/-! ### `setSlice` changes slices alone -/

@[simp] theorem setSlice_time (s : State) (n : Nat) (d : Slice) : (s.setSlice n d).time = s.time := rfl
@[simp] theorem setSlice_power (s : State) (n : Nat) (d : Slice) : (s.setSlice n d).power = s.power := rfl
@[simp] theorem setSlice_agenda (s : State) (n : Nat) (d : Slice) : (s.setSlice n d).agenda = s.agenda := rfl
@[simp] theorem setSlice_turn (s : State) (n : Nat) (d : Slice) : (s.setSlice n d).turn = s.turn := rfl
@[simp] theorem setSlice_freeCnt (s : State) (n : Nat) (d : Slice) : (s.setSlice n d).freeCnt = s.freeCnt := rfl
@[simp] theorem setSlice_mem (s : State) (n : Nat) (d : Slice) : (s.setSlice n d).mem = s.mem := rfl
@[simp] theorem setSlice_poison (s : State) (n : Nat) (d : Slice) : (s.setSlice n d).poison = s.poison := rfl
@[simp] theorem setSlice_l2Due (s : State) (n : Nat) (d : Slice) : (s.setSlice n d).l2Due = s.l2Due := rfl
@[simp] theorem setSlice_badCheck (s : State) (n : Nat) (d : Slice) : (s.setSlice n d).badCheck = s.badCheck := rfl
@[simp] theorem setSlice_uncached (s : State) (n : Nat) (d : Slice) : (s.setSlice n d).uncached = s.uncached := rfl
@[simp] theorem setSlice_dirUse (s : State) (n : Nat) (d : Slice) : (s.setSlice n d).dirUse = s.dirUse := rfl
@[simp] theorem setSlice_narrow (s : State) (n : Nat) (d : Slice) : (s.setSlice n d).narrow = s.narrow := rfl
@[simp] theorem setSlice_dirDue (s : State) (n : Nat) (d : Slice) : (s.setSlice n d).dirDue = s.dirDue := rfl
@[simp] theorem setSlice_blends (s : State) (n : Nat) (d : Slice) : (s.setSlice n d).blends = s.blends := rfl
@[simp] theorem setSlice_ctxs (s : State) (n : Nat) (d : Slice) : (s.setSlice n d).ctxs = s.ctxs := rfl
@[simp] theorem setSlice_parts (s : State) (n : Nat) (d : Slice) : (s.setSlice n d).parts = s.parts := rfl
@[simp] theorem setSlice_cores (s : State) (n : Nat) (d : Slice) : (s.setSlice n d).cores = s.cores := rfl
@[simp] theorem setSlice_tasks (s : State) (n : Nat) (d : Slice) : (s.setSlice n d).tasks = s.tasks := rfl
@[simp] theorem setSlice_dies (s : State) (n : Nat) (d : Slice) : (s.setSlice n d).dies = s.dies := rfl
@[simp] theorem setSlice_clusters (s : State) (n : Nat) (d : Slice) : (s.setSlice n d).clusters = s.clusters := rfl
@[simp] theorem setSlice_sched (s : State) (n : Nat) (d : Slice) : (s.setSlice n d).sched = s.sched := rfl
@[simp] theorem setSlice_fill (s : State) (n : Nat) (d : Slice) : (s.setSlice n d).fill = s.fill := rfl
@[simp] theorem setSlice_bar0 (s : State) (n : Nat) (d : Slice) : (s.setSlice n d).bar0 = s.bar0 := rfl
@[simp] theorem setSlice_mgmt (s : State) (n : Nat) (d : Slice) : (s.setSlice n d).mgmt = s.mgmt := rfl
@[simp] theorem setSlice_fw (s : State) (n : Nat) (d : Slice) : (s.setSlice n d).fw = s.fw := rfl
@[simp] theorem setSlice_saved (s : State) (n : Nat) (d : Slice) : (s.setSlice n d).saved = s.saved := rfl

/-! ### `setCluster` changes clusters alone -/

@[simp] theorem setCluster_time (s : State) (n : Nat) (d : Cluster) : (s.setCluster n d).time = s.time := rfl
@[simp] theorem setCluster_power (s : State) (n : Nat) (d : Cluster) : (s.setCluster n d).power = s.power := rfl
@[simp] theorem setCluster_agenda (s : State) (n : Nat) (d : Cluster) : (s.setCluster n d).agenda = s.agenda := rfl
@[simp] theorem setCluster_turn (s : State) (n : Nat) (d : Cluster) : (s.setCluster n d).turn = s.turn := rfl
@[simp] theorem setCluster_freeCnt (s : State) (n : Nat) (d : Cluster) : (s.setCluster n d).freeCnt = s.freeCnt := rfl
@[simp] theorem setCluster_mem (s : State) (n : Nat) (d : Cluster) : (s.setCluster n d).mem = s.mem := rfl
@[simp] theorem setCluster_poison (s : State) (n : Nat) (d : Cluster) : (s.setCluster n d).poison = s.poison := rfl
@[simp] theorem setCluster_l2Due (s : State) (n : Nat) (d : Cluster) : (s.setCluster n d).l2Due = s.l2Due := rfl
@[simp] theorem setCluster_badCheck (s : State) (n : Nat) (d : Cluster) : (s.setCluster n d).badCheck = s.badCheck := rfl
@[simp] theorem setCluster_uncached (s : State) (n : Nat) (d : Cluster) : (s.setCluster n d).uncached = s.uncached := rfl
@[simp] theorem setCluster_dirUse (s : State) (n : Nat) (d : Cluster) : (s.setCluster n d).dirUse = s.dirUse := rfl
@[simp] theorem setCluster_narrow (s : State) (n : Nat) (d : Cluster) : (s.setCluster n d).narrow = s.narrow := rfl
@[simp] theorem setCluster_dirDue (s : State) (n : Nat) (d : Cluster) : (s.setCluster n d).dirDue = s.dirDue := rfl
@[simp] theorem setCluster_blends (s : State) (n : Nat) (d : Cluster) : (s.setCluster n d).blends = s.blends := rfl
@[simp] theorem setCluster_ctxs (s : State) (n : Nat) (d : Cluster) : (s.setCluster n d).ctxs = s.ctxs := rfl
@[simp] theorem setCluster_parts (s : State) (n : Nat) (d : Cluster) : (s.setCluster n d).parts = s.parts := rfl
@[simp] theorem setCluster_cores (s : State) (n : Nat) (d : Cluster) : (s.setCluster n d).cores = s.cores := rfl
@[simp] theorem setCluster_tasks (s : State) (n : Nat) (d : Cluster) : (s.setCluster n d).tasks = s.tasks := rfl
@[simp] theorem setCluster_dies (s : State) (n : Nat) (d : Cluster) : (s.setCluster n d).dies = s.dies := rfl
@[simp] theorem setCluster_slices (s : State) (n : Nat) (d : Cluster) : (s.setCluster n d).slices = s.slices := rfl
@[simp] theorem setCluster_sched (s : State) (n : Nat) (d : Cluster) : (s.setCluster n d).sched = s.sched := rfl
@[simp] theorem setCluster_fill (s : State) (n : Nat) (d : Cluster) : (s.setCluster n d).fill = s.fill := rfl
@[simp] theorem setCluster_bar0 (s : State) (n : Nat) (d : Cluster) : (s.setCluster n d).bar0 = s.bar0 := rfl
@[simp] theorem setCluster_mgmt (s : State) (n : Nat) (d : Cluster) : (s.setCluster n d).mgmt = s.mgmt := rfl
@[simp] theorem setCluster_fw (s : State) (n : Nat) (d : Cluster) : (s.setCluster n d).fw = s.fw := rfl
@[simp] theorem setCluster_saved (s : State) (n : Nat) (d : Cluster) : (s.setCluster n d).saved = s.saved := rfl

/-! ### `setSeg` changes sched alone -/

@[simp] theorem setSeg_time (s : State) (n : Nat) (g : Seg) : (s.setSeg n g).time = s.time := rfl
@[simp] theorem setSeg_power (s : State) (n : Nat) (g : Seg) : (s.setSeg n g).power = s.power := rfl
@[simp] theorem setSeg_agenda (s : State) (n : Nat) (g : Seg) : (s.setSeg n g).agenda = s.agenda := rfl
@[simp] theorem setSeg_turn (s : State) (n : Nat) (g : Seg) : (s.setSeg n g).turn = s.turn := rfl
@[simp] theorem setSeg_freeCnt (s : State) (n : Nat) (g : Seg) : (s.setSeg n g).freeCnt = s.freeCnt := rfl
@[simp] theorem setSeg_mem (s : State) (n : Nat) (g : Seg) : (s.setSeg n g).mem = s.mem := rfl
@[simp] theorem setSeg_poison (s : State) (n : Nat) (g : Seg) : (s.setSeg n g).poison = s.poison := rfl
@[simp] theorem setSeg_l2Due (s : State) (n : Nat) (g : Seg) : (s.setSeg n g).l2Due = s.l2Due := rfl
@[simp] theorem setSeg_badCheck (s : State) (n : Nat) (g : Seg) : (s.setSeg n g).badCheck = s.badCheck := rfl
@[simp] theorem setSeg_uncached (s : State) (n : Nat) (g : Seg) : (s.setSeg n g).uncached = s.uncached := rfl
@[simp] theorem setSeg_dirUse (s : State) (n : Nat) (g : Seg) : (s.setSeg n g).dirUse = s.dirUse := rfl
@[simp] theorem setSeg_narrow (s : State) (n : Nat) (g : Seg) : (s.setSeg n g).narrow = s.narrow := rfl
@[simp] theorem setSeg_dirDue (s : State) (n : Nat) (g : Seg) : (s.setSeg n g).dirDue = s.dirDue := rfl
@[simp] theorem setSeg_blends (s : State) (n : Nat) (g : Seg) : (s.setSeg n g).blends = s.blends := rfl
@[simp] theorem setSeg_ctxs (s : State) (n : Nat) (g : Seg) : (s.setSeg n g).ctxs = s.ctxs := rfl
@[simp] theorem setSeg_parts (s : State) (n : Nat) (g : Seg) : (s.setSeg n g).parts = s.parts := rfl
@[simp] theorem setSeg_cores (s : State) (n : Nat) (g : Seg) : (s.setSeg n g).cores = s.cores := rfl
@[simp] theorem setSeg_tasks (s : State) (n : Nat) (g : Seg) : (s.setSeg n g).tasks = s.tasks := rfl
@[simp] theorem setSeg_dies (s : State) (n : Nat) (g : Seg) : (s.setSeg n g).dies = s.dies := rfl
@[simp] theorem setSeg_slices (s : State) (n : Nat) (g : Seg) : (s.setSeg n g).slices = s.slices := rfl
@[simp] theorem setSeg_clusters (s : State) (n : Nat) (g : Seg) : (s.setSeg n g).clusters = s.clusters := rfl
@[simp] theorem setSeg_fill (s : State) (n : Nat) (g : Seg) : (s.setSeg n g).fill = s.fill := rfl
@[simp] theorem setSeg_bar0 (s : State) (n : Nat) (g : Seg) : (s.setSeg n g).bar0 = s.bar0 := rfl
@[simp] theorem setSeg_mgmt (s : State) (n : Nat) (g : Seg) : (s.setSeg n g).mgmt = s.mgmt := rfl
@[simp] theorem setSeg_fw (s : State) (n : Nat) (g : Seg) : (s.setSeg n g).fw = s.fw := rfl
@[simp] theorem setSeg_saved (s : State) (n : Nat) (g : Seg) : (s.setSeg n g).saved = s.saved := rfl

/-! ### `setMe` changes ctxs alone -/

@[simp] theorem setMe_time (s : State) (k : Ctx) : (s.setMe k).time = s.time := rfl
@[simp] theorem setMe_power (s : State) (k : Ctx) : (s.setMe k).power = s.power := rfl
@[simp] theorem setMe_agenda (s : State) (k : Ctx) : (s.setMe k).agenda = s.agenda := rfl
@[simp] theorem setMe_turn (s : State) (k : Ctx) : (s.setMe k).turn = s.turn := rfl
@[simp] theorem setMe_freeCnt (s : State) (k : Ctx) : (s.setMe k).freeCnt = s.freeCnt := rfl
@[simp] theorem setMe_mem (s : State) (k : Ctx) : (s.setMe k).mem = s.mem := rfl
@[simp] theorem setMe_poison (s : State) (k : Ctx) : (s.setMe k).poison = s.poison := rfl
@[simp] theorem setMe_l2Due (s : State) (k : Ctx) : (s.setMe k).l2Due = s.l2Due := rfl
@[simp] theorem setMe_badCheck (s : State) (k : Ctx) : (s.setMe k).badCheck = s.badCheck := rfl
@[simp] theorem setMe_uncached (s : State) (k : Ctx) : (s.setMe k).uncached = s.uncached := rfl
@[simp] theorem setMe_dirUse (s : State) (k : Ctx) : (s.setMe k).dirUse = s.dirUse := rfl
@[simp] theorem setMe_narrow (s : State) (k : Ctx) : (s.setMe k).narrow = s.narrow := rfl
@[simp] theorem setMe_dirDue (s : State) (k : Ctx) : (s.setMe k).dirDue = s.dirDue := rfl
@[simp] theorem setMe_blends (s : State) (k : Ctx) : (s.setMe k).blends = s.blends := rfl
@[simp] theorem setMe_parts (s : State) (k : Ctx) : (s.setMe k).parts = s.parts := rfl
@[simp] theorem setMe_cores (s : State) (k : Ctx) : (s.setMe k).cores = s.cores := rfl
@[simp] theorem setMe_tasks (s : State) (k : Ctx) : (s.setMe k).tasks = s.tasks := rfl
@[simp] theorem setMe_dies (s : State) (k : Ctx) : (s.setMe k).dies = s.dies := rfl
@[simp] theorem setMe_slices (s : State) (k : Ctx) : (s.setMe k).slices = s.slices := rfl
@[simp] theorem setMe_clusters (s : State) (k : Ctx) : (s.setMe k).clusters = s.clusters := rfl
@[simp] theorem setMe_sched (s : State) (k : Ctx) : (s.setMe k).sched = s.sched := rfl
@[simp] theorem setMe_fill (s : State) (k : Ctx) : (s.setMe k).fill = s.fill := rfl
@[simp] theorem setMe_bar0 (s : State) (k : Ctx) : (s.setMe k).bar0 = s.bar0 := rfl
@[simp] theorem setMe_mgmt (s : State) (k : Ctx) : (s.setMe k).mgmt = s.mgmt := rfl
@[simp] theorem setMe_fw (s : State) (k : Ctx) : (s.setMe k).fw = s.fw := rfl
@[simp] theorem setMe_saved (s : State) (k : Ctx) : (s.setMe k).saved = s.saved := rfl

/-! ### `setPart` changes parts alone -/

@[simp] theorem setPart_time (s : State) (q : Part) : (s.setPart q).time = s.time := rfl
@[simp] theorem setPart_power (s : State) (q : Part) : (s.setPart q).power = s.power := rfl
@[simp] theorem setPart_agenda (s : State) (q : Part) : (s.setPart q).agenda = s.agenda := rfl
@[simp] theorem setPart_turn (s : State) (q : Part) : (s.setPart q).turn = s.turn := rfl
@[simp] theorem setPart_freeCnt (s : State) (q : Part) : (s.setPart q).freeCnt = s.freeCnt := rfl
@[simp] theorem setPart_mem (s : State) (q : Part) : (s.setPart q).mem = s.mem := rfl
@[simp] theorem setPart_poison (s : State) (q : Part) : (s.setPart q).poison = s.poison := rfl
@[simp] theorem setPart_l2Due (s : State) (q : Part) : (s.setPart q).l2Due = s.l2Due := rfl
@[simp] theorem setPart_badCheck (s : State) (q : Part) : (s.setPart q).badCheck = s.badCheck := rfl
@[simp] theorem setPart_uncached (s : State) (q : Part) : (s.setPart q).uncached = s.uncached := rfl
@[simp] theorem setPart_dirUse (s : State) (q : Part) : (s.setPart q).dirUse = s.dirUse := rfl
@[simp] theorem setPart_narrow (s : State) (q : Part) : (s.setPart q).narrow = s.narrow := rfl
@[simp] theorem setPart_dirDue (s : State) (q : Part) : (s.setPart q).dirDue = s.dirDue := rfl
@[simp] theorem setPart_blends (s : State) (q : Part) : (s.setPart q).blends = s.blends := rfl
@[simp] theorem setPart_ctxs (s : State) (q : Part) : (s.setPart q).ctxs = s.ctxs := rfl
@[simp] theorem setPart_cores (s : State) (q : Part) : (s.setPart q).cores = s.cores := rfl
@[simp] theorem setPart_tasks (s : State) (q : Part) : (s.setPart q).tasks = s.tasks := rfl
@[simp] theorem setPart_dies (s : State) (q : Part) : (s.setPart q).dies = s.dies := rfl
@[simp] theorem setPart_slices (s : State) (q : Part) : (s.setPart q).slices = s.slices := rfl
@[simp] theorem setPart_clusters (s : State) (q : Part) : (s.setPart q).clusters = s.clusters := rfl
@[simp] theorem setPart_sched (s : State) (q : Part) : (s.setPart q).sched = s.sched := rfl
@[simp] theorem setPart_fill (s : State) (q : Part) : (s.setPart q).fill = s.fill := rfl
@[simp] theorem setPart_bar0 (s : State) (q : Part) : (s.setPart q).bar0 = s.bar0 := rfl
@[simp] theorem setPart_mgmt (s : State) (q : Part) : (s.setPart q).mgmt = s.mgmt := rfl
@[simp] theorem setPart_fw (s : State) (q : Part) : (s.setPart q).fw = s.fw := rfl
@[simp] theorem setPart_saved (s : State) (q : Part) : (s.setPart q).saved = s.saved := rfl

/-! ### `setMyCore` changes cores alone -/

@[simp] theorem setMyCore_time (s : State) (c : Core) : (s.setMyCore c).time = s.time := rfl
@[simp] theorem setMyCore_power (s : State) (c : Core) : (s.setMyCore c).power = s.power := rfl
@[simp] theorem setMyCore_agenda (s : State) (c : Core) : (s.setMyCore c).agenda = s.agenda := rfl
@[simp] theorem setMyCore_turn (s : State) (c : Core) : (s.setMyCore c).turn = s.turn := rfl
@[simp] theorem setMyCore_freeCnt (s : State) (c : Core) : (s.setMyCore c).freeCnt = s.freeCnt := rfl
@[simp] theorem setMyCore_mem (s : State) (c : Core) : (s.setMyCore c).mem = s.mem := rfl
@[simp] theorem setMyCore_poison (s : State) (c : Core) : (s.setMyCore c).poison = s.poison := rfl
@[simp] theorem setMyCore_l2Due (s : State) (c : Core) : (s.setMyCore c).l2Due = s.l2Due := rfl
@[simp] theorem setMyCore_badCheck (s : State) (c : Core) : (s.setMyCore c).badCheck = s.badCheck := rfl
@[simp] theorem setMyCore_uncached (s : State) (c : Core) : (s.setMyCore c).uncached = s.uncached := rfl
@[simp] theorem setMyCore_dirUse (s : State) (c : Core) : (s.setMyCore c).dirUse = s.dirUse := rfl
@[simp] theorem setMyCore_narrow (s : State) (c : Core) : (s.setMyCore c).narrow = s.narrow := rfl
@[simp] theorem setMyCore_dirDue (s : State) (c : Core) : (s.setMyCore c).dirDue = s.dirDue := rfl
@[simp] theorem setMyCore_blends (s : State) (c : Core) : (s.setMyCore c).blends = s.blends := rfl
@[simp] theorem setMyCore_ctxs (s : State) (c : Core) : (s.setMyCore c).ctxs = s.ctxs := rfl
@[simp] theorem setMyCore_parts (s : State) (c : Core) : (s.setMyCore c).parts = s.parts := rfl
@[simp] theorem setMyCore_tasks (s : State) (c : Core) : (s.setMyCore c).tasks = s.tasks := rfl
@[simp] theorem setMyCore_dies (s : State) (c : Core) : (s.setMyCore c).dies = s.dies := rfl
@[simp] theorem setMyCore_slices (s : State) (c : Core) : (s.setMyCore c).slices = s.slices := rfl
@[simp] theorem setMyCore_clusters (s : State) (c : Core) : (s.setMyCore c).clusters = s.clusters := rfl
@[simp] theorem setMyCore_sched (s : State) (c : Core) : (s.setMyCore c).sched = s.sched := rfl
@[simp] theorem setMyCore_fill (s : State) (c : Core) : (s.setMyCore c).fill = s.fill := rfl
@[simp] theorem setMyCore_bar0 (s : State) (c : Core) : (s.setMyCore c).bar0 = s.bar0 := rfl
@[simp] theorem setMyCore_mgmt (s : State) (c : Core) : (s.setMyCore c).mgmt = s.mgmt := rfl
@[simp] theorem setMyCore_fw (s : State) (c : Core) : (s.setMyCore c).fw = s.fw := rfl
@[simp] theorem setMyCore_saved (s : State) (c : Core) : (s.setMyCore c).saved = s.saved := rfl

/-! ### `setMyTask` changes tasks alone -/

@[simp] theorem setMyTask_time (s : State) (t : Task) : (s.setMyTask t).time = s.time := by
  unfold State.setMyTask; split <;> rfl
@[simp] theorem setMyTask_power (s : State) (t : Task) : (s.setMyTask t).power = s.power := by
  unfold State.setMyTask; split <;> rfl
@[simp] theorem setMyTask_agenda (s : State) (t : Task) : (s.setMyTask t).agenda = s.agenda := by
  unfold State.setMyTask; split <;> rfl
@[simp] theorem setMyTask_turn (s : State) (t : Task) : (s.setMyTask t).turn = s.turn := by
  unfold State.setMyTask; split <;> rfl
@[simp] theorem setMyTask_freeCnt (s : State) (t : Task) : (s.setMyTask t).freeCnt = s.freeCnt := by
  unfold State.setMyTask; split <;> rfl
@[simp] theorem setMyTask_mem (s : State) (t : Task) : (s.setMyTask t).mem = s.mem := by
  unfold State.setMyTask; split <;> rfl
@[simp] theorem setMyTask_poison (s : State) (t : Task) : (s.setMyTask t).poison = s.poison := by
  unfold State.setMyTask; split <;> rfl
@[simp] theorem setMyTask_l2Due (s : State) (t : Task) : (s.setMyTask t).l2Due = s.l2Due := by
  unfold State.setMyTask; split <;> rfl
@[simp] theorem setMyTask_badCheck (s : State) (t : Task) : (s.setMyTask t).badCheck = s.badCheck := by
  unfold State.setMyTask; split <;> rfl
@[simp] theorem setMyTask_uncached (s : State) (t : Task) : (s.setMyTask t).uncached = s.uncached := by
  unfold State.setMyTask; split <;> rfl
@[simp] theorem setMyTask_dirUse (s : State) (t : Task) : (s.setMyTask t).dirUse = s.dirUse := by
  unfold State.setMyTask; split <;> rfl
@[simp] theorem setMyTask_narrow (s : State) (t : Task) : (s.setMyTask t).narrow = s.narrow := by
  unfold State.setMyTask; split <;> rfl
@[simp] theorem setMyTask_dirDue (s : State) (t : Task) : (s.setMyTask t).dirDue = s.dirDue := by
  unfold State.setMyTask; split <;> rfl
@[simp] theorem setMyTask_blends (s : State) (t : Task) : (s.setMyTask t).blends = s.blends := by
  unfold State.setMyTask; split <;> rfl
@[simp] theorem setMyTask_ctxs (s : State) (t : Task) : (s.setMyTask t).ctxs = s.ctxs := by
  unfold State.setMyTask; split <;> rfl
@[simp] theorem setMyTask_parts (s : State) (t : Task) : (s.setMyTask t).parts = s.parts := by
  unfold State.setMyTask; split <;> rfl
@[simp] theorem setMyTask_cores (s : State) (t : Task) : (s.setMyTask t).cores = s.cores := by
  unfold State.setMyTask; split <;> rfl
@[simp] theorem setMyTask_dies (s : State) (t : Task) : (s.setMyTask t).dies = s.dies := by
  unfold State.setMyTask; split <;> rfl
@[simp] theorem setMyTask_slices (s : State) (t : Task) : (s.setMyTask t).slices = s.slices := by
  unfold State.setMyTask; split <;> rfl
@[simp] theorem setMyTask_clusters (s : State) (t : Task) : (s.setMyTask t).clusters = s.clusters := by
  unfold State.setMyTask; split <;> rfl
@[simp] theorem setMyTask_sched (s : State) (t : Task) : (s.setMyTask t).sched = s.sched := by
  unfold State.setMyTask; split <;> rfl
@[simp] theorem setMyTask_fill (s : State) (t : Task) : (s.setMyTask t).fill = s.fill := by
  unfold State.setMyTask; split <;> rfl
@[simp] theorem setMyTask_bar0 (s : State) (t : Task) : (s.setMyTask t).bar0 = s.bar0 := by
  unfold State.setMyTask; split <;> rfl
@[simp] theorem setMyTask_mgmt (s : State) (t : Task) : (s.setMyTask t).mgmt = s.mgmt := by
  unfold State.setMyTask; split <;> rfl
@[simp] theorem setMyTask_fw (s : State) (t : Task) : (s.setMyTask t).fw = s.fw := by
  unfold State.setMyTask; split <;> rfl
@[simp] theorem setMyTask_saved (s : State) (t : Task) : (s.setMyTask t).saved = s.saved := by
  unfold State.setMyTask; split <;> rfl

/-! ### `setX` changes ctxs alone -/

@[simp] theorem setX_time (s : State) (r : Reg) (w : Word) : (s.setX r w).time = s.time := by
  unfold State.setX; split <;> rfl
@[simp] theorem setX_power (s : State) (r : Reg) (w : Word) : (s.setX r w).power = s.power := by
  unfold State.setX; split <;> rfl
@[simp] theorem setX_agenda (s : State) (r : Reg) (w : Word) : (s.setX r w).agenda = s.agenda := by
  unfold State.setX; split <;> rfl
@[simp] theorem setX_turn (s : State) (r : Reg) (w : Word) : (s.setX r w).turn = s.turn := by
  unfold State.setX; split <;> rfl
@[simp] theorem setX_freeCnt (s : State) (r : Reg) (w : Word) : (s.setX r w).freeCnt = s.freeCnt := by
  unfold State.setX; split <;> rfl
@[simp] theorem setX_mem (s : State) (r : Reg) (w : Word) : (s.setX r w).mem = s.mem := by
  unfold State.setX; split <;> rfl
@[simp] theorem setX_poison (s : State) (r : Reg) (w : Word) : (s.setX r w).poison = s.poison := by
  unfold State.setX; split <;> rfl
@[simp] theorem setX_l2Due (s : State) (r : Reg) (w : Word) : (s.setX r w).l2Due = s.l2Due := by
  unfold State.setX; split <;> rfl
@[simp] theorem setX_badCheck (s : State) (r : Reg) (w : Word) : (s.setX r w).badCheck = s.badCheck := by
  unfold State.setX; split <;> rfl
@[simp] theorem setX_uncached (s : State) (r : Reg) (w : Word) : (s.setX r w).uncached = s.uncached := by
  unfold State.setX; split <;> rfl
@[simp] theorem setX_dirUse (s : State) (r : Reg) (w : Word) : (s.setX r w).dirUse = s.dirUse := by
  unfold State.setX; split <;> rfl
@[simp] theorem setX_narrow (s : State) (r : Reg) (w : Word) : (s.setX r w).narrow = s.narrow := by
  unfold State.setX; split <;> rfl
@[simp] theorem setX_dirDue (s : State) (r : Reg) (w : Word) : (s.setX r w).dirDue = s.dirDue := by
  unfold State.setX; split <;> rfl
@[simp] theorem setX_blends (s : State) (r : Reg) (w : Word) : (s.setX r w).blends = s.blends := by
  unfold State.setX; split <;> rfl
@[simp] theorem setX_parts (s : State) (r : Reg) (w : Word) : (s.setX r w).parts = s.parts := by
  unfold State.setX; split <;> rfl
@[simp] theorem setX_cores (s : State) (r : Reg) (w : Word) : (s.setX r w).cores = s.cores := by
  unfold State.setX; split <;> rfl
@[simp] theorem setX_tasks (s : State) (r : Reg) (w : Word) : (s.setX r w).tasks = s.tasks := by
  unfold State.setX; split <;> rfl
@[simp] theorem setX_dies (s : State) (r : Reg) (w : Word) : (s.setX r w).dies = s.dies := by
  unfold State.setX; split <;> rfl
@[simp] theorem setX_slices (s : State) (r : Reg) (w : Word) : (s.setX r w).slices = s.slices := by
  unfold State.setX; split <;> rfl
@[simp] theorem setX_clusters (s : State) (r : Reg) (w : Word) : (s.setX r w).clusters = s.clusters := by
  unfold State.setX; split <;> rfl
@[simp] theorem setX_sched (s : State) (r : Reg) (w : Word) : (s.setX r w).sched = s.sched := by
  unfold State.setX; split <;> rfl
@[simp] theorem setX_fill (s : State) (r : Reg) (w : Word) : (s.setX r w).fill = s.fill := by
  unfold State.setX; split <;> rfl
@[simp] theorem setX_bar0 (s : State) (r : Reg) (w : Word) : (s.setX r w).bar0 = s.bar0 := by
  unfold State.setX; split <;> rfl
@[simp] theorem setX_mgmt (s : State) (r : Reg) (w : Word) : (s.setX r w).mgmt = s.mgmt := by
  unfold State.setX; split <;> rfl
@[simp] theorem setX_fw (s : State) (r : Reg) (w : Word) : (s.setX r w).fw = s.fw := by
  unfold State.setX; split <;> rfl
@[simp] theorem setX_saved (s : State) (r : Reg) (w : Word) : (s.setX r w).saved = s.saved := by
  unfold State.setX; split <;> rfl

/-! ### `setV` changes ctxs alone -/

@[simp] theorem setV_time (s : State) (r : Nat) (w : VReg) : (s.setV r w).time = s.time := rfl
@[simp] theorem setV_power (s : State) (r : Nat) (w : VReg) : (s.setV r w).power = s.power := rfl
@[simp] theorem setV_agenda (s : State) (r : Nat) (w : VReg) : (s.setV r w).agenda = s.agenda := rfl
@[simp] theorem setV_turn (s : State) (r : Nat) (w : VReg) : (s.setV r w).turn = s.turn := rfl
@[simp] theorem setV_freeCnt (s : State) (r : Nat) (w : VReg) : (s.setV r w).freeCnt = s.freeCnt := rfl
@[simp] theorem setV_mem (s : State) (r : Nat) (w : VReg) : (s.setV r w).mem = s.mem := rfl
@[simp] theorem setV_poison (s : State) (r : Nat) (w : VReg) : (s.setV r w).poison = s.poison := rfl
@[simp] theorem setV_l2Due (s : State) (r : Nat) (w : VReg) : (s.setV r w).l2Due = s.l2Due := rfl
@[simp] theorem setV_badCheck (s : State) (r : Nat) (w : VReg) : (s.setV r w).badCheck = s.badCheck := rfl
@[simp] theorem setV_uncached (s : State) (r : Nat) (w : VReg) : (s.setV r w).uncached = s.uncached := rfl
@[simp] theorem setV_dirUse (s : State) (r : Nat) (w : VReg) : (s.setV r w).dirUse = s.dirUse := rfl
@[simp] theorem setV_narrow (s : State) (r : Nat) (w : VReg) : (s.setV r w).narrow = s.narrow := rfl
@[simp] theorem setV_dirDue (s : State) (r : Nat) (w : VReg) : (s.setV r w).dirDue = s.dirDue := rfl
@[simp] theorem setV_blends (s : State) (r : Nat) (w : VReg) : (s.setV r w).blends = s.blends := rfl
@[simp] theorem setV_parts (s : State) (r : Nat) (w : VReg) : (s.setV r w).parts = s.parts := rfl
@[simp] theorem setV_cores (s : State) (r : Nat) (w : VReg) : (s.setV r w).cores = s.cores := rfl
@[simp] theorem setV_tasks (s : State) (r : Nat) (w : VReg) : (s.setV r w).tasks = s.tasks := rfl
@[simp] theorem setV_dies (s : State) (r : Nat) (w : VReg) : (s.setV r w).dies = s.dies := rfl
@[simp] theorem setV_slices (s : State) (r : Nat) (w : VReg) : (s.setV r w).slices = s.slices := rfl
@[simp] theorem setV_clusters (s : State) (r : Nat) (w : VReg) : (s.setV r w).clusters = s.clusters := rfl
@[simp] theorem setV_sched (s : State) (r : Nat) (w : VReg) : (s.setV r w).sched = s.sched := rfl
@[simp] theorem setV_fill (s : State) (r : Nat) (w : VReg) : (s.setV r w).fill = s.fill := rfl
@[simp] theorem setV_bar0 (s : State) (r : Nat) (w : VReg) : (s.setV r w).bar0 = s.bar0 := rfl
@[simp] theorem setV_mgmt (s : State) (r : Nat) (w : VReg) : (s.setV r w).mgmt = s.mgmt := rfl
@[simp] theorem setV_fw (s : State) (r : Nat) (w : VReg) : (s.setV r w).fw = s.fw := rfl
@[simp] theorem setV_saved (s : State) (r : Nat) (w : VReg) : (s.setV r w).saved = s.saved := rfl

/-! ### `setK` changes ctxs alone -/

@[simp] theorem setK_time (s : State) (r : Nat) (w : Mask) : (s.setK r w).time = s.time := rfl
@[simp] theorem setK_power (s : State) (r : Nat) (w : Mask) : (s.setK r w).power = s.power := rfl
@[simp] theorem setK_agenda (s : State) (r : Nat) (w : Mask) : (s.setK r w).agenda = s.agenda := rfl
@[simp] theorem setK_turn (s : State) (r : Nat) (w : Mask) : (s.setK r w).turn = s.turn := rfl
@[simp] theorem setK_freeCnt (s : State) (r : Nat) (w : Mask) : (s.setK r w).freeCnt = s.freeCnt := rfl
@[simp] theorem setK_mem (s : State) (r : Nat) (w : Mask) : (s.setK r w).mem = s.mem := rfl
@[simp] theorem setK_poison (s : State) (r : Nat) (w : Mask) : (s.setK r w).poison = s.poison := rfl
@[simp] theorem setK_l2Due (s : State) (r : Nat) (w : Mask) : (s.setK r w).l2Due = s.l2Due := rfl
@[simp] theorem setK_badCheck (s : State) (r : Nat) (w : Mask) : (s.setK r w).badCheck = s.badCheck := rfl
@[simp] theorem setK_uncached (s : State) (r : Nat) (w : Mask) : (s.setK r w).uncached = s.uncached := rfl
@[simp] theorem setK_dirUse (s : State) (r : Nat) (w : Mask) : (s.setK r w).dirUse = s.dirUse := rfl
@[simp] theorem setK_narrow (s : State) (r : Nat) (w : Mask) : (s.setK r w).narrow = s.narrow := rfl
@[simp] theorem setK_dirDue (s : State) (r : Nat) (w : Mask) : (s.setK r w).dirDue = s.dirDue := rfl
@[simp] theorem setK_blends (s : State) (r : Nat) (w : Mask) : (s.setK r w).blends = s.blends := rfl
@[simp] theorem setK_parts (s : State) (r : Nat) (w : Mask) : (s.setK r w).parts = s.parts := rfl
@[simp] theorem setK_cores (s : State) (r : Nat) (w : Mask) : (s.setK r w).cores = s.cores := rfl
@[simp] theorem setK_tasks (s : State) (r : Nat) (w : Mask) : (s.setK r w).tasks = s.tasks := rfl
@[simp] theorem setK_dies (s : State) (r : Nat) (w : Mask) : (s.setK r w).dies = s.dies := rfl
@[simp] theorem setK_slices (s : State) (r : Nat) (w : Mask) : (s.setK r w).slices = s.slices := rfl
@[simp] theorem setK_clusters (s : State) (r : Nat) (w : Mask) : (s.setK r w).clusters = s.clusters := rfl
@[simp] theorem setK_sched (s : State) (r : Nat) (w : Mask) : (s.setK r w).sched = s.sched := rfl
@[simp] theorem setK_fill (s : State) (r : Nat) (w : Mask) : (s.setK r w).fill = s.fill := rfl
@[simp] theorem setK_bar0 (s : State) (r : Nat) (w : Mask) : (s.setK r w).bar0 = s.bar0 := rfl
@[simp] theorem setK_mgmt (s : State) (r : Nat) (w : Mask) : (s.setK r w).mgmt = s.mgmt := rfl
@[simp] theorem setK_fw (s : State) (r : Nat) (w : Mask) : (s.setK r w).fw = s.fw := rfl
@[simp] theorem setK_saved (s : State) (r : Nat) (w : Mask) : (s.setK r w).saved = s.saved := rfl

/-! ### `retire` changes ctxs alone -/

@[simp] theorem retire_time (s : State) (n : Nat) : (s.retire n).time = s.time := rfl
@[simp] theorem retire_power (s : State) (n : Nat) : (s.retire n).power = s.power := rfl
@[simp] theorem retire_agenda (s : State) (n : Nat) : (s.retire n).agenda = s.agenda := rfl
@[simp] theorem retire_turn (s : State) (n : Nat) : (s.retire n).turn = s.turn := rfl
@[simp] theorem retire_freeCnt (s : State) (n : Nat) : (s.retire n).freeCnt = s.freeCnt := rfl
@[simp] theorem retire_mem (s : State) (n : Nat) : (s.retire n).mem = s.mem := rfl
@[simp] theorem retire_poison (s : State) (n : Nat) : (s.retire n).poison = s.poison := rfl
@[simp] theorem retire_l2Due (s : State) (n : Nat) : (s.retire n).l2Due = s.l2Due := rfl
@[simp] theorem retire_badCheck (s : State) (n : Nat) : (s.retire n).badCheck = s.badCheck := rfl
@[simp] theorem retire_uncached (s : State) (n : Nat) : (s.retire n).uncached = s.uncached := rfl
@[simp] theorem retire_dirUse (s : State) (n : Nat) : (s.retire n).dirUse = s.dirUse := rfl
@[simp] theorem retire_narrow (s : State) (n : Nat) : (s.retire n).narrow = s.narrow := rfl
@[simp] theorem retire_dirDue (s : State) (n : Nat) : (s.retire n).dirDue = s.dirDue := rfl
@[simp] theorem retire_blends (s : State) (n : Nat) : (s.retire n).blends = s.blends := rfl
@[simp] theorem retire_parts (s : State) (n : Nat) : (s.retire n).parts = s.parts := rfl
@[simp] theorem retire_cores (s : State) (n : Nat) : (s.retire n).cores = s.cores := rfl
@[simp] theorem retire_tasks (s : State) (n : Nat) : (s.retire n).tasks = s.tasks := rfl
@[simp] theorem retire_dies (s : State) (n : Nat) : (s.retire n).dies = s.dies := rfl
@[simp] theorem retire_slices (s : State) (n : Nat) : (s.retire n).slices = s.slices := rfl
@[simp] theorem retire_clusters (s : State) (n : Nat) : (s.retire n).clusters = s.clusters := rfl
@[simp] theorem retire_sched (s : State) (n : Nat) : (s.retire n).sched = s.sched := rfl
@[simp] theorem retire_fill (s : State) (n : Nat) : (s.retire n).fill = s.fill := rfl
@[simp] theorem retire_bar0 (s : State) (n : Nat) : (s.retire n).bar0 = s.bar0 := rfl
@[simp] theorem retire_mgmt (s : State) (n : Nat) : (s.retire n).mgmt = s.mgmt := rfl
@[simp] theorem retire_fw (s : State) (n : Nat) : (s.retire n).fw = s.fw := rfl
@[simp] theorem retire_saved (s : State) (n : Nat) : (s.retire n).saved = s.saved := rfl

/-! ### `retireTo` changes ctxs alone -/

@[simp] theorem retireTo_time (s : State) (a : Word) : (s.retireTo a).time = s.time := rfl
@[simp] theorem retireTo_power (s : State) (a : Word) : (s.retireTo a).power = s.power := rfl
@[simp] theorem retireTo_agenda (s : State) (a : Word) : (s.retireTo a).agenda = s.agenda := rfl
@[simp] theorem retireTo_turn (s : State) (a : Word) : (s.retireTo a).turn = s.turn := rfl
@[simp] theorem retireTo_freeCnt (s : State) (a : Word) : (s.retireTo a).freeCnt = s.freeCnt := rfl
@[simp] theorem retireTo_mem (s : State) (a : Word) : (s.retireTo a).mem = s.mem := rfl
@[simp] theorem retireTo_poison (s : State) (a : Word) : (s.retireTo a).poison = s.poison := rfl
@[simp] theorem retireTo_l2Due (s : State) (a : Word) : (s.retireTo a).l2Due = s.l2Due := rfl
@[simp] theorem retireTo_badCheck (s : State) (a : Word) : (s.retireTo a).badCheck = s.badCheck := rfl
@[simp] theorem retireTo_uncached (s : State) (a : Word) : (s.retireTo a).uncached = s.uncached := rfl
@[simp] theorem retireTo_dirUse (s : State) (a : Word) : (s.retireTo a).dirUse = s.dirUse := rfl
@[simp] theorem retireTo_narrow (s : State) (a : Word) : (s.retireTo a).narrow = s.narrow := rfl
@[simp] theorem retireTo_dirDue (s : State) (a : Word) : (s.retireTo a).dirDue = s.dirDue := rfl
@[simp] theorem retireTo_blends (s : State) (a : Word) : (s.retireTo a).blends = s.blends := rfl
@[simp] theorem retireTo_parts (s : State) (a : Word) : (s.retireTo a).parts = s.parts := rfl
@[simp] theorem retireTo_cores (s : State) (a : Word) : (s.retireTo a).cores = s.cores := rfl
@[simp] theorem retireTo_tasks (s : State) (a : Word) : (s.retireTo a).tasks = s.tasks := rfl
@[simp] theorem retireTo_dies (s : State) (a : Word) : (s.retireTo a).dies = s.dies := rfl
@[simp] theorem retireTo_slices (s : State) (a : Word) : (s.retireTo a).slices = s.slices := rfl
@[simp] theorem retireTo_clusters (s : State) (a : Word) : (s.retireTo a).clusters = s.clusters := rfl
@[simp] theorem retireTo_sched (s : State) (a : Word) : (s.retireTo a).sched = s.sched := rfl
@[simp] theorem retireTo_fill (s : State) (a : Word) : (s.retireTo a).fill = s.fill := rfl
@[simp] theorem retireTo_bar0 (s : State) (a : Word) : (s.retireTo a).bar0 = s.bar0 := rfl
@[simp] theorem retireTo_mgmt (s : State) (a : Word) : (s.retireTo a).mgmt = s.mgmt := rfl
@[simp] theorem retireTo_fw (s : State) (a : Word) : (s.retireTo a).fw = s.fw := rfl
@[simp] theorem retireTo_saved (s : State) (a : Word) : (s.retireTo a).saved = s.saved := rfl

/-! ### `clearFmask` changes ctxs alone -/

@[simp] theorem clearFmask_time (s : State) : (s.clearFmask).time = s.time := rfl
@[simp] theorem clearFmask_power (s : State) : (s.clearFmask).power = s.power := rfl
@[simp] theorem clearFmask_agenda (s : State) : (s.clearFmask).agenda = s.agenda := rfl
@[simp] theorem clearFmask_turn (s : State) : (s.clearFmask).turn = s.turn := rfl
@[simp] theorem clearFmask_freeCnt (s : State) : (s.clearFmask).freeCnt = s.freeCnt := rfl
@[simp] theorem clearFmask_mem (s : State) : (s.clearFmask).mem = s.mem := rfl
@[simp] theorem clearFmask_poison (s : State) : (s.clearFmask).poison = s.poison := rfl
@[simp] theorem clearFmask_l2Due (s : State) : (s.clearFmask).l2Due = s.l2Due := rfl
@[simp] theorem clearFmask_badCheck (s : State) : (s.clearFmask).badCheck = s.badCheck := rfl
@[simp] theorem clearFmask_uncached (s : State) : (s.clearFmask).uncached = s.uncached := rfl
@[simp] theorem clearFmask_dirUse (s : State) : (s.clearFmask).dirUse = s.dirUse := rfl
@[simp] theorem clearFmask_narrow (s : State) : (s.clearFmask).narrow = s.narrow := rfl
@[simp] theorem clearFmask_dirDue (s : State) : (s.clearFmask).dirDue = s.dirDue := rfl
@[simp] theorem clearFmask_blends (s : State) : (s.clearFmask).blends = s.blends := rfl
@[simp] theorem clearFmask_parts (s : State) : (s.clearFmask).parts = s.parts := rfl
@[simp] theorem clearFmask_cores (s : State) : (s.clearFmask).cores = s.cores := rfl
@[simp] theorem clearFmask_tasks (s : State) : (s.clearFmask).tasks = s.tasks := rfl
@[simp] theorem clearFmask_dies (s : State) : (s.clearFmask).dies = s.dies := rfl
@[simp] theorem clearFmask_slices (s : State) : (s.clearFmask).slices = s.slices := rfl
@[simp] theorem clearFmask_clusters (s : State) : (s.clearFmask).clusters = s.clusters := rfl
@[simp] theorem clearFmask_sched (s : State) : (s.clearFmask).sched = s.sched := rfl
@[simp] theorem clearFmask_fill (s : State) : (s.clearFmask).fill = s.fill := rfl
@[simp] theorem clearFmask_bar0 (s : State) : (s.clearFmask).bar0 = s.bar0 := rfl
@[simp] theorem clearFmask_mgmt (s : State) : (s.clearFmask).mgmt = s.mgmt := rfl
@[simp] theorem clearFmask_fw (s : State) : (s.clearFmask).fw = s.fw := rfl
@[simp] theorem clearFmask_saved (s : State) : (s.clearFmask).saved = s.saved := rfl

/-! ### `setElem` changes ctxs alone -/

@[simp] theorem setElem_time (s : State) (r sew j v : Nat) : (s.setElem r sew j v).time = s.time := rfl
@[simp] theorem setElem_power (s : State) (r sew j v : Nat) : (s.setElem r sew j v).power = s.power := rfl
@[simp] theorem setElem_agenda (s : State) (r sew j v : Nat) : (s.setElem r sew j v).agenda = s.agenda := rfl
@[simp] theorem setElem_turn (s : State) (r sew j v : Nat) : (s.setElem r sew j v).turn = s.turn := rfl
@[simp] theorem setElem_freeCnt (s : State) (r sew j v : Nat) : (s.setElem r sew j v).freeCnt = s.freeCnt := rfl
@[simp] theorem setElem_mem (s : State) (r sew j v : Nat) : (s.setElem r sew j v).mem = s.mem := rfl
@[simp] theorem setElem_poison (s : State) (r sew j v : Nat) : (s.setElem r sew j v).poison = s.poison := rfl
@[simp] theorem setElem_l2Due (s : State) (r sew j v : Nat) : (s.setElem r sew j v).l2Due = s.l2Due := rfl
@[simp] theorem setElem_badCheck (s : State) (r sew j v : Nat) : (s.setElem r sew j v).badCheck = s.badCheck := rfl
@[simp] theorem setElem_uncached (s : State) (r sew j v : Nat) : (s.setElem r sew j v).uncached = s.uncached := rfl
@[simp] theorem setElem_dirUse (s : State) (r sew j v : Nat) : (s.setElem r sew j v).dirUse = s.dirUse := rfl
@[simp] theorem setElem_narrow (s : State) (r sew j v : Nat) : (s.setElem r sew j v).narrow = s.narrow := rfl
@[simp] theorem setElem_dirDue (s : State) (r sew j v : Nat) : (s.setElem r sew j v).dirDue = s.dirDue := rfl
@[simp] theorem setElem_blends (s : State) (r sew j v : Nat) : (s.setElem r sew j v).blends = s.blends := rfl
@[simp] theorem setElem_parts (s : State) (r sew j v : Nat) : (s.setElem r sew j v).parts = s.parts := rfl
@[simp] theorem setElem_cores (s : State) (r sew j v : Nat) : (s.setElem r sew j v).cores = s.cores := rfl
@[simp] theorem setElem_tasks (s : State) (r sew j v : Nat) : (s.setElem r sew j v).tasks = s.tasks := rfl
@[simp] theorem setElem_dies (s : State) (r sew j v : Nat) : (s.setElem r sew j v).dies = s.dies := rfl
@[simp] theorem setElem_slices (s : State) (r sew j v : Nat) : (s.setElem r sew j v).slices = s.slices := rfl
@[simp] theorem setElem_clusters (s : State) (r sew j v : Nat) : (s.setElem r sew j v).clusters = s.clusters := rfl
@[simp] theorem setElem_sched (s : State) (r sew j v : Nat) : (s.setElem r sew j v).sched = s.sched := rfl
@[simp] theorem setElem_fill (s : State) (r sew j v : Nat) : (s.setElem r sew j v).fill = s.fill := rfl
@[simp] theorem setElem_bar0 (s : State) (r sew j v : Nat) : (s.setElem r sew j v).bar0 = s.bar0 := rfl
@[simp] theorem setElem_mgmt (s : State) (r sew j v : Nat) : (s.setElem r sew j v).mgmt = s.mgmt := rfl
@[simp] theorem setElem_fw (s : State) (r sew j v : Nat) : (s.setElem r sew j v).fw = s.fw := rfl
@[simp] theorem setElem_saved (s : State) (r sew j v : Nat) : (s.setElem r sew j v).saved = s.saved := rfl

/-! ### `raise` changes ctxs alone -/

@[simp] theorem raise_time (s : State) (fl : Nat) : (s.raise fl).time = s.time := by
  unfold State.raise; split <;> rfl
@[simp] theorem raise_power (s : State) (fl : Nat) : (s.raise fl).power = s.power := by
  unfold State.raise; split <;> rfl
@[simp] theorem raise_agenda (s : State) (fl : Nat) : (s.raise fl).agenda = s.agenda := by
  unfold State.raise; split <;> rfl
@[simp] theorem raise_turn (s : State) (fl : Nat) : (s.raise fl).turn = s.turn := by
  unfold State.raise; split <;> rfl
@[simp] theorem raise_freeCnt (s : State) (fl : Nat) : (s.raise fl).freeCnt = s.freeCnt := by
  unfold State.raise; split <;> rfl
@[simp] theorem raise_mem (s : State) (fl : Nat) : (s.raise fl).mem = s.mem := by
  unfold State.raise; split <;> rfl
@[simp] theorem raise_poison (s : State) (fl : Nat) : (s.raise fl).poison = s.poison := by
  unfold State.raise; split <;> rfl
@[simp] theorem raise_l2Due (s : State) (fl : Nat) : (s.raise fl).l2Due = s.l2Due := by
  unfold State.raise; split <;> rfl
@[simp] theorem raise_badCheck (s : State) (fl : Nat) : (s.raise fl).badCheck = s.badCheck := by
  unfold State.raise; split <;> rfl
@[simp] theorem raise_uncached (s : State) (fl : Nat) : (s.raise fl).uncached = s.uncached := by
  unfold State.raise; split <;> rfl
@[simp] theorem raise_dirUse (s : State) (fl : Nat) : (s.raise fl).dirUse = s.dirUse := by
  unfold State.raise; split <;> rfl
@[simp] theorem raise_narrow (s : State) (fl : Nat) : (s.raise fl).narrow = s.narrow := by
  unfold State.raise; split <;> rfl
@[simp] theorem raise_dirDue (s : State) (fl : Nat) : (s.raise fl).dirDue = s.dirDue := by
  unfold State.raise; split <;> rfl
@[simp] theorem raise_blends (s : State) (fl : Nat) : (s.raise fl).blends = s.blends := by
  unfold State.raise; split <;> rfl
@[simp] theorem raise_parts (s : State) (fl : Nat) : (s.raise fl).parts = s.parts := by
  unfold State.raise; split <;> rfl
@[simp] theorem raise_cores (s : State) (fl : Nat) : (s.raise fl).cores = s.cores := by
  unfold State.raise; split <;> rfl
@[simp] theorem raise_tasks (s : State) (fl : Nat) : (s.raise fl).tasks = s.tasks := by
  unfold State.raise; split <;> rfl
@[simp] theorem raise_dies (s : State) (fl : Nat) : (s.raise fl).dies = s.dies := by
  unfold State.raise; split <;> rfl
@[simp] theorem raise_slices (s : State) (fl : Nat) : (s.raise fl).slices = s.slices := by
  unfold State.raise; split <;> rfl
@[simp] theorem raise_clusters (s : State) (fl : Nat) : (s.raise fl).clusters = s.clusters := by
  unfold State.raise; split <;> rfl
@[simp] theorem raise_sched (s : State) (fl : Nat) : (s.raise fl).sched = s.sched := by
  unfold State.raise; split <;> rfl
@[simp] theorem raise_fill (s : State) (fl : Nat) : (s.raise fl).fill = s.fill := by
  unfold State.raise; split <;> rfl
@[simp] theorem raise_bar0 (s : State) (fl : Nat) : (s.raise fl).bar0 = s.bar0 := by
  unfold State.raise; split <;> rfl
@[simp] theorem raise_mgmt (s : State) (fl : Nat) : (s.raise fl).mgmt = s.mgmt := by
  unfold State.raise; split <;> rfl
@[simp] theorem raise_fw (s : State) (fl : Nat) : (s.raise fl).fw = s.fw := by
  unfold State.raise; split <;> rfl
@[simp] theorem raise_saved (s : State) (fl : Nat) : (s.raise fl).saved = s.saved := by
  unfold State.raise; split <;> rfl

/-! ### What has been written reads back -/

@[simp] theorem ctx_setCtx (s : State) (c : CtxId) (k : Ctx) : (s.setCtx c k).ctx c = k := Table.get_set_same _ _ _ _
@[simp] theorem core_setCore (s : State) (n : Nat) (c : Core) : (s.setCore n c).core n = c := Table.get_set_same _ _ _ _
@[simp] theorem taskAt_setTask (s : State) (n : Nat) (t : Task) : (s.setTask n t).taskAt n = t := Table.get_set_same _ _ _ _
@[simp] theorem die_setDie (s : State) (n : Nat) (d : Die) : (s.setDie n d).die n = d := Table.get_set_same _ _ _ _
@[simp] theorem slice_setSlice (s : State) (n : Nat) (d : Slice) : (s.setSlice n d).slice n = d := Table.get_set_same _ _ _ _
@[simp] theorem cluster_setCluster (s : State) (n : Nat) (d : Cluster) : (s.setCluster n d).cluster n = d :=
  Table.get_set_same _ _ _ _
@[simp] theorem seg_setSeg (s : State) (n : Nat) (g : Seg) : (s.setSeg n g).seg n = g := Table.get_set_same _ _ _ _
@[simp] theorem partAt_setPartAt (s : State) (c p : Nat) (q : Part) : (s.setPartAt c p q).partAt c p = q :=
  Table.get_set_same _ _ _ _
@[simp] theorem me_setMe (s : State) (k : Ctx) : (s.setMe k).me = k := Table.get_set_same _ _ _ _
@[simp] theorem part_setPart (s : State) (q : Part) : (s.setPart q).part = q := Table.get_set_same _ _ _ _
@[simp] theorem myCore_setMyCore (s : State) (c : Core) : (s.setMyCore c).myCore = c := Table.get_set_same _ _ _ _

/-- Of two writes to the acting context the second stands. -/
@[simp] theorem setMe_setMe (s : State) (k l : Ctx) : (s.setMe k).setMe l = s.setMe l := by
  simp [State.setMe, State.setCtx]

/-- Writing back what a context holds, to one that is listed, changes nothing that is read of it. -/
@[simp] theorem ctx_setMe_other (s : State) (k : Ctx) (c : CtxId) (h : c.key ≠ s.turn.key) : (s.setMe k).ctx c = s.ctx c := by
  simp [State.setMe, State.setCtx, State.ctx, Table.get_set_other _ _ _ _ _ h]

/-! ### A write of the acting context leaves its partition, core and task alone -/

@[simp] theorem setMe_part (s : State) (k : Ctx) : (s.setMe k).part = s.part := rfl
@[simp] theorem setMe_myCore (s : State) (k : Ctx) : (s.setMe k).myCore = s.myCore := rfl
@[simp] theorem setMe_task (s : State) (k : Ctx) : (s.setMe k).task = s.task := rfl
@[simp] theorem setMe_taskId (s : State) (k : Ctx) : (s.setMe k).taskId = s.taskId := rfl
@[simp] theorem setMe_partAt (s : State) (k : Ctx) (c p : Nat) : (s.setMe k).partAt c p = s.partAt c p := rfl
@[simp] theorem setMe_core (s : State) (k : Ctx) (n : Nat) : (s.setMe k).core n = s.core n := rfl
@[simp] theorem setMe_taskAt (s : State) (k : Ctx) (n : Nat) : (s.setMe k).taskAt n = s.taskAt n := rfl

/-! ### Updates of the acting context as writes of it -/

theorem setX_eq (s : State) (r : Reg) (w : Word) (h : r ≠ 0) :
    s.setX r w = s.setMe { s.me with x := Table.set s.me.x r.toNat w } := by
  unfold State.setX
  rw [if_neg h]
@[simp] theorem setX_zero (s : State) (w : Word) : s.setX 0#5 w = s := by simp [State.setX]
theorem retire_eq (s : State) (n : Nat) : s.retire n = s.setMe { s.me with pc := s.me.pc + BitVec.ofNat 64 n, wait := none } := rfl
theorem retireTo_eq (s : State) (a : Word) : s.retireTo a = s.setMe { s.me with pc := a, wait := none } := rfl

/-- x0 reads 0 (R11). -/
@[simp] theorem x_zero (s : State) : s.x 0#5 = 0#64 := by simp [State.x]

/-- A register after a write: x0 reads 0 for ever, and a write reaches one register alone. -/
theorem x_setX (s : State) (d r : Reg) (w : Word) : (s.setX d w).x r = if r = d ∧ r ≠ 0 then w else s.x r := by
  by_cases hr : r = 0
  · subst hr
    simp
  · by_cases hd : d = 0
    · subst hd
      simp only [BitVec.ofNat_eq_ofNat] at hr
      simp [hr]
    · rw [setX_eq _ _ _ hd]
      unfold State.x
      rw [if_neg hr, if_neg hr, me_setMe]
      show Table.get 0 (Table.set s.me.x d.toNat w) r.toNat = _
      rw [Table.get_set]
      by_cases h : r = d
      · simp only [h, true_and, if_true]
        rw [if_pos hd]
      · rw [if_neg (fun e => h (BitVec.eq_of_toNat_eq e)), if_neg (fun e => h e.1)]

/-- A vector register after a write. -/
theorem v_setV (s : State) (d r : Nat) (w : VReg) : (s.setV d w).v r = if r = d then w else s.v r := by
  simp [State.setV, State.v, Table.get_set]
/-- A k register after a write. -/
theorem k_setK (s : State) (d r : Nat) (w : Mask) : (s.setK d w).k r = if r = d then w else s.k r := by
  simp [State.setK, State.k, Table.get_set]

@[simp] theorem x_retire (s : State) (n : Nat) (r : Reg) : (s.retire n).x r = s.x r := by simp [State.x, retire_eq]
@[simp] theorem x_retireTo (s : State) (a : Word) (r : Reg) : (s.retireTo a).x r = s.x r := by simp [State.x, retireTo_eq]
@[simp] theorem pc_retire (s : State) (n : Nat) : (s.retire n).pc = s.pc + BitVec.ofNat 64 n := by simp [State.pc, retire_eq]
@[simp] theorem pc_retireTo (s : State) (a : Word) : (s.retireTo a).pc = a := by simp [State.pc, retireTo_eq]

end Sys2Proof.Machine
end

