-- ==== Sys2Proof/Laws/Scalar.lean ====
section
/-! SUPPORT. Laws of how the standard forms end: what a register write, a branch and a jump leave. -/

set_option Elab.async false

namespace Sys2Proof.Machine

/-- Writing X[d] changes nothing of the acting context but its x registers. -/
theorem setX_me (s : State) (d : Reg) (w : Word) : (s.setX d w).me = { s.me with x := (s.setX d w).me.x } := by
  unfold State.setX
  split
  · rfl
  · rw [me_setMe]

/-- A write of X[d] followed by a write of the acting context is one write of the acting context. -/
theorem setX_setMe (s : State) (d : Reg) (w : Word) (k : Ctx) : (s.setX d w).setMe k = s.setMe k := by
  unfold State.setX
  split
  · rfl
  · rw [setMe_setMe]

/-- Bytes are read as before where memory and the context's own stores are as before. -/
theorem sameBytes_of (s t : State) (hm : t.mem = s.mem) (hp : t.me.pend = s.me.pend) : SameBytes s t :=
  ⟨hm, fun l => by unfold State.byte seenByte; rw [hm, hp]⟩

/-- An instruction that writes X[d] and goes on by n bytes. -/
theorem writesX_retire (s : State) (d : Reg) (w : Word) (n : Nat) : WritesX s ((s.setX d w).retire n) d w n := by
  have e : (s.setX d w).retire n
      = s.setMe { s.me with x := (s.setX d w).me.x, pc := s.pc + BitVec.ofNat 64 n, wait := none } := by
    rw [retire_eq, setX_setMe, setX_me]
    rfl
  refine ⟨?_, fun r => by rw [x_retire, x_setX], ?_⟩
  · rw [e, me_setMe]
  · exact sameBytes_of _ _ (by simp) (by rw [e, me_setMe])

/-- What every standard form with a result does. -/
theorem writesX_setReg (s : State) (d : Reg) (w : Word) : WritesX s (setReg s d w) d w 4 := writesX_retire s d w 4

/-- An instruction that completes at an address. -/
theorem goesTo_retireTo (s : State) (a : Word) : GoesTo s (s.retireTo a) a :=
  ⟨rfl, sameBytes_of _ _ rfl (by rw [retireTo_eq, me_setMe])⟩

/-- An instruction without a result that completes at the next one. -/
theorem goesTo_retire (s : State) (n : Nat) : GoesTo s (s.retire n) (s.pc + BitVec.ofNat 64 n) :=
  ⟨rfl, sameBytes_of _ _ rfl (by rw [retire_eq, me_setMe])⟩

end Sys2Proof.Machine
end

