-- ==== Sys2Proof/Laws/Access.lean ====
section
/-! SUPPORT. Laws of accesses: what noting an access, a load and a store leave alone. -/

set_option Elab.async false

namespace Sys2Proof.Machine

/-- Noting an access, seen from every context: as `Noted`, but of the acting context too. -/
def NotedAll (s t : State) : Prop := Noted s t ∧ { t.me with wait := none } = { s.me with wait := none }

theorem Elsewhere.refl (s : State) : Elsewhere s s :=
  ⟨rfl, rfl, rfl, rfl, rfl, rfl, rfl, rfl, rfl, rfl, rfl, rfl, rfl, fun _ _ => rfl⟩

theorem Elsewhere.trans {s t u : State} (h : Elsewhere s t) (g : Elsewhere t u) : Elsewhere s u :=
  ⟨g.parts.trans h.parts, g.dies.trans h.dies, g.slices.trans h.slices, g.sched.trans h.sched, g.fill.trans h.fill,
   g.bar0.trans h.bar0, g.fw.trans h.fw, g.saved.trans h.saved, g.turn.trans h.turn, g.time.trans h.time,
   g.power.trans h.power, g.agenda.trans h.agenda, g.freeCnt.trans h.freeCnt,
   fun c hc => (g.ctxs c (h.turn ▸ hc)).trans (h.ctxs c hc)⟩

theorem Noted.refl (s : State) : Noted s s := ⟨rfl, rfl, rfl, .refl s⟩

theorem Noted.trans {s t u : State} (h : Noted s t) (g : Noted t u) : Noted s u :=
  ⟨g.mem.trans h.mem, g.poison.trans h.poison, g.badCheck.trans h.badCheck, h.rest.trans g.rest⟩

theorem NotedAll.refl (s : State) : NotedAll s s := ⟨.refl s, rfl⟩

theorem NotedAll.trans {s t u : State} (h : NotedAll s t) (g : NotedAll t u) : NotedAll s u := ⟨h.1.trans g.1, g.2.trans h.2⟩

/-- A state that differs in nothing that `Noted` names, contexts included. -/
theorem notedAll_of {s t : State} (h1 : t.mem = s.mem) (h2 : t.poison = s.poison) (h3 : t.badCheck = s.badCheck)
    (h4 : t.parts = s.parts) (h5 : t.dies = s.dies) (h6 : t.slices = s.slices) (h7 : t.sched = s.sched) (h8 : t.fill = s.fill)
    (h9 : t.bar0 = s.bar0) (h10 : t.fw = s.fw) (h11 : t.saved = s.saved) (h12 : t.turn = s.turn) (h13 : t.time = s.time)
    (h14 : t.power = s.power) (h15 : t.agenda = s.agenda) (h16 : t.freeCnt = s.freeCnt) (hc : t.ctxs = s.ctxs) : NotedAll s t := by
  have e : ∀ c, t.ctx c = s.ctx c := fun c => by unfold State.ctx; rw [hc]
  exact ⟨⟨h1, h2, h3, ⟨h4, h5, h6, h7, h8, h9, h10, h11, h12, h13, h14, h15, h16, fun c _ => by rw [e]⟩⟩,
    by unfold State.me; rw [h12, e]⟩

/-! ### Each thing that is noted -/

theorem notedAll_setCore (s : State) (n : Nat) (c : Core) : NotedAll s (s.setCore n c) := by apply notedAll_of <;> rfl
theorem notedAll_setMyCore (s : State) (c : Core) : NotedAll s (s.setMyCore c) := notedAll_setCore ..
theorem notedAll_setCluster (s : State) (n : Nat) (c : Cluster) : NotedAll s (s.setCluster n c) := by apply notedAll_of <;> rfl
theorem notedAll_setTask (s : State) (n : Nat) (t : Task) : NotedAll s (s.setTask n t) := by apply notedAll_of <;> rfl
theorem notedAll_setMyTask (s : State) (t : Task) : NotedAll s (s.setMyTask t) := by
  unfold State.setMyTask
  split
  · exact notedAll_setTask ..
  · exact .refl _

/-- Folding a step that only notes. -/
theorem notedAll_foldl {α : Type} (f : State → α → State) (h : ∀ s a, NotedAll s (f s a)) (l : List α) (s : State) :
    NotedAll s (l.foldl f s) := by
  induction l generalizing s with
  | nil => exact .refl s
  | cons a l ih => exact (h s a).trans (ih (f s a))

theorem notedAll_takeLease (s : State) (line : Nat) : NotedAll s (s.takeLease line) := by
  unfold State.takeLease
  split
  · exact .refl _
  · apply notedAll_of <;> rfl

theorem notedAll_countEvent (s : State) (task ev n : Nat) : NotedAll s (countEvent s task ev n) := by
  unfold countEvent
  split
  · exact .refl _
  · exact notedAll_setTask ..

theorem notedAll_toL2 (s : State) (ls : List Nat) (w : Bool) : NotedAll s (toL2 s ls w) := by
  unfold toL2
  dsimp only
  split
  · exact .refl _
  · apply notedAll_of <;> rfl

theorem notedAll_takeLeases (l : List Nat) (s : State) : NotedAll s (l.foldl State.takeLease s) :=
  notedAll_foldl _ notedAll_takeLease l s

theorem notedAll_ite {s a b : State} (c : Prop) [Decidable c] (h : NotedAll s a) (g : NotedAll s b) :
    NotedAll s (if c then a else b) := by
  split
  · exact h
  · exact g

theorem notedAll_keepTlb (s : State) (core : Nat) (e : Option TlbEntry) : NotedAll s (s.keepTlb core e) := by
  unfold State.keepTlb
  split
  · exact .refl _
  · extract_lets e s0 c u s1
    have h0 : NotedAll s s0 := notedAll_toL2 ..
    have h1 : NotedAll s s1 := (h0.trans (notedAll_setCore ..)).trans (notedAll_takeLeases ..)
    exact notedAll_ite _ h0 (notedAll_ite _ h1 (h1.trans (notedAll_setCluster ..)))

/-- A table whose entries are changed one by one reads as changed entry by entry. -/
theorem get_map {α : Type} (d : α) (f : Nat × α → Nat × α) (hk : ∀ e, (f e).1 = e.1) (t : Table α) (n : Nat)
    (r : α → α → Prop) (hr : ∀ e, r (f e).2 e.2) (hd : r d d) : r (Table.get d (t.map f) n) (Table.get d t n) := by
  induction t with
  | nil => exact hd
  | cons e t ih =>
    obtain ⟨k, v⟩ := e
    have h1 : (f (k, v)).1 = k := hk (k, v)
    have h2 := hr (k, v)
    revert h1 h2
    simp only [List.map_cons]
    generalize f (k, v) = g
    intro h1 h2
    obtain ⟨k', v'⟩ := g
    subst h1
    simp only [Table.get]
    split
    · exact hd
    · split
      · exact h2
      · exact ih

/-- A notice changes nothing of a context but its wait. -/
theorem ctx_notify (s : State) (p : CtxId → Nat → Bool) (c : CtxId) :
    { (notify s p).ctx c with wait := none } = { s.ctx c with wait := none } := by
  unfold State.ctx notify
  refine get_map (r := fun (a b : Ctx) => { a with wait := none } = { b with wait := none }) _ _ ?_ _ _ ?_ rfl
  · intro e
    split
    · split <;> rfl
    · rfl
  · intro e
    split
    · split <;> rfl
    · rfl

theorem notedAll_notify (s : State) (p : CtxId → Nat → Bool) : NotedAll s (notify s p) :=
  ⟨⟨rfl, rfl, rfl, ⟨rfl, rfl, rfl, rfl, rfl, rfl, rfl, rfl, rfl, rfl, rfl, rfl, rfl, fun c _ => ctx_notify s p c⟩⟩,
    ctx_notify s p s.turn⟩

theorem notedAll_widen (s : State) (core : Nat) (gone : Nat → Bool) : NotedAll s (widen s core gone) := by
  unfold widen
  split
  · exact .refl _
  · apply notedAll_of <;> rfl

theorem notedAll_l1Lose (s : State) (core : Nat) (ls : List Nat) : NotedAll s (l1Lose s core ls) := by
  unfold l1Lose
  dsimp only
  split
  · exact .refl _
  · exact ((notedAll_notify ..).trans (notedAll_widen ..)).trans (notedAll_setCore ..)

theorem notedAll_l1LoseOthers (s : State) (keep : Option Nat) (ls : List Nat) : NotedAll s (l1LoseOthers s keep ls) :=
  notedAll_foldl _ (fun s c => by
    split
    · exact .refl _
    · exact notedAll_l1Lose ..) _ s

theorem notedAll_l1Probe (s : State) (colour keep : Option Nat) (l : Nat) : NotedAll s (l1Probe s colour keep l) := by
  unfold l1Probe
  extract_lets hs
  split
  · exact notedAll_l1LoseOthers ..
  · split
    · exact notedAll_l1LoseOthers ..
    · exact notedAll_foldl _ (fun s c => notedAll_ite _ (.refl _) (notedAll_ite _ (notedAll_l1Lose ..) (notedAll_setCore ..))) _ s

theorem notedAll_l1ShareOthers (s : State) (keep : Option Nat) (l : Nat) : NotedAll s (l1ShareOthers s keep l) := by
  unfold l1ShareOthers
  extract_lets s1
  have h : NotedAll s s1 := notedAll_foldl _ (fun s c => notedAll_ite _ (.refl _) (notedAll_widen ..)) _ s
  exact h.trans (by apply notedAll_of <;> rfl)

theorem notedAll_dirTake (s : State) (ps : List Nat) : NotedAll s (dirTake s ps) := by apply notedAll_of <;> rfl

theorem notedAll_notePathAt (s : State) (cache : BitVec 2) (ls : List Nat) : NotedAll s (notePathAt s cache ls) := by
  unfold notePathAt
  refine notedAll_ite _ ?_ (notedAll_ite _ (.refl _) ?_) <;> (apply notedAll_of <;> rfl)

theorem notedAll_takeLines (s : State) (ls : List Nat) : NotedAll s (takeLines s ls) := by
  unfold takeLines
  dsimp only
  refine notedAll_ite _ (.refl _) ?_
  apply notedAll_of <;> rfl

theorem notedAll_noteRemote (s : State) (t : Target) (store : Bool) (line : Nat) : NotedAll s (noteRemote s t store line) := by
  unfold noteRemote
  refine notedAll_ite _ (.refl _) (notedAll_ite _ (notedAll_takeLease ..) (notedAll_takeLines ..))

theorem notedAll_noteLines (s : State) (t : Target) (n : Nat) (store : Bool) : NotedAll s (noteLines s t n store) := by
  unfold noteLines
  exact (notedAll_ite _ (notedAll_notePathAt ..) (.refl _)).trans (notedAll_foldl _ (fun s l => notedAll_noteRemote s t store l) _ _)

theorem notedAll_noteTouch (s : State) (t : Target) : NotedAll s (noteTouch s t) := by
  unfold noteTouch
  split
  · exact notedAll_toL2 ..
  · exact .refl _

theorem notedAll_l1Access (s : State) (grain : Nat) (store : Bool) (l n : Nat) : NotedAll s (l1Access s grain store l n) := by
  unfold l1Access
  generalize l1Touch s.myCore.l1d l n grain store = r
  obtain ⟨tags, miss, gone⟩ := r
  dsimp -zeta only
  extract_lets s1 c s2 s3
  have h1 : NotedAll s s1 := notedAll_ite _ (.refl _) (notedAll_ite _ (notedAll_l1Probe ..) (notedAll_l1ShareOthers ..))
  clear_value s1
  have h2 : NotedAll s s2 := h1.trans (notedAll_setMyCore ..)
  clear_value s2
  have h3 : NotedAll s s3 := notedAll_ite _ h2 ((h2.trans (notedAll_notify ..)).trans (notedAll_widen ..))
  clear_value s3
  exact notedAll_ite _ (((h3.trans (notedAll_toL2 ..)).trans (notedAll_dirTake ..)).trans (notedAll_countEvent ..)) h3

/-- Noting an access changes nothing that `Noted` names. -/
theorem notedAll_noteAccess (s : State) (t : Target) (width : Nat) (store : Bool) : NotedAll s (noteAccess s t width store) := by
  unfold noteAccess
  extract_lets s1
  have h1 : NotedAll s s1 := notedAll_keepTlb ..
  clear_value s1
  split
  · exact h1.trans (notedAll_setMyTask ..)
  · rename_i k secs s2 s3 _ _
    have h2 : NotedAll s s2 := notedAll_ite _ (h1.trans (notedAll_setMyTask ..)) h1
    clear_value s2
    have h3 : NotedAll s s3 := 
      (h2.trans (notedAll_noteTouch s2 t)).trans (notedAll_noteLines (noteTouch s2 t) t width store)
    clear_value s3
    refine notedAll_ite _ (notedAll_ite _ h3 (h3.trans (notedAll_toL2 ..))) (notedAll_ite _ h3 (h3.trans ?_))
    exact notedAll_foldl (fun s (p : Nat × Nat) => l1Access s t.grain store p.1 p.2) (fun s p => notedAll_l1Access s t.grain store p.1 p.2) _ s3

/-- Noting a read by a unit changes nothing that `Noted` names. -/
theorem notedAll_noteRead (s : State) (t : Target) (n : Nat) : NotedAll s (noteRead s t n) := by
  unfold noteRead
  split
  · exact .refl _
  · extract_lets s1
    have h1 : NotedAll s s1 := (notedAll_noteTouch s t).trans (notedAll_noteLines (noteTouch s t) t n false)
    clear_value s1
    refine notedAll_ite _ h1 ((h1.trans ?_).trans (notedAll_toL2 ..))
    exact notedAll_foldl (fun s x => l1ShareOthers s none (x * 32)) (fun s x => notedAll_l1ShareOthers s none (x * 32)) _ s1

/-- Noting the read of a buffer record changes nothing that `Noted` names. -/
theorem notedAll_noteVia (s : State) (sel : BitVec 3) (n : BitVec 8) : NotedAll s (s.noteVia sel n) := by
  unfold State.noteVia
  refine notedAll_ite _ (.refl _) ?_
  split
  · exact (notedAll_keepTlb ..).trans (notedAll_noteRead ..)
  · exact .refl _

end Sys2Proof.Machine
end

