-- ==== Sys2Proof/Laws/Decode.lean ====
section
/-! SUPPORT. Fields that an encoder lays and the decoder reads back, form by form. -/

set_option Elab.async false

set_option linter.unusedSimpArgs false
set_option linter.unnecessarySeqFocus false

namespace Sys2Proof

/-! ### Immediates -/

theorem immI_encI (op : BitVec 7) (f3 : BitVec 3) (d a : Reg) (i : BitVec 12) : (encI op f3 d a i).immI = i := by
  apply BitVec.eq_of_getLsbD_eq
  intro k hk
  simp only [R32.immI, encI, BitVec.getLsbD_append, BitVec.getLsbD_extractLsb']
  split <;> simp_all <;> omega
theorem immB_encB (f3 : BitVec 3) (a b : Reg) (i : BitVec 12) : (encB f3 a b i).immB = i := by
  apply BitVec.eq_of_getLsbD_eq
  intro k hk
  simp only [R32.immB, encB, BitVec.getLsbD_append, BitVec.getLsbD_extractLsb']
  interval_cases k <;> simp
theorem immJ_encJ (d : Reg) (i : BitVec 20) : (encJ d i).immJ = i := by
  apply BitVec.eq_of_getLsbD_eq
  intro k hk
  simp only [R32.immJ, encJ, BitVec.getLsbD_append, BitVec.getLsbD_extractLsb']
  interval_cases k <;> simp
theorem immU_encU (op : BitVec 7) (d : Reg) (i : BitVec 20) : (encU op d i).immU = i := by
  apply BitVec.eq_of_getLsbD_eq
  intro k hk
  simp only [R32.immU, encU, BitVec.getLsbD_append, BitVec.getLsbD_extractLsb']
  interval_cases k <;> simp
theorem immS_encS (f3 : BitVec 3) (a b : Reg) (i : BitVec 12) : (encS f3 a b i).immS = i := by
  apply BitVec.eq_of_getLsbD_eq
  intro k hk
  simp only [R32.immS, encS, BitVec.getLsbD_append, BitVec.getLsbD_extractLsb']
  interval_cases k <;> simp
/-! ### Operands -/

theorem VecOp.decodes (o : VecOp) (func : BitVec 8) (v x i : Bool) (h : o.ok v x i = true) : (o.enc func).vecOp v x i = .ok o := by
  obtain ⟨d, s1, b, et, m, k⟩ := o
  cases b <;> simp_all [VecOp.ok, Src.ok, F64.vecOp, VecOp.enc, F64.withSrc, F64.blank, F64.src, F64.mask, need] <;> rfl
theorem VecUn.decodes (o : VecUn) (func : BitVec 8) (h : o.ok = true) : (o.enc func).vecUn = .ok o := by
  obtain ⟨d, s1, et, m, k⟩ := o
  simp_all [VecUn.ok, F64.vecUn, VecUn.enc, F64.blank, F64.mask, need]; rfl
theorem FltOp.decodes (o : FltOp) (func : BitVec 8) (r f : Bool) (h : o.ok r f = true) : (o.enc func).fltOp r f = .ok o := by
  obtain ⟨d, s1, b, s3, rm, et, m, k⟩ := o
  cases b <;> cases r <;> cases f <;> simp_all [FltOp.ok, Src.ok, F64.fltOp, FltOp.enc, F64.withSrc, F64.blank, F64.src, F64.mask, F64.rounding, need] <;> rfl
theorem FltUn.decodes (o : FltUn) (func : BitVec 8) (r : Bool) (h : o.ok r = true) : (o.enc func).fltUn r = .ok o := by
  obtain ⟨d, s1, rm, et, m, k⟩ := o
  cases r <;> simp_all [FltUn.ok, F64.fltUn, FltUn.enc, F64.blank, F64.mask, F64.rounding, need] <;> rfl
theorem immVM_sel (aq rl : Bool) (n : BitVec 8) (sel : BitVec 3) : (immVM aq rl n sel).extractLsb' 0 3 = sel := by
  apply BitVec.eq_of_getLsbD_eq
  intro k hk
  simp only [immVM, BitVec.getLsbD_append, BitVec.getLsbD_extractLsb']
  interval_cases k <;> simp
theorem immVM_rec (aq rl : Bool) (n : BitVec 8) (sel : BitVec 3) : (immVM aq rl n sel).extractLsb' 3 8 = n := by
  apply BitVec.eq_of_getLsbD_eq
  intro k hk
  simp only [immVM, BitVec.getLsbD_append, BitVec.getLsbD_extractLsb']
  interval_cases k <;> simp
theorem immVM_aq (aq rl : Bool) (n : BitVec 8) (sel : BitVec 3) : (immVM aq rl n sel).extractLsb' 12 1 = BitVec.ofBool aq := by
  apply BitVec.eq_of_getLsbD_eq
  intro k hk
  simp only [immVM, BitVec.getLsbD_append, BitVec.getLsbD_extractLsb']
  interval_cases k <;> simp
theorem immVM_rl (aq rl : Bool) (n : BitVec 8) (sel : BitVec 3) : (immVM aq rl n sel).extractLsb' 11 1 = BitVec.ofBool rl := by
  apply BitVec.eq_of_getLsbD_eq
  intro k hk
  simp only [immVM, BitVec.getLsbD_append, BitVec.getLsbD_extractLsb']
  interval_cases k <;> simp
theorem immVM_top (n : BitVec 8) (sel : BitVec 3) : (immVM false false n sel).extractLsb' 11 2 = 0 := by
  apply BitVec.eq_of_getLsbD_eq
  intro k hk
  simp only [immVM, BitVec.getLsbD_append, BitVec.getLsbD_extractLsb']
  interval_cases k <;> simp
theorem MemOp.decodes (o : MemOp) (func : BitVec 8) (oc : BitVec 2) (s2 : Bool) (h : o.ok s2 = true) : (o.enc func oc).memOp oc s2 = .ok o := by
  obtain ⟨d, s1, s2', sel, n, et, m, k⟩ := o
  cases s2 <;> simp_all [MemOp.ok, F64.memOp, MemOp.enc, F64.blank, F64.mask, F64.sel, F64.recNo, need, immVM_sel, immVM_rec, immVM_top] <;> rfl
theorem SpillOp.decodes (o : SpillOp) (func : BitVec 8) (h : o.ok = true) : (o.enc func).spillOp = .ok o := by
  obtain ⟨d, s1, sel, n⟩ := o
  simp_all [SpillOp.ok, F64.spillOp, SpillOp.enc, F64.blank, F64.noMask, F64.sel, F64.recNo, need, immVM_sel, immVM_rec, immVM_top]; rfl
theorem AmoOp.decodes (o : AmoOp) (func : BitVec 8) (cas : Bool) (h : o.ok cas = true) : (o.enc func).amoOp cas = .ok o := by
  obtain ⟨d, s1, s2, s3, sel, n, aq, rl, scope⟩ := o
  cases aq <;> cases rl <;> cases cas <;>
  simp_all [AmoOp.ok, F64.amoOp, AmoOp.enc, F64.blank, F64.noMask, F64.sel, F64.recNo, need, immVM_sel, immVM_rec, immVM_aq, immVM_rl] <;> rfl
theorem VAmoOp.decodes (o : VAmoOp) (func : BitVec 8) (h : o.ok = true) : (o.enc func).vamoOp = .ok o := by
  obtain ⟨d, s1, s2, s3, sel, n, aq, rl, scope, m, k⟩ := o
  cases aq <;> cases rl <;>
  simp_all [VAmoOp.ok, F64.vamoOp, VAmoOp.enc, F64.blank, F64.mask, F64.sel, F64.recNo, need, immVM_sel, immVM_rec, immVM_aq, immVM_rl] <;> rfl
theorem CvtOp.decodes (o : CvtOp) (h : o.ok = true) : o.enc.cvt = .ok o := by
  obtain ⟨d, s1, fmt, sew, sat, usrc, udst, rm, et, m, k⟩ := o
  have e1 : ∀ (a b c : Bool), (0#2 ++ BitVec.ofBool a ++ BitVec.ofBool b ++ BitVec.ofBool c ++ sew ++ fmt).extractLsb' 11 2 = 0 := by
    intro a b c; apply BitVec.eq_of_getLsbD_eq; intro k hk
    simp only [BitVec.getLsbD_append, BitVec.getLsbD_extractLsb']; interval_cases k <;> simp
  have e2 : ∀ (a b c : Bool), (0#2 ++ BitVec.ofBool a ++ BitVec.ofBool b ++ BitVec.ofBool c ++ sew ++ fmt).extractLsb' 0 5 = fmt := by
    intro a b c; apply BitVec.eq_of_getLsbD_eq; intro k hk
    simp only [BitVec.getLsbD_append, BitVec.getLsbD_extractLsb']; interval_cases k <;> simp
  have e3 : ∀ (a b c : Bool), (0#2 ++ BitVec.ofBool a ++ BitVec.ofBool b ++ BitVec.ofBool c ++ sew ++ fmt).extractLsb' 5 3 = sew := by
    intro a b c; apply BitVec.eq_of_getLsbD_eq; intro k hk
    simp only [BitVec.getLsbD_append, BitVec.getLsbD_extractLsb']; interval_cases k <;> simp
  have e4 : ∀ (a b c : Bool), (0#2 ++ BitVec.ofBool a ++ BitVec.ofBool b ++ BitVec.ofBool c ++ sew ++ fmt).extractLsb' 8 1 = BitVec.ofBool c := by
    intro a b c; apply BitVec.eq_of_getLsbD_eq; intro k hk
    simp only [BitVec.getLsbD_append, BitVec.getLsbD_extractLsb']; interval_cases k <;> simp
  have e5 : ∀ (a b c : Bool), (0#2 ++ BitVec.ofBool a ++ BitVec.ofBool b ++ BitVec.ofBool c ++ sew ++ fmt).extractLsb' 9 1 = BitVec.ofBool b := by
    intro a b c; apply BitVec.eq_of_getLsbD_eq; intro k hk
    simp only [BitVec.getLsbD_append, BitVec.getLsbD_extractLsb']; interval_cases k <;> simp
  have e6 : ∀ (a b c : Bool), (0#2 ++ BitVec.ofBool a ++ BitVec.ofBool b ++ BitVec.ofBool c ++ sew ++ fmt).extractLsb' 10 1 = BitVec.ofBool a := by
    intro a b c; apply BitVec.eq_of_getLsbD_eq; intro k hk
    simp only [BitVec.getLsbD_append, BitVec.getLsbD_extractLsb']; interval_cases k <;> simp
  have q : ∀ b : Bool, decide (BitVec.ofBool b = 1) = b := by decide
  simp only [F64.cvt, CvtOp.enc, F64.blank, F64.mask, e1, e2, e3, e4, e5, e6, q, h]
  rfl

/-! ### Constructors -/

theorem no_enc {α : Type} {x : α} {p : Prop} (h : none = some x) : p := nomatch h
theorem of_some {α : Type} {x y : α} (h : some x = some y) : x = y := Option.some.inj h
theorem both_left {a b : Bool} (h : (a && b) = true) : a = true := (Bool.and_eq_true_iff.mp h).1
theorem both_right {a b : Bool} (h : (a && b) = true) : b = true := (Bool.and_eq_true_iff.mp h).2
theorem after_need {c : Bool} {e : DecodeError} {α : Type} {x r : Except DecodeError α} (h : c = true) (hx : x = r) :
    (need c e >>= fun _ => x) = r := by subst h; exact hx

theorem imm6_low (tn : BitVec 6) : (0#7 ++ tn).extractLsb' 0 6 = tn := by
  apply BitVec.eq_of_getLsbD_eq; intro k hk
  simp only [BitVec.getLsbD_append, BitVec.getLsbD_extractLsb']; interval_cases k <;> simp
theorem imm6_high (tn : BitVec 6) : (0#7 ++ tn).extractLsb' 6 7 = 0 := by
  apply BitVec.eq_of_getLsbD_eq; intro k hk
  simp only [BitVec.getLsbD_append, BitVec.getLsbD_extractLsb']; interval_cases k <;> simp
theorem imm3_low (p : BitVec 3) : (0#10 ++ p).extractLsb' 0 3 = p := by
  apply BitVec.eq_of_getLsbD_eq; intro k hk
  simp only [BitVec.getLsbD_append, BitVec.getLsbD_extractLsb']; interval_cases k <;> simp
theorem imm3_high (p : BitVec 3) : (0#10 ++ p).extractLsb' 3 10 = 0 := by
  apply BitVec.eq_of_getLsbD_eq; intro k hk
  simp only [BitVec.getLsbD_append, BitVec.getLsbD_extractLsb']; interval_cases k <;> simp
theorem immGx_rec (l : BitVec 2) (n : BitVec 8) : (0#3 ++ l ++ n).extractLsb' 0 8 = n := by
  apply BitVec.eq_of_getLsbD_eq; intro k hk
  simp only [BitVec.getLsbD_append, BitVec.getLsbD_extractLsb']; interval_cases k <;> simp
theorem immGx_lod (l : BitVec 2) (n : BitVec 8) : (0#3 ++ l ++ n).extractLsb' 8 2 = l := by
  apply BitVec.eq_of_getLsbD_eq; intro k hk
  simp only [BitVec.getLsbD_append, BitVec.getLsbD_extractLsb']; interval_cases k <;> simp
theorem immGx_high (l : BitVec 2) (n : BitVec 8) : (0#3 ++ l ++ n).extractLsb' 10 3 = 0 := by
  apply BitVec.eq_of_getLsbD_eq; intro k hk
  simp only [BitVec.getLsbD_append, BitVec.getLsbD_extractLsb']; interval_cases k <;> simp
theorem immGx_high5 (n : BitVec 8) : (0#3 ++ 0#2 ++ n).extractLsb' 8 5 = 0 := by
  apply BitVec.eq_of_getLsbD_eq; intro k hk
  simp only [BitVec.getLsbD_append, BitVec.getLsbD_extractLsb']; interval_cases k <;> simp
theorem immSlot_slot (t : BitVec 3) (n : BitVec 7) : (0#3 ++ t ++ n).extractLsb' 0 7 = n := by
  apply BitVec.eq_of_getLsbD_eq; intro k hk
  simp only [BitVec.getLsbD_append, BitVec.getLsbD_extractLsb']; interval_cases k <;> simp
theorem immSlot_target (t : BitVec 3) (n : BitVec 7) : (0#3 ++ t ++ n).extractLsb' 7 3 = t := by
  apply BitVec.eq_of_getLsbD_eq; intro k hk
  simp only [BitVec.getLsbD_append, BitVec.getLsbD_extractLsb']; interval_cases k <;> simp
theorem immSlot_high (t : BitVec 3) (n : BitVec 7) : (0#3 ++ t ++ n).extractLsb' 10 3 = 0 := by
  apply BitVec.eq_of_getLsbD_eq; intro k hk
  simp only [BitVec.getLsbD_append, BitVec.getLsbD_extractLsb']; interval_cases k <;> simp
theorem immTy_low (ty : BitVec 15) : (0#1 ++ ty.extractLsb' 3 12).extractLsb' 0 12 ++ ty.extractLsb' 0 3 = ty := by
  apply BitVec.eq_of_getLsbD_eq; intro k hk
  simp only [BitVec.getLsbD_append, BitVec.getLsbD_extractLsb']; interval_cases k <;> simp
theorem immTy_high (ty : BitVec 15) : (0#1 ++ ty.extractLsb' 3 12).extractLsb' 12 1 = 0 := by
  apply BitVec.eq_of_getLsbD_eq; intro k hk
  simp only [BitVec.getLsbD_append, BitVec.getLsbD_extractLsb']; interval_cases k <;> simp
theorem shamt (t : BitVec 6) (n : BitVec 6) : (t ++ n.extractLsb' 5 1).extractLsb' 0 1 ++ n.extractLsb' 0 5 = n := by
  apply BitVec.eq_of_getLsbD_eq; intro k hk
  simp only [BitVec.getLsbD_append, BitVec.getLsbD_extractLsb']; interval_cases k <;> simp
theorem shamt_top (t : BitVec 6) (n : BitVec 6) : (t ++ n.extractLsb' 5 1).extractLsb' 1 6 = t := by
  apply BitVec.eq_of_getLsbD_eq; intro k hk
  simp only [BitVec.getLsbD_append, BitVec.getLsbD_extractLsb']; interval_cases k <;> simp
theorem decodes_slli (d a : Reg) (h : BitVec 6) : decode32 (encR 0x13 1 (0#6 ++ h.extractLsb' 5 1) d a (h.extractLsb' 0 5)) = .ok (.slli d a h) := by
  show (if (0#6 ++ h.extractLsb' 5 1).extractLsb' 1 6 = 0 then Except.ok (Instr.slli d a ((0#6 ++ h.extractLsb' 5 1).extractLsb' 0 1 ++ h.extractLsb' 0 5)) else _) = _
  rw [shamt_top, shamt]; rfl
theorem decodes_srli (d a : Reg) (h : BitVec 6) : decode32 (encR 0x13 5 (0#6 ++ h.extractLsb' 5 1) d a (h.extractLsb' 0 5)) = .ok (.srli d a h) := by
  show (if (0#6 ++ h.extractLsb' 5 1).extractLsb' 1 6 = 0 then Except.ok (Instr.srli d a ((0#6 ++ h.extractLsb' 5 1).extractLsb' 0 1 ++ h.extractLsb' 0 5)) else _) = _
  rw [shamt_top, shamt]; rfl
theorem decodes_srai (d a : Reg) (h : BitVec 6) : decode32 (encR 0x13 5 (16#6 ++ h.extractLsb' 5 1) d a (h.extractLsb' 0 5)) = .ok (.srai d a h) := by
  show (if (16#6 ++ h.extractLsb' 5 1).extractLsb' 1 6 = 0 then _ else if (16#6 ++ h.extractLsb' 5 1).extractLsb' 1 6 = 16 then
    Except.ok (Instr.srai d a ((16#6 ++ h.extractLsb' 5 1).extractLsb' 0 1 ++ h.extractLsb' 0 5)) else _) = _
  rw [shamt_top, shamt]; rfl
theorem immI_fence (p s : BitVec 4) : (((0#4 ++ p ++ s).extractLsb' 5 7).extractLsb' 3 4 = 0) ∧
    ((0#4 ++ p ++ s).extractLsb' 5 7).extractLsb' 0 3 ++ ((0#4 ++ p ++ s).extractLsb' 0 5).extractLsb' 4 1 = p ∧
    ((0#4 ++ p ++ s).extractLsb' 0 5).extractLsb' 0 4 = s := by
  refine ⟨?_, ?_, ?_⟩ <;> (apply BitVec.eq_of_getLsbD_eq; intro k hk
                           simp only [BitVec.getLsbD_append, BitVec.getLsbD_extractLsb']; interval_cases k <;> simp)
theorem decodes_fence (p s : BitVec 4) : decode32 (encI 0x0F 0 0 0 (0#4 ++ p ++ s)) = .ok (.fence p s) := by
  obtain ⟨h1, h2, h3⟩ := immI_fence p s
  show (if ((0#4 ++ p ++ s).extractLsb' 5 7).extractLsb' 3 4 = 0 then Except.ok (Instr.fence
    (((0#4 ++ p ++ s).extractLsb' 5 7).extractLsb' 0 3 ++ ((0#4 ++ p ++ s).extractLsb' 0 5).extractLsb' 4 1) (((0#4 ++ p ++ s).extractLsb' 0 5).extractLsb' 0 4)) else _) = _
  rw [h1, h2, h3]; rfl
theorem immOwn_slot (n : BitVec 7) : (1#6 ++ n).extractLsb' 0 7 = n := by
  apply BitVec.eq_of_getLsbD_eq; intro k hk
  simp only [BitVec.getLsbD_append, BitVec.getLsbD_extractLsb']; interval_cases k <;> simp
theorem immOwn_target (n : BitVec 7) : (1#6 ++ n).extractLsb' 7 3 = 1 := by
  apply BitVec.eq_of_getLsbD_eq; intro k hk
  simp only [BitVec.getLsbD_append, BitVec.getLsbD_extractLsb']; interval_cases k <;> simp
theorem immOwn_high (n : BitVec 7) : (1#6 ++ n).extractLsb' 10 3 = 0 := by
  apply BitVec.eq_of_getLsbD_eq; intro k hk
  simp only [BitVec.getLsbD_append, BitVec.getLsbD_extractLsb']; interval_cases k <;> simp

/-! ### Forms of the groups MX, GX, SY and CT -/

theorem decodes_setvl (d : Reg) (s1 : Reg) (ty : BitVec 15) (_ : (Instr.setvl d s1 ty).wellFormed = true) :
    decode64 { F64.blank 6 0x00 3 with d := d, s1 := s1, et := ty.extractLsb' 0 3, imm := 0#1 ++ ty.extractLsb' 3 12 } = .ok (.setvl d s1 ty) := by
  simp [decode64, decodeCT, encRegs, F64.blank, F64.sy, need, F64.plain, F64.noMask, immTy_low, immTy_high]; rfl
theorem decodes_setvlReg (d : Reg) (s1 : Reg) (s2 : Reg) (_ : (Instr.setvlReg d s1 s2).wellFormed = true) :
    decode64 (encRegs 6 0x01 d s1 s2) = .ok (.setvlReg d s1 s2) := rfl
theorem decodes_mpush (n : Reg) (h : (Instr.mpush n).wellFormed = true) :
    decode64 (encRegs 6 0x08 0 n 0) = .ok (.mpush n) := after_need h rfl
theorem decodes_bmz (off : BitVec 13) (_ : (Instr.bmz off).wellFormed = true) :
    decode64 { F64.blank 6 0x0C 3 with imm := off } = .ok (.bmz off) := rfl
theorem decodes_bmnz (off : BitVec 13) (_ : (Instr.bmnz off).wellFormed = true) :
    decode64 { F64.blank 6 0x0D 3 with imm := off } = .ok (.bmnz off) := rfl
theorem decodes_jtbl (d : Reg) (s1 : Reg) (s2 : Reg) (s3 : Reg) (_ : (Instr.jtbl d s1 s2 s3).wellFormed = true) :
    decode64 { encRegs 6 0x10 d s1 s2 with s3 := s3 } = .ok (.jtbl d s1 s2 s3) := rfl
theorem decodes_hback (s1 : Reg) (s2 : Reg) (_ : (Instr.hback s1 s2).wellFormed = true) :
    decode64 (encRegs 6 0x18 0 s1 s2) = .ok (.hback s1 s2) := rfl
theorem decodes_tresume (s1 : Reg) (_ : (Instr.tresume s1).wellFormed = true) :
    decode64 (encRegs 6 0x20 0 s1 0) = .ok (.tresume s1) := rfl
theorem decodes_tkill (s1 : Reg) (_ : (Instr.tkill s1).wellFormed = true) :
    decode64 (encRegs 6 0x21 0 s1 0) = .ok (.tkill s1) := rfl
theorem decodes_tlbinv (s1 : Reg) (s2 : Reg) (_ : (Instr.tlbinv s1 s2).wellFormed = true) :
    decode64 (encRegs 6 0x28 0 s1 s2) = .ok (.tlbinv s1 s2) := by
  simp [decode64, decodeCT, encRegs, F64.blank, F64.sy, need, F64.plain, F64.noMask]; rfl
theorem decodes_tlbinvCol (s1 : Reg) (s2 : Reg) (_ : (Instr.tlbinvCol s1 s2).wellFormed = true) :
    decode64 { encRegs 6 0x28 0 s1 s2 with imm := 1 } = .ok (.tlbinvCol s1 s2) := by
  simp [decode64, decodeCT, encRegs, F64.blank, F64.sy, need, F64.plain, F64.noMask]; rfl
theorem decodes_phase (aq : Bool) (rl : Bool) (scope : BitVec 3) (h : (Instr.phase aq rl scope).wellFormed = true) :
    decode64 { F64.blank 5 0x00 3 with rm := scope, imm := BitVec.ofBool aq ++ BitVec.ofBool rl ++ 0#11 } = .ok (.phase aq rl scope) := by
  cases aq <;> cases rl <;> simp_all [Instr.wellFormed, decode64, decodeSY, encRegs, encSlot, F64.blank, F64.sy, need, F64.plain, F64.noMask] <;> rfl
theorem decodes_arrive (target : BitVec 3) (slot : BitVec 7) (s1 : Reg) (scope : BitVec 3) (h : (Instr.arrive target slot s1 scope).wellFormed = true) :
    decode64 (encSlot 0x08 target slot scope 0 s1) = .ok (.arrive target slot s1 scope) := by
  simp_all [Instr.wellFormed, decode64, decodeSY, encRegs, encSlot, F64.blank, F64.sy, need, F64.plain, F64.noMask, immSlot_slot, immSlot_target, immSlot_high]; rfl
theorem decodes_waitb (slot : BitVec 7) (scope : BitVec 3) (h : (Instr.waitb slot scope).wellFormed = true) :
    decode64 (encSlot 0x09 1 slot scope 0 0) = .ok (.waitb slot scope) := by
  simp_all [Instr.wellFormed, decode64, decodeSY, encRegs, encSlot, F64.blank, F64.sy, need, F64.plain, F64.noMask, immOwn_slot, immOwn_target, immOwn_high]; rfl
theorem decodes_testb (d : Reg) (slot : BitVec 7) (_ : (Instr.testb d slot).wellFormed = true) :
    decode64 (encSlot 0x0A 1 slot 0 d 0) = .ok (.testb d slot) := by
  simp [decode64, decodeSY, encRegs, encSlot, F64.blank, F64.sy, need, F64.plain, F64.noMask, immOwn_slot, immOwn_target, immOwn_high]; rfl
theorem decodes_enq (s1 : Reg) (_ : (Instr.enq s1).wellFormed = true) :
    decode64 (encRegs 5 0x10 0 s1 0) = .ok (.enq s1) := rfl
theorem decodes_enqNb (d : Reg) (s1 : Reg) (_ : (Instr.enqNb d s1).wellFormed = true) :
    decode64 (encRegs 5 0x11 d s1 0) = .ok (.enqNb d s1) := rfl
theorem decodes_psend (pipe : BitVec 3) (s1 : Reg) (_ : (Instr.psend pipe s1).wellFormed = true) :
    decode64 { encRegs 5 0x18 0 s1 0 with imm := 0#10 ++ pipe } = .ok (.psend pipe s1) := by
  simp [decode64, decodeSY, encRegs, encSlot, F64.blank, F64.sy, need, F64.plain, F64.noMask, imm3_low, imm3_high]; rfl
theorem decodes_precv (d : Reg) (pipe : BitVec 3) (s1 : Reg) (_ : (Instr.precv d pipe s1).wellFormed = true) :
    decode64 { encRegs 5 0x19 d s1 0 with imm := 0#10 ++ pipe } = .ok (.precv d pipe s1) := by
  simp [decode64, decodeSY, encRegs, encSlot, F64.blank, F64.sy, need, F64.plain, F64.noMask, imm3_low, imm3_high]; rfl
theorem decodes_xpush (s1 : Reg) (h : (Instr.xpush s1).wellFormed = true) :
    decode64 (encRegs 5 0x20 0 s1 0) = .ok (.xpush s1) := after_need h rfl
theorem decodes_xpushNb (d : Reg) (s1 : Reg) (h : (Instr.xpushNb d s1).wellFormed = true) :
    decode64 (encRegs 5 0x21 d s1 0) = .ok (.xpushNb d s1) := after_need h rfl
theorem decodes_mwait (s1 : Reg) (s2 : Reg) (_ : (Instr.mwait s1 s2).wellFormed = true) :
    decode64 (encRegs 5 0x28 0 s1 s2) = .ok (.mwait s1 s2) := rfl
theorem decodes_gendone (s1 : Reg) (_ : (Instr.gendone s1).wellFormed = true) :
    decode64 (encRegs 5 0x30 0 s1 0) = .ok (.gendone s1) := rfl
theorem decodes_genfail (s1 : Reg) (s2 : Reg) (_ : (Instr.genfail s1 s2).wellFormed = true) :
    decode64 (encRegs 5 0x31 0 s1 s2) = .ok (.genfail s1 s2) := rfl
theorem decodes_fillrst (s1 : Reg) (_ : (Instr.fillrst s1).wellFormed = true) :
    decode64 (encRegs 5 0x32 0 s1 0) = .ok (.fillrst s1) := rfl
theorem decodes_mma (d : Reg) (s1 : Reg) (s2 : Reg) (_ : (Instr.mma d s1 s2).wellFormed = true) :
    decode64 { F64.blank 3 0x00 0 with d := d, s1 := s1, s2 := s2 } = .ok (.mma d s1 s2) := by
  simp [decode64, decodeMX, encMX, F64.blank, need, F64.plain, F64.noMask]; rfl
theorem decodes_mmr (d : Reg) (tn : BitVec 6) (_ : (Instr.mmr d tn).wellFormed = true) :
    decode64 (encMX 0x01 d 0 tn) = .ok (.mmr d tn) := by
  simp [decode64, decodeMX, encMX, F64.blank, need, F64.plain, F64.noMask, imm6_low, imm6_high]; rfl
theorem decodes_mldb (tn : BitVec 6) (s1 : Reg) (_ : (Instr.mldb tn s1).wellFormed = true) :
    decode64 (encMX 0x02 0 s1 tn) = .ok (.mldb tn s1) := by
  simp [decode64, decodeMX, encMX, F64.blank, need, F64.plain, F64.noMask, imm6_low, imm6_high]; rfl
theorem decodes_mconv (d : Reg) (tn : BitVec 6) (s1 : Reg) (_ : (Instr.mconv d tn s1).wellFormed = true) :
    decode64 (encMX 0x03 d s1 tn) = .ok (.mconv d tn s1) := by
  simp [decode64, decodeMX, encMX, F64.blank, need, F64.plain, F64.noMask, imm6_low, imm6_high]; rfl
theorem decodes_mstc (vs : Reg) (tn : BitVec 6) (s1 : Reg) (et : BitVec 3) (rm : BitVec 3) (h : (Instr.mstc vs tn s1 et rm).wellFormed = true) :
    decode64 { encMX 0x04 vs s1 tn with et := et, rm := rm } = .ok (.mstc vs tn s1 et rm) := by
  simp_all [Instr.wellFormed, decode64, decodeMX, encMX, F64.blank, need, F64.plain, F64.noMask, imm6_low, imm6_high]; rfl
theorem decodes_tdset (tn : BitVec 6) (s1 : Reg) (_ : (Instr.tdset tn s1).wellFormed = true) :
    decode64 (encMX 0x10 0 s1 tn) = .ok (.tdset tn s1) := by
  simp [decode64, decodeMX, encMX, F64.blank, need, F64.plain, F64.noMask, imm6_low, imm6_high]; rfl
theorem decodes_tdget (tn : BitVec 6) (s1 : Reg) (_ : (Instr.tdget tn s1).wellFormed = true) :
    decode64 (encMX 0x11 0 s1 tn) = .ok (.tdget tn s1) := by
  simp [decode64, decodeMX, encMX, F64.blank, need, F64.plain, F64.noMask, imm6_low, imm6_high]; rfl
theorem decodes_vbox (d : Reg) (s1 : Reg) (s2 : Reg) (m : MaskSel) (h : (Instr.vbox d s1 s2 m).wellFormed = true) :
    decode64 (encGX 0x00 0 d s1 s2 0 0 m) = .ok (.vbox d s1 s2 m) := by
  simp_all [Instr.wellFormed, decode64, decodeGX, encGX, F64.blank, F64.gx, F64.mask, need]; rfl
theorem decodes_vtri (d : Reg) (s1 : Reg) (s2 : Reg) (m : MaskSel) (h : (Instr.vtri d s1 s2 m).wellFormed = true) :
    decode64 (encGX 0x01 0 d s1 s2 0 0 m) = .ok (.vtri d s1 s2 m) := by
  simp_all [Instr.wellFormed, decode64, decodeGX, encGX, F64.blank, F64.gx, F64.mask, need]; rfl
theorem decodes_tex (d : Reg) (s1 : Reg) (s2 : Reg) (n : BitVec 8) (m : MaskSel) (h : (Instr.tex d s1 s2 n m).wellFormed = true) :
    decode64 (encGX 0x08 0 d s1 s2 0 n m) = .ok (.tex d s1 s2 n m) := by
  simp_all [Instr.wellFormed, -BitVec.reduceAppend, decode64, decodeGX, encGX, F64.blank, F64.gx, F64.mask, need, immGx_rec, immGx_lod, immGx_high]; rfl
theorem decodes_texGrad (d : Reg) (s1 : Reg) (s2 : Reg) (n : BitVec 8) (m : MaskSel) (h : (Instr.texGrad d s1 s2 n m).wellFormed = true) :
    decode64 (encGX 0x08 0 d s1 s2 1 n m) = .ok (.texGrad d s1 s2 n m) := by
  simp_all [Instr.wellFormed, -BitVec.reduceAppend, decode64, decodeGX, encGX, F64.blank, F64.gx, F64.mask, need, immGx_rec, immGx_lod, immGx_high]; rfl
theorem decodes_texLod (d : Reg) (s1 : Reg) (s2 : Reg) (n : BitVec 8) (m : MaskSel) (h : (Instr.texLod d s1 s2 n m).wellFormed = true) :
    decode64 (encGX 0x08 0 d s1 s2 2 n m) = .ok (.texLod d s1 s2 n m) := by
  simp_all [Instr.wellFormed, -BitVec.reduceAppend, decode64, decodeGX, encGX, F64.blank, F64.gx, F64.mask, need, immGx_rec, immGx_lod, immGx_high]; rfl
theorem decodes_txld (d : Reg) (s1 : Reg) (s2 : Reg) (n : BitVec 8) (m : MaskSel) (h : (Instr.txld d s1 s2 n m).wellFormed = true) :
    decode64 (encGX 0x09 1 d s1 s2 0 n m) = .ok (.txld d s1 s2 n m) := by
  simp_all [Instr.wellFormed, -BitVec.reduceAppend, decode64, decodeGX, encGX, F64.blank, F64.gx, F64.mask, need, immGx_rec, immGx_high5]; rfl
theorem decodes_tcommit (s1 : Reg) (s2 : Reg) (m : MaskSel) (h : (Instr.tcommit s1 s2 m).wellFormed = true) :
    decode64 (encGX 0x10 1 0 s1 s2 0 0 m) = .ok (.tcommit s1 s2 m) := by
  simp_all [Instr.wellFormed, decode64, decodeGX, encGX, F64.blank, F64.gx, F64.mask, need]; rfl
theorem decodes_minv (_ : (Instr.minv).wellFormed = true) :
    decode64 (encRegs 6 0x09 0 0 0) = .ok .minv := rfl
theorem decodes_mpop (_ : (Instr.mpop).wellFormed = true) :
    decode64 (encRegs 6 0x0A 0 0 0) = .ok .mpop := rfl
theorem decodes_frjoin (_ : (Instr.frjoin).wellFormed = true) :
    decode64 (encRegs 6 0x19 0 0 0) = .ok .frjoin := rfl
theorem decodes_tdone (_ : (Instr.tdone).wellFormed = true) :
    decode64 (encRegs 5 0x12 0 0 0) = .ok .tdone := rfl

end Sys2Proof
end

