-- ==== Sys2Proof/Laws/PerInstr.lean ====
section
/-! SUPPORT. Every instruction's encoding decodes to it, one lemma per constructor. -/

set_option Elab.async false

namespace Sys2Proof

/-- The fields that the encoder gives a well-formed instruction decode to it; an event has no encoding. -/
def Laws.RoundTrip.Statement (i : Instr) : Prop :=
  (∀ f, encode32 i = some f → i.wellFormed = true → decode32 f = .ok i)
    ∧ (∀ f, encode64 i = some f → i.wellFormed = true → decode64 f = .ok i)

open Laws.RoundTrip

theorem Laws.RoundTrip.add (d : Reg) (a : Reg) (b : Reg) : Statement (.add d a b) :=
  ⟨fun _ hf _ => by cases of_some hf; exact rfl, fun _ h => no_enc h⟩
theorem Laws.RoundTrip.addi (d : Reg) (a : Reg) (i : BitVec 12) : Statement (.addi d a i) :=
  ⟨fun _ hf _ => by cases of_some hf; exact congrArg (fun z => (.ok (.addi d a z) : Except DecodeError Instr)) (immI_encI _ _ _ _ _), fun _ h => no_enc h⟩
theorem Laws.RoundTrip.addiw (d : Reg) (a : Reg) (i : BitVec 12) : Statement (.addiw d a i) :=
  ⟨fun _ hf _ => by cases of_some hf; exact congrArg (fun z => (.ok (.addiw d a z) : Except DecodeError Instr)) (immI_encI _ _ _ _ _), fun _ h => no_enc h⟩
theorem Laws.RoundTrip.addw (d : Reg) (a : Reg) (b : Reg) : Statement (.addw d a b) :=
  ⟨fun _ hf _ => by cases of_some hf; exact rfl, fun _ h => no_enc h⟩
theorem Laws.RoundTrip.and (d : Reg) (a : Reg) (b : Reg) : Statement (.and d a b) :=
  ⟨fun _ hf _ => by cases of_some hf; exact rfl, fun _ h => no_enc h⟩
theorem Laws.RoundTrip.andi (d : Reg) (a : Reg) (i : BitVec 12) : Statement (.andi d a i) :=
  ⟨fun _ hf _ => by cases of_some hf; exact congrArg (fun z => (.ok (.andi d a z) : Except DecodeError Instr)) (immI_encI _ _ _ _ _), fun _ h => no_enc h⟩
theorem Laws.RoundTrip.auipc (d : Reg) (i : BitVec 20) : Statement (.auipc d i) :=
  ⟨fun _ hf _ => by cases of_some hf; exact congrArg (fun z => (.ok (.auipc d z) : Except DecodeError Instr)) (immU_encU _ _ _), fun _ h => no_enc h⟩
theorem Laws.RoundTrip.beq (a : Reg) (b : Reg) (i : BitVec 12) : Statement (.beq a b i) :=
  ⟨fun _ hf _ => by cases of_some hf; exact congrArg (fun z => (.ok (.beq a b z) : Except DecodeError Instr)) (immB_encB _ _ _ _), fun _ h => no_enc h⟩
theorem Laws.RoundTrip.bne (a : Reg) (b : Reg) (i : BitVec 12) : Statement (.bne a b i) :=
  ⟨fun _ hf _ => by cases of_some hf; exact congrArg (fun z => (.ok (.bne a b z) : Except DecodeError Instr)) (immB_encB _ _ _ _), fun _ h => no_enc h⟩
theorem Laws.RoundTrip.blt (a : Reg) (b : Reg) (i : BitVec 12) : Statement (.blt a b i) :=
  ⟨fun _ hf _ => by cases of_some hf; exact congrArg (fun z => (.ok (.blt a b z) : Except DecodeError Instr)) (immB_encB _ _ _ _), fun _ h => no_enc h⟩
theorem Laws.RoundTrip.bge (a : Reg) (b : Reg) (i : BitVec 12) : Statement (.bge a b i) :=
  ⟨fun _ hf _ => by cases of_some hf; exact congrArg (fun z => (.ok (.bge a b z) : Except DecodeError Instr)) (immB_encB _ _ _ _), fun _ h => no_enc h⟩
theorem Laws.RoundTrip.bltu (a : Reg) (b : Reg) (i : BitVec 12) : Statement (.bltu a b i) :=
  ⟨fun _ hf _ => by cases of_some hf; exact congrArg (fun z => (.ok (.bltu a b z) : Except DecodeError Instr)) (immB_encB _ _ _ _), fun _ h => no_enc h⟩
theorem Laws.RoundTrip.bgeu (a : Reg) (b : Reg) (i : BitVec 12) : Statement (.bgeu a b i) :=
  ⟨fun _ hf _ => by cases of_some hf; exact congrArg (fun z => (.ok (.bgeu a b z) : Except DecodeError Instr)) (immB_encB _ _ _ _), fun _ h => no_enc h⟩
theorem Laws.RoundTrip.csrrw (d : Reg) (a : Reg) (c : BitVec 12) : Statement (.csrrw d a c) :=
  ⟨fun _ hf _ => by cases of_some hf; exact congrArg (fun z => (.ok (.csrrw d a z) : Except DecodeError Instr)) (immI_encI _ _ _ _ _), fun _ h => no_enc h⟩
theorem Laws.RoundTrip.csrrs (d : Reg) (a : Reg) (c : BitVec 12) : Statement (.csrrs d a c) :=
  ⟨fun _ hf _ => by cases of_some hf; exact congrArg (fun z => (.ok (.csrrs d a z) : Except DecodeError Instr)) (immI_encI _ _ _ _ _), fun _ h => no_enc h⟩
theorem Laws.RoundTrip.csrrc (d : Reg) (a : Reg) (c : BitVec 12) : Statement (.csrrc d a c) :=
  ⟨fun _ hf _ => by cases of_some hf; exact congrArg (fun z => (.ok (.csrrc d a z) : Except DecodeError Instr)) (immI_encI _ _ _ _ _), fun _ h => no_enc h⟩
theorem Laws.RoundTrip.csrrwi (d : Reg) (u : Reg) (c : BitVec 12) : Statement (.csrrwi d u c) :=
  ⟨fun _ hf _ => by cases of_some hf; exact congrArg (fun z => (.ok (.csrrwi d u z) : Except DecodeError Instr)) (immI_encI _ _ _ _ _), fun _ h => no_enc h⟩
theorem Laws.RoundTrip.csrrsi (d : Reg) (u : Reg) (c : BitVec 12) : Statement (.csrrsi d u c) :=
  ⟨fun _ hf _ => by cases of_some hf; exact congrArg (fun z => (.ok (.csrrsi d u z) : Except DecodeError Instr)) (immI_encI _ _ _ _ _), fun _ h => no_enc h⟩
theorem Laws.RoundTrip.csrrci (d : Reg) (u : Reg) (c : BitVec 12) : Statement (.csrrci d u c) :=
  ⟨fun _ hf _ => by cases of_some hf; exact congrArg (fun z => (.ok (.csrrci d u z) : Except DecodeError Instr)) (immI_encI _ _ _ _ _), fun _ h => no_enc h⟩
theorem Laws.RoundTrip.div (d : Reg) (a : Reg) (b : Reg) : Statement (.div d a b) :=
  ⟨fun _ hf _ => by cases of_some hf; exact rfl, fun _ h => no_enc h⟩
theorem Laws.RoundTrip.divu (d : Reg) (a : Reg) (b : Reg) : Statement (.divu d a b) :=
  ⟨fun _ hf _ => by cases of_some hf; exact rfl, fun _ h => no_enc h⟩
theorem Laws.RoundTrip.divw (d : Reg) (a : Reg) (b : Reg) : Statement (.divw d a b) :=
  ⟨fun _ hf _ => by cases of_some hf; exact rfl, fun _ h => no_enc h⟩
theorem Laws.RoundTrip.divuw (d : Reg) (a : Reg) (b : Reg) : Statement (.divuw d a b) :=
  ⟨fun _ hf _ => by cases of_some hf; exact rfl, fun _ h => no_enc h⟩
theorem Laws.RoundTrip.fence (p : BitVec 4) (s : BitVec 4) : Statement (.fence p s) :=
  ⟨fun _ hf _ => by cases of_some hf; exact decodes_fence p s, fun _ h => no_enc h⟩
theorem Laws.RoundTrip.jal (d : Reg) (i : BitVec 20) : Statement (.jal d i) :=
  ⟨fun _ hf _ => by cases of_some hf; exact congrArg (fun z => (.ok (.jal d z) : Except DecodeError Instr)) (immJ_encJ _ _), fun _ h => no_enc h⟩
theorem Laws.RoundTrip.jalr (d : Reg) (a : Reg) (i : BitVec 12) : Statement (.jalr d a i) :=
  ⟨fun _ hf _ => by cases of_some hf; exact congrArg (fun z => (.ok (.jalr d a z) : Except DecodeError Instr)) (immI_encI _ _ _ _ _), fun _ h => no_enc h⟩
theorem Laws.RoundTrip.lb (d : Reg) (a : Reg) (i : BitVec 12) : Statement (.lb d a i) :=
  ⟨fun _ hf _ => by cases of_some hf; exact congrArg (fun z => (.ok (.lb d a z) : Except DecodeError Instr)) (immI_encI _ _ _ _ _), fun _ h => no_enc h⟩
theorem Laws.RoundTrip.lh (d : Reg) (a : Reg) (i : BitVec 12) : Statement (.lh d a i) :=
  ⟨fun _ hf _ => by cases of_some hf; exact congrArg (fun z => (.ok (.lh d a z) : Except DecodeError Instr)) (immI_encI _ _ _ _ _), fun _ h => no_enc h⟩
theorem Laws.RoundTrip.lw (d : Reg) (a : Reg) (i : BitVec 12) : Statement (.lw d a i) :=
  ⟨fun _ hf _ => by cases of_some hf; exact congrArg (fun z => (.ok (.lw d a z) : Except DecodeError Instr)) (immI_encI _ _ _ _ _), fun _ h => no_enc h⟩
theorem Laws.RoundTrip.ld (d : Reg) (a : Reg) (i : BitVec 12) : Statement (.ld d a i) :=
  ⟨fun _ hf _ => by cases of_some hf; exact congrArg (fun z => (.ok (.ld d a z) : Except DecodeError Instr)) (immI_encI _ _ _ _ _), fun _ h => no_enc h⟩
theorem Laws.RoundTrip.lbu (d : Reg) (a : Reg) (i : BitVec 12) : Statement (.lbu d a i) :=
  ⟨fun _ hf _ => by cases of_some hf; exact congrArg (fun z => (.ok (.lbu d a z) : Except DecodeError Instr)) (immI_encI _ _ _ _ _), fun _ h => no_enc h⟩
theorem Laws.RoundTrip.lhu (d : Reg) (a : Reg) (i : BitVec 12) : Statement (.lhu d a i) :=
  ⟨fun _ hf _ => by cases of_some hf; exact congrArg (fun z => (.ok (.lhu d a z) : Except DecodeError Instr)) (immI_encI _ _ _ _ _), fun _ h => no_enc h⟩
theorem Laws.RoundTrip.lwu (d : Reg) (a : Reg) (i : BitVec 12) : Statement (.lwu d a i) :=
  ⟨fun _ hf _ => by cases of_some hf; exact congrArg (fun z => (.ok (.lwu d a z) : Except DecodeError Instr)) (immI_encI _ _ _ _ _), fun _ h => no_enc h⟩
theorem Laws.RoundTrip.lui (d : Reg) (i : BitVec 20) : Statement (.lui d i) :=
  ⟨fun _ hf _ => by cases of_some hf; exact congrArg (fun z => (.ok (.lui d z) : Except DecodeError Instr)) (immU_encU _ _ _), fun _ h => no_enc h⟩
theorem Laws.RoundTrip.mul (d : Reg) (a : Reg) (b : Reg) : Statement (.mul d a b) :=
  ⟨fun _ hf _ => by cases of_some hf; exact rfl, fun _ h => no_enc h⟩
theorem Laws.RoundTrip.mulh (d : Reg) (a : Reg) (b : Reg) : Statement (.mulh d a b) :=
  ⟨fun _ hf _ => by cases of_some hf; exact rfl, fun _ h => no_enc h⟩
theorem Laws.RoundTrip.mulhsu (d : Reg) (a : Reg) (b : Reg) : Statement (.mulhsu d a b) :=
  ⟨fun _ hf _ => by cases of_some hf; exact rfl, fun _ h => no_enc h⟩
theorem Laws.RoundTrip.mulhu (d : Reg) (a : Reg) (b : Reg) : Statement (.mulhu d a b) :=
  ⟨fun _ hf _ => by cases of_some hf; exact rfl, fun _ h => no_enc h⟩
theorem Laws.RoundTrip.mulw (d : Reg) (a : Reg) (b : Reg) : Statement (.mulw d a b) :=
  ⟨fun _ hf _ => by cases of_some hf; exact rfl, fun _ h => no_enc h⟩
theorem Laws.RoundTrip.or (d : Reg) (a : Reg) (b : Reg) : Statement (.or d a b) :=
  ⟨fun _ hf _ => by cases of_some hf; exact rfl, fun _ h => no_enc h⟩
theorem Laws.RoundTrip.ori (d : Reg) (a : Reg) (i : BitVec 12) : Statement (.ori d a i) :=
  ⟨fun _ hf _ => by cases of_some hf; exact congrArg (fun z => (.ok (.ori d a z) : Except DecodeError Instr)) (immI_encI _ _ _ _ _), fun _ h => no_enc h⟩
theorem Laws.RoundTrip.rem (d : Reg) (a : Reg) (b : Reg) : Statement (.rem d a b) :=
  ⟨fun _ hf _ => by cases of_some hf; exact rfl, fun _ h => no_enc h⟩
theorem Laws.RoundTrip.remu (d : Reg) (a : Reg) (b : Reg) : Statement (.remu d a b) :=
  ⟨fun _ hf _ => by cases of_some hf; exact rfl, fun _ h => no_enc h⟩
theorem Laws.RoundTrip.remw (d : Reg) (a : Reg) (b : Reg) : Statement (.remw d a b) :=
  ⟨fun _ hf _ => by cases of_some hf; exact rfl, fun _ h => no_enc h⟩
theorem Laws.RoundTrip.remuw (d : Reg) (a : Reg) (b : Reg) : Statement (.remuw d a b) :=
  ⟨fun _ hf _ => by cases of_some hf; exact rfl, fun _ h => no_enc h⟩
theorem Laws.RoundTrip.sb (b : Reg) (a : Reg) (i : BitVec 12) : Statement (.sb b a i) :=
  ⟨fun _ hf _ => by cases of_some hf; exact congrArg (fun z => (.ok (.sb b a z) : Except DecodeError Instr)) (immS_encS _ _ _ _), fun _ h => no_enc h⟩
theorem Laws.RoundTrip.sh (b : Reg) (a : Reg) (i : BitVec 12) : Statement (.sh b a i) :=
  ⟨fun _ hf _ => by cases of_some hf; exact congrArg (fun z => (.ok (.sh b a z) : Except DecodeError Instr)) (immS_encS _ _ _ _), fun _ h => no_enc h⟩
theorem Laws.RoundTrip.sw (b : Reg) (a : Reg) (i : BitVec 12) : Statement (.sw b a i) :=
  ⟨fun _ hf _ => by cases of_some hf; exact congrArg (fun z => (.ok (.sw b a z) : Except DecodeError Instr)) (immS_encS _ _ _ _), fun _ h => no_enc h⟩
theorem Laws.RoundTrip.sd (b : Reg) (a : Reg) (i : BitVec 12) : Statement (.sd b a i) :=
  ⟨fun _ hf _ => by cases of_some hf; exact congrArg (fun z => (.ok (.sd b a z) : Except DecodeError Instr)) (immS_encS _ _ _ _), fun _ h => no_enc h⟩
theorem Laws.RoundTrip.sll (d : Reg) (a : Reg) (b : Reg) : Statement (.sll d a b) :=
  ⟨fun _ hf _ => by cases of_some hf; exact rfl, fun _ h => no_enc h⟩
theorem Laws.RoundTrip.srl (d : Reg) (a : Reg) (b : Reg) : Statement (.srl d a b) :=
  ⟨fun _ hf _ => by cases of_some hf; exact rfl, fun _ h => no_enc h⟩
theorem Laws.RoundTrip.sra (d : Reg) (a : Reg) (b : Reg) : Statement (.sra d a b) :=
  ⟨fun _ hf _ => by cases of_some hf; exact rfl, fun _ h => no_enc h⟩
theorem Laws.RoundTrip.slli (d : Reg) (a : Reg) (h : BitVec 6) : Statement (.slli d a h) :=
  ⟨fun _ hf _ => by cases of_some hf; exact decodes_slli d a h, fun _ h => no_enc h⟩
theorem Laws.RoundTrip.srli (d : Reg) (a : Reg) (h : BitVec 6) : Statement (.srli d a h) :=
  ⟨fun _ hf _ => by cases of_some hf; exact decodes_srli d a h, fun _ h => no_enc h⟩
theorem Laws.RoundTrip.srai (d : Reg) (a : Reg) (h : BitVec 6) : Statement (.srai d a h) :=
  ⟨fun _ hf _ => by cases of_some hf; exact decodes_srai d a h, fun _ h => no_enc h⟩
theorem Laws.RoundTrip.sllw (d : Reg) (a : Reg) (b : Reg) : Statement (.sllw d a b) :=
  ⟨fun _ hf _ => by cases of_some hf; exact rfl, fun _ h => no_enc h⟩
theorem Laws.RoundTrip.srlw (d : Reg) (a : Reg) (b : Reg) : Statement (.srlw d a b) :=
  ⟨fun _ hf _ => by cases of_some hf; exact rfl, fun _ h => no_enc h⟩
theorem Laws.RoundTrip.sraw (d : Reg) (a : Reg) (b : Reg) : Statement (.sraw d a b) :=
  ⟨fun _ hf _ => by cases of_some hf; exact rfl, fun _ h => no_enc h⟩
theorem Laws.RoundTrip.slliw (d : Reg) (a : Reg) (h : BitVec 5) : Statement (.slliw d a h) :=
  ⟨fun _ hf _ => by cases of_some hf; exact rfl, fun _ h => no_enc h⟩
theorem Laws.RoundTrip.srliw (d : Reg) (a : Reg) (h : BitVec 5) : Statement (.srliw d a h) :=
  ⟨fun _ hf _ => by cases of_some hf; exact rfl, fun _ h => no_enc h⟩
theorem Laws.RoundTrip.sraiw (d : Reg) (a : Reg) (h : BitVec 5) : Statement (.sraiw d a h) :=
  ⟨fun _ hf _ => by cases of_some hf; exact rfl, fun _ h => no_enc h⟩
theorem Laws.RoundTrip.slt (d : Reg) (a : Reg) (b : Reg) : Statement (.slt d a b) :=
  ⟨fun _ hf _ => by cases of_some hf; exact rfl, fun _ h => no_enc h⟩
theorem Laws.RoundTrip.sltu (d : Reg) (a : Reg) (b : Reg) : Statement (.sltu d a b) :=
  ⟨fun _ hf _ => by cases of_some hf; exact rfl, fun _ h => no_enc h⟩
theorem Laws.RoundTrip.slti (d : Reg) (a : Reg) (i : BitVec 12) : Statement (.slti d a i) :=
  ⟨fun _ hf _ => by cases of_some hf; exact congrArg (fun z => (.ok (.slti d a z) : Except DecodeError Instr)) (immI_encI _ _ _ _ _), fun _ h => no_enc h⟩
theorem Laws.RoundTrip.sltiu (d : Reg) (a : Reg) (i : BitVec 12) : Statement (.sltiu d a i) :=
  ⟨fun _ hf _ => by cases of_some hf; exact congrArg (fun z => (.ok (.sltiu d a z) : Except DecodeError Instr)) (immI_encI _ _ _ _ _), fun _ h => no_enc h⟩
theorem Laws.RoundTrip.sub (d : Reg) (a : Reg) (b : Reg) : Statement (.sub d a b) :=
  ⟨fun _ hf _ => by cases of_some hf; exact rfl, fun _ h => no_enc h⟩
theorem Laws.RoundTrip.subw (d : Reg) (a : Reg) (b : Reg) : Statement (.subw d a b) :=
  ⟨fun _ hf _ => by cases of_some hf; exact rfl, fun _ h => no_enc h⟩
theorem Laws.RoundTrip.xor (d : Reg) (a : Reg) (b : Reg) : Statement (.xor d a b) :=
  ⟨fun _ hf _ => by cases of_some hf; exact rfl, fun _ h => no_enc h⟩
theorem Laws.RoundTrip.xori (d : Reg) (a : Reg) (i : BitVec 12) : Statement (.xori d a i) :=
  ⟨fun _ hf _ => by cases of_some hf; exact congrArg (fun z => (.ok (.xori d a z) : Except DecodeError Instr)) (immI_encI _ _ _ _ _), fun _ h => no_enc h⟩
theorem Laws.RoundTrip.setvl (d : Reg) (s1 : Reg) (ty : BitVec 15) : Statement (.setvl d s1 ty) :=
  ⟨fun _ h => no_enc h, fun _ h hw => by cases of_some h; exact decodes_setvl d s1 ty hw⟩
theorem Laws.RoundTrip.setvlReg (d : Reg) (s1 : Reg) (s2 : Reg) : Statement (.setvlReg d s1 s2) :=
  ⟨fun _ h => no_enc h, fun _ h hw => by cases of_some h; exact decodes_setvlReg d s1 s2 hw⟩
theorem Laws.RoundTrip.mpush (n : Reg) : Statement (.mpush n) :=
  ⟨fun _ h => no_enc h, fun _ h hw => by cases of_some h; exact decodes_mpush n hw⟩
theorem Laws.RoundTrip.bmz (off : BitVec 13) : Statement (.bmz off) :=
  ⟨fun _ h => no_enc h, fun _ h hw => by cases of_some h; exact decodes_bmz off hw⟩
theorem Laws.RoundTrip.bmnz (off : BitVec 13) : Statement (.bmnz off) :=
  ⟨fun _ h => no_enc h, fun _ h hw => by cases of_some h; exact decodes_bmnz off hw⟩
theorem Laws.RoundTrip.jtbl (d : Reg) (s1 : Reg) (s2 : Reg) (s3 : Reg) : Statement (.jtbl d s1 s2 s3) :=
  ⟨fun _ h => no_enc h, fun _ h hw => by cases of_some h; exact decodes_jtbl d s1 s2 s3 hw⟩
theorem Laws.RoundTrip.hback (s1 : Reg) (s2 : Reg) : Statement (.hback s1 s2) :=
  ⟨fun _ h => no_enc h, fun _ h hw => by cases of_some h; exact decodes_hback s1 s2 hw⟩
theorem Laws.RoundTrip.tresume (s1 : Reg) : Statement (.tresume s1) :=
  ⟨fun _ h => no_enc h, fun _ h hw => by cases of_some h; exact decodes_tresume s1 hw⟩
theorem Laws.RoundTrip.tkill (s1 : Reg) : Statement (.tkill s1) :=
  ⟨fun _ h => no_enc h, fun _ h hw => by cases of_some h; exact decodes_tkill s1 hw⟩
theorem Laws.RoundTrip.tlbinv (s1 : Reg) (s2 : Reg) : Statement (.tlbinv s1 s2) :=
  ⟨fun _ h => no_enc h, fun _ h hw => by cases of_some h; exact decodes_tlbinv s1 s2 hw⟩
theorem Laws.RoundTrip.tlbinvCol (s1 : Reg) (s2 : Reg) : Statement (.tlbinvCol s1 s2) :=
  ⟨fun _ h => no_enc h, fun _ h hw => by cases of_some h; exact decodes_tlbinvCol s1 s2 hw⟩
theorem Laws.RoundTrip.phase (aq : Bool) (rl : Bool) (scope : BitVec 3) : Statement (.phase aq rl scope) :=
  ⟨fun _ h => no_enc h, fun _ h hw => by cases of_some h; exact decodes_phase aq rl scope hw⟩
theorem Laws.RoundTrip.arrive (target : BitVec 3) (slot : BitVec 7) (s1 : Reg) (scope : BitVec 3) : Statement (.arrive target slot s1 scope) :=
  ⟨fun _ h => no_enc h, fun _ h hw => by cases of_some h; exact decodes_arrive target slot s1 scope hw⟩
theorem Laws.RoundTrip.waitb (slot : BitVec 7) (scope : BitVec 3) : Statement (.waitb slot scope) :=
  ⟨fun _ h => no_enc h, fun _ h hw => by cases of_some h; exact decodes_waitb slot scope hw⟩
theorem Laws.RoundTrip.testb (d : Reg) (slot : BitVec 7) : Statement (.testb d slot) :=
  ⟨fun _ h => no_enc h, fun _ h hw => by cases of_some h; exact decodes_testb d slot hw⟩
theorem Laws.RoundTrip.enq (s1 : Reg) : Statement (.enq s1) :=
  ⟨fun _ h => no_enc h, fun _ h hw => by cases of_some h; exact decodes_enq s1 hw⟩
theorem Laws.RoundTrip.enqNb (d : Reg) (s1 : Reg) : Statement (.enqNb d s1) :=
  ⟨fun _ h => no_enc h, fun _ h hw => by cases of_some h; exact decodes_enqNb d s1 hw⟩
theorem Laws.RoundTrip.psend (pipe : BitVec 3) (s1 : Reg) : Statement (.psend pipe s1) :=
  ⟨fun _ h => no_enc h, fun _ h hw => by cases of_some h; exact decodes_psend pipe s1 hw⟩
theorem Laws.RoundTrip.precv (d : Reg) (pipe : BitVec 3) (s1 : Reg) : Statement (.precv d pipe s1) :=
  ⟨fun _ h => no_enc h, fun _ h hw => by cases of_some h; exact decodes_precv d pipe s1 hw⟩
theorem Laws.RoundTrip.xpush (s1 : Reg) : Statement (.xpush s1) :=
  ⟨fun _ h => no_enc h, fun _ h hw => by cases of_some h; exact decodes_xpush s1 hw⟩
theorem Laws.RoundTrip.xpushNb (d : Reg) (s1 : Reg) : Statement (.xpushNb d s1) :=
  ⟨fun _ h => no_enc h, fun _ h hw => by cases of_some h; exact decodes_xpushNb d s1 hw⟩
theorem Laws.RoundTrip.mwait (s1 : Reg) (s2 : Reg) : Statement (.mwait s1 s2) :=
  ⟨fun _ h => no_enc h, fun _ h hw => by cases of_some h; exact decodes_mwait s1 s2 hw⟩
theorem Laws.RoundTrip.gendone (s1 : Reg) : Statement (.gendone s1) :=
  ⟨fun _ h => no_enc h, fun _ h hw => by cases of_some h; exact decodes_gendone s1 hw⟩
theorem Laws.RoundTrip.genfail (s1 : Reg) (s2 : Reg) : Statement (.genfail s1 s2) :=
  ⟨fun _ h => no_enc h, fun _ h hw => by cases of_some h; exact decodes_genfail s1 s2 hw⟩
theorem Laws.RoundTrip.fillrst (s1 : Reg) : Statement (.fillrst s1) :=
  ⟨fun _ h => no_enc h, fun _ h hw => by cases of_some h; exact decodes_fillrst s1 hw⟩
theorem Laws.RoundTrip.mma (d : Reg) (s1 : Reg) (s2 : Reg) : Statement (.mma d s1 s2) :=
  ⟨fun _ h => no_enc h, fun _ h hw => by cases of_some h; exact decodes_mma d s1 s2 hw⟩
theorem Laws.RoundTrip.mmr (d : Reg) (tn : BitVec 6) : Statement (.mmr d tn) :=
  ⟨fun _ h => no_enc h, fun _ h hw => by cases of_some h; exact decodes_mmr d tn hw⟩
theorem Laws.RoundTrip.mldb (tn : BitVec 6) (s1 : Reg) : Statement (.mldb tn s1) :=
  ⟨fun _ h => no_enc h, fun _ h hw => by cases of_some h; exact decodes_mldb tn s1 hw⟩
theorem Laws.RoundTrip.mconv (d : Reg) (tn : BitVec 6) (s1 : Reg) : Statement (.mconv d tn s1) :=
  ⟨fun _ h => no_enc h, fun _ h hw => by cases of_some h; exact decodes_mconv d tn s1 hw⟩
theorem Laws.RoundTrip.mstc (vs : Reg) (tn : BitVec 6) (s1 : Reg) (et : BitVec 3) (rm : BitVec 3) : Statement (.mstc vs tn s1 et rm) :=
  ⟨fun _ h => no_enc h, fun _ h hw => by cases of_some h; exact decodes_mstc vs tn s1 et rm hw⟩
theorem Laws.RoundTrip.tdset (tn : BitVec 6) (s1 : Reg) : Statement (.tdset tn s1) :=
  ⟨fun _ h => no_enc h, fun _ h hw => by cases of_some h; exact decodes_tdset tn s1 hw⟩
theorem Laws.RoundTrip.tdget (tn : BitVec 6) (s1 : Reg) : Statement (.tdget tn s1) :=
  ⟨fun _ h => no_enc h, fun _ h hw => by cases of_some h; exact decodes_tdget tn s1 hw⟩
theorem Laws.RoundTrip.vbox (d : Reg) (s1 : Reg) (s2 : Reg) (m : MaskSel) : Statement (.vbox d s1 s2 m) :=
  ⟨fun _ h => no_enc h, fun _ h hw => by cases of_some h; exact decodes_vbox d s1 s2 m hw⟩
theorem Laws.RoundTrip.vtri (d : Reg) (s1 : Reg) (s2 : Reg) (m : MaskSel) : Statement (.vtri d s1 s2 m) :=
  ⟨fun _ h => no_enc h, fun _ h hw => by cases of_some h; exact decodes_vtri d s1 s2 m hw⟩
theorem Laws.RoundTrip.tex (d : Reg) (s1 : Reg) (s2 : Reg) (n : BitVec 8) (m : MaskSel) : Statement (.tex d s1 s2 n m) :=
  ⟨fun _ h => no_enc h, fun _ h hw => by cases of_some h; exact decodes_tex d s1 s2 n m hw⟩
theorem Laws.RoundTrip.texGrad (d : Reg) (s1 : Reg) (s2 : Reg) (n : BitVec 8) (m : MaskSel) : Statement (.texGrad d s1 s2 n m) :=
  ⟨fun _ h => no_enc h, fun _ h hw => by cases of_some h; exact decodes_texGrad d s1 s2 n m hw⟩
theorem Laws.RoundTrip.texLod (d : Reg) (s1 : Reg) (s2 : Reg) (n : BitVec 8) (m : MaskSel) : Statement (.texLod d s1 s2 n m) :=
  ⟨fun _ h => no_enc h, fun _ h hw => by cases of_some h; exact decodes_texLod d s1 s2 n m hw⟩
theorem Laws.RoundTrip.txld (d : Reg) (s1 : Reg) (s2 : Reg) (n : BitVec 8) (m : MaskSel) : Statement (.txld d s1 s2 n m) :=
  ⟨fun _ h => no_enc h, fun _ h hw => by cases of_some h; exact decodes_txld d s1 s2 n m hw⟩
theorem Laws.RoundTrip.tcommit (s1 : Reg) (s2 : Reg) (m : MaskSel) : Statement (.tcommit s1 s2 m) :=
  ⟨fun _ h => no_enc h, fun _ h hw => by cases of_some h; exact decodes_tcommit s1 s2 m hw⟩
theorem Laws.RoundTrip.vld (o : MemOp) : Statement (.vld o) :=
  ⟨fun _ h => no_enc h, fun _ h hw => by
    cases of_some h
    have e := MemOp.decodes o 0x00 1 false hw
    exact congrArg (· >>= fun x => pure (Instr.vld x)) e⟩
theorem Laws.RoundTrip.vlds (o : MemOp) : Statement (.vlds o) :=
  ⟨fun _ h => no_enc h, fun _ h hw => by
    cases of_some h
    have e := MemOp.decodes o 0x01 1 true hw
    exact congrArg (· >>= fun x => pure (Instr.vlds x)) e⟩
theorem Laws.RoundTrip.vldx (o : MemOp) : Statement (.vldx o) :=
  ⟨fun _ h => no_enc h, fun _ h hw => by
    cases of_some h
    have e := MemOp.decodes o 0x02 0 true hw
    exact congrArg (· >>= fun x => pure (Instr.vldx x)) e⟩
theorem Laws.RoundTrip.vldCh (o : MemOp) : Statement (.vldCh o) :=
  ⟨fun _ h => no_enc h, fun _ h hw => by
    cases of_some h
    have e := MemOp.decodes o 0x03 1 false (both_left hw)
    have k : decide (o.sel = 1) = true := both_right hw
    have k : decide ((o.enc 0x03 1).sel = 1) = true := (congrArg (fun z => decide (z = 1)) (immVM_sel false false o.n o.sel)).trans k
    exact after_need k (congrArg (· >>= fun x => pure (Instr.vldCh x)) e)⟩
theorem Laws.RoundTrip.vst (o : MemOp) : Statement (.vst o) :=
  ⟨fun _ h => no_enc h, fun _ h hw => by
    cases of_some h
    have e := MemOp.decodes o 0x08 1 false hw
    exact congrArg (· >>= fun x => pure (Instr.vst x)) e⟩
theorem Laws.RoundTrip.vsts (o : MemOp) : Statement (.vsts o) :=
  ⟨fun _ h => no_enc h, fun _ h hw => by
    cases of_some h
    have e := MemOp.decodes o 0x09 1 true hw
    exact congrArg (· >>= fun x => pure (Instr.vsts x)) e⟩
theorem Laws.RoundTrip.vstx (o : MemOp) : Statement (.vstx o) :=
  ⟨fun _ h => no_enc h, fun _ h hw => by
    cases of_some h
    have e := MemOp.decodes o 0x0A 0 true hw
    exact congrArg (· >>= fun x => pure (Instr.vstx x)) e⟩
theorem Laws.RoundTrip.vspill (o : SpillOp) : Statement (.vspill o) :=
  ⟨fun _ h => no_enc h, fun _ h hw => by
    cases of_some h
    have e := SpillOp.decodes o 0x10 hw
    exact congrArg (· >>= fun x => pure (Instr.vspill x)) e⟩
theorem Laws.RoundTrip.vfill (o : SpillOp) : Statement (.vfill o) :=
  ⟨fun _ h => no_enc h, fun _ h hw => by
    cases of_some h
    have e := SpillOp.decodes o 0x11 hw
    exact congrArg (· >>= fun x => pure (Instr.vfill x)) e⟩
theorem Laws.RoundTrip.amoaddW (o : AmoOp) : Statement (.amoaddW o) :=
  ⟨fun _ h => no_enc h, fun _ h hw => by
    cases of_some h
    have e := AmoOp.decodes o 0x40 false hw
    exact congrArg (· >>= fun x => pure (Instr.amoaddW x)) e⟩
theorem Laws.RoundTrip.amoandW (o : AmoOp) : Statement (.amoandW o) :=
  ⟨fun _ h => no_enc h, fun _ h hw => by
    cases of_some h
    have e := AmoOp.decodes o 0x41 false hw
    exact congrArg (· >>= fun x => pure (Instr.amoandW x)) e⟩
theorem Laws.RoundTrip.amoorW (o : AmoOp) : Statement (.amoorW o) :=
  ⟨fun _ h => no_enc h, fun _ h hw => by
    cases of_some h
    have e := AmoOp.decodes o 0x42 false hw
    exact congrArg (· >>= fun x => pure (Instr.amoorW x)) e⟩
theorem Laws.RoundTrip.amoxorW (o : AmoOp) : Statement (.amoxorW o) :=
  ⟨fun _ h => no_enc h, fun _ h hw => by
    cases of_some h
    have e := AmoOp.decodes o 0x43 false hw
    exact congrArg (· >>= fun x => pure (Instr.amoxorW x)) e⟩
theorem Laws.RoundTrip.amoswapW (o : AmoOp) : Statement (.amoswapW o) :=
  ⟨fun _ h => no_enc h, fun _ h hw => by
    cases of_some h
    have e := AmoOp.decodes o 0x44 false hw
    exact congrArg (· >>= fun x => pure (Instr.amoswapW x)) e⟩
theorem Laws.RoundTrip.amominW (o : AmoOp) : Statement (.amominW o) :=
  ⟨fun _ h => no_enc h, fun _ h hw => by
    cases of_some h
    have e := AmoOp.decodes o 0x45 false hw
    exact congrArg (· >>= fun x => pure (Instr.amominW x)) e⟩
theorem Laws.RoundTrip.amomaxW (o : AmoOp) : Statement (.amomaxW o) :=
  ⟨fun _ h => no_enc h, fun _ h hw => by
    cases of_some h
    have e := AmoOp.decodes o 0x46 false hw
    exact congrArg (· >>= fun x => pure (Instr.amomaxW x)) e⟩
theorem Laws.RoundTrip.amominuW (o : AmoOp) : Statement (.amominuW o) :=
  ⟨fun _ h => no_enc h, fun _ h hw => by
    cases of_some h
    have e := AmoOp.decodes o 0x47 false hw
    exact congrArg (· >>= fun x => pure (Instr.amominuW x)) e⟩
theorem Laws.RoundTrip.amomaxuW (o : AmoOp) : Statement (.amomaxuW o) :=
  ⟨fun _ h => no_enc h, fun _ h hw => by
    cases of_some h
    have e := AmoOp.decodes o 0x48 false hw
    exact congrArg (· >>= fun x => pure (Instr.amomaxuW x)) e⟩
theorem Laws.RoundTrip.amocasW (o : AmoOp) : Statement (.amocasW o) :=
  ⟨fun _ h => no_enc h, fun _ h hw => by
    cases of_some h
    have e := AmoOp.decodes o 0x49 true hw
    exact congrArg (· >>= fun x => pure (Instr.amocasW x)) e⟩
theorem Laws.RoundTrip.amoaddD (o : AmoOp) : Statement (.amoaddD o) :=
  ⟨fun _ h => no_enc h, fun _ h hw => by
    cases of_some h
    have e := AmoOp.decodes o 0x50 false hw
    exact congrArg (· >>= fun x => pure (Instr.amoaddD x)) e⟩
theorem Laws.RoundTrip.amoandD (o : AmoOp) : Statement (.amoandD o) :=
  ⟨fun _ h => no_enc h, fun _ h hw => by
    cases of_some h
    have e := AmoOp.decodes o 0x51 false hw
    exact congrArg (· >>= fun x => pure (Instr.amoandD x)) e⟩
theorem Laws.RoundTrip.amoorD (o : AmoOp) : Statement (.amoorD o) :=
  ⟨fun _ h => no_enc h, fun _ h hw => by
    cases of_some h
    have e := AmoOp.decodes o 0x52 false hw
    exact congrArg (· >>= fun x => pure (Instr.amoorD x)) e⟩
theorem Laws.RoundTrip.amoxorD (o : AmoOp) : Statement (.amoxorD o) :=
  ⟨fun _ h => no_enc h, fun _ h hw => by
    cases of_some h
    have e := AmoOp.decodes o 0x53 false hw
    exact congrArg (· >>= fun x => pure (Instr.amoxorD x)) e⟩
theorem Laws.RoundTrip.amoswapD (o : AmoOp) : Statement (.amoswapD o) :=
  ⟨fun _ h => no_enc h, fun _ h hw => by
    cases of_some h
    have e := AmoOp.decodes o 0x54 false hw
    exact congrArg (· >>= fun x => pure (Instr.amoswapD x)) e⟩
theorem Laws.RoundTrip.amominD (o : AmoOp) : Statement (.amominD o) :=
  ⟨fun _ h => no_enc h, fun _ h hw => by
    cases of_some h
    have e := AmoOp.decodes o 0x55 false hw
    exact congrArg (· >>= fun x => pure (Instr.amominD x)) e⟩
theorem Laws.RoundTrip.amomaxD (o : AmoOp) : Statement (.amomaxD o) :=
  ⟨fun _ h => no_enc h, fun _ h hw => by
    cases of_some h
    have e := AmoOp.decodes o 0x56 false hw
    exact congrArg (· >>= fun x => pure (Instr.amomaxD x)) e⟩
theorem Laws.RoundTrip.amominuD (o : AmoOp) : Statement (.amominuD o) :=
  ⟨fun _ h => no_enc h, fun _ h hw => by
    cases of_some h
    have e := AmoOp.decodes o 0x57 false hw
    exact congrArg (· >>= fun x => pure (Instr.amominuD x)) e⟩
theorem Laws.RoundTrip.amomaxuD (o : AmoOp) : Statement (.amomaxuD o) :=
  ⟨fun _ h => no_enc h, fun _ h hw => by
    cases of_some h
    have e := AmoOp.decodes o 0x58 false hw
    exact congrArg (· >>= fun x => pure (Instr.amomaxuD x)) e⟩
theorem Laws.RoundTrip.amocasD (o : AmoOp) : Statement (.amocasD o) :=
  ⟨fun _ h => no_enc h, fun _ h hw => by
    cases of_some h
    have e := AmoOp.decodes o 0x59 true hw
    exact congrArg (· >>= fun x => pure (Instr.amocasD x)) e⟩
theorem Laws.RoundTrip.vamoaddW (o : VAmoOp) : Statement (.vamoaddW o) :=
  ⟨fun _ h => no_enc h, fun _ h hw => by
    cases of_some h
    have e := VAmoOp.decodes o 0x20 hw
    exact congrArg (· >>= fun x => pure (Instr.vamoaddW x)) e⟩
theorem Laws.RoundTrip.vamoandW (o : VAmoOp) : Statement (.vamoandW o) :=
  ⟨fun _ h => no_enc h, fun _ h hw => by
    cases of_some h
    have e := VAmoOp.decodes o 0x21 hw
    exact congrArg (· >>= fun x => pure (Instr.vamoandW x)) e⟩
theorem Laws.RoundTrip.vamoorW (o : VAmoOp) : Statement (.vamoorW o) :=
  ⟨fun _ h => no_enc h, fun _ h hw => by
    cases of_some h
    have e := VAmoOp.decodes o 0x22 hw
    exact congrArg (· >>= fun x => pure (Instr.vamoorW x)) e⟩
theorem Laws.RoundTrip.vamoxorW (o : VAmoOp) : Statement (.vamoxorW o) :=
  ⟨fun _ h => no_enc h, fun _ h hw => by
    cases of_some h
    have e := VAmoOp.decodes o 0x23 hw
    exact congrArg (· >>= fun x => pure (Instr.vamoxorW x)) e⟩
theorem Laws.RoundTrip.vamoswapW (o : VAmoOp) : Statement (.vamoswapW o) :=
  ⟨fun _ h => no_enc h, fun _ h hw => by
    cases of_some h
    have e := VAmoOp.decodes o 0x24 hw
    exact congrArg (· >>= fun x => pure (Instr.vamoswapW x)) e⟩
theorem Laws.RoundTrip.vamominW (o : VAmoOp) : Statement (.vamominW o) :=
  ⟨fun _ h => no_enc h, fun _ h hw => by
    cases of_some h
    have e := VAmoOp.decodes o 0x25 hw
    exact congrArg (· >>= fun x => pure (Instr.vamominW x)) e⟩
theorem Laws.RoundTrip.vamomaxW (o : VAmoOp) : Statement (.vamomaxW o) :=
  ⟨fun _ h => no_enc h, fun _ h hw => by
    cases of_some h
    have e := VAmoOp.decodes o 0x26 hw
    exact congrArg (· >>= fun x => pure (Instr.vamomaxW x)) e⟩
theorem Laws.RoundTrip.vamominuW (o : VAmoOp) : Statement (.vamominuW o) :=
  ⟨fun _ h => no_enc h, fun _ h hw => by
    cases of_some h
    have e := VAmoOp.decodes o 0x27 hw
    exact congrArg (· >>= fun x => pure (Instr.vamominuW x)) e⟩
theorem Laws.RoundTrip.vamomaxuW (o : VAmoOp) : Statement (.vamomaxuW o) :=
  ⟨fun _ h => no_enc h, fun _ h hw => by
    cases of_some h
    have e := VAmoOp.decodes o 0x28 hw
    exact congrArg (· >>= fun x => pure (Instr.vamomaxuW x)) e⟩
theorem Laws.RoundTrip.vamocasW (o : VAmoOp) : Statement (.vamocasW o) :=
  ⟨fun _ h => no_enc h, fun _ h hw => by
    cases of_some h
    have e := VAmoOp.decodes o 0x29 hw
    exact congrArg (· >>= fun x => pure (Instr.vamocasW x)) e⟩
theorem Laws.RoundTrip.vamoaddD (o : VAmoOp) : Statement (.vamoaddD o) :=
  ⟨fun _ h => no_enc h, fun _ h hw => by
    cases of_some h
    have e := VAmoOp.decodes o 0x30 hw
    exact congrArg (· >>= fun x => pure (Instr.vamoaddD x)) e⟩
theorem Laws.RoundTrip.vamoandD (o : VAmoOp) : Statement (.vamoandD o) :=
  ⟨fun _ h => no_enc h, fun _ h hw => by
    cases of_some h
    have e := VAmoOp.decodes o 0x31 hw
    exact congrArg (· >>= fun x => pure (Instr.vamoandD x)) e⟩
theorem Laws.RoundTrip.vamoorD (o : VAmoOp) : Statement (.vamoorD o) :=
  ⟨fun _ h => no_enc h, fun _ h hw => by
    cases of_some h
    have e := VAmoOp.decodes o 0x32 hw
    exact congrArg (· >>= fun x => pure (Instr.vamoorD x)) e⟩
theorem Laws.RoundTrip.vamoxorD (o : VAmoOp) : Statement (.vamoxorD o) :=
  ⟨fun _ h => no_enc h, fun _ h hw => by
    cases of_some h
    have e := VAmoOp.decodes o 0x33 hw
    exact congrArg (· >>= fun x => pure (Instr.vamoxorD x)) e⟩
theorem Laws.RoundTrip.vamoswapD (o : VAmoOp) : Statement (.vamoswapD o) :=
  ⟨fun _ h => no_enc h, fun _ h hw => by
    cases of_some h
    have e := VAmoOp.decodes o 0x34 hw
    exact congrArg (· >>= fun x => pure (Instr.vamoswapD x)) e⟩
theorem Laws.RoundTrip.vamominD (o : VAmoOp) : Statement (.vamominD o) :=
  ⟨fun _ h => no_enc h, fun _ h hw => by
    cases of_some h
    have e := VAmoOp.decodes o 0x35 hw
    exact congrArg (· >>= fun x => pure (Instr.vamominD x)) e⟩
theorem Laws.RoundTrip.vamomaxD (o : VAmoOp) : Statement (.vamomaxD o) :=
  ⟨fun _ h => no_enc h, fun _ h hw => by
    cases of_some h
    have e := VAmoOp.decodes o 0x36 hw
    exact congrArg (· >>= fun x => pure (Instr.vamomaxD x)) e⟩
theorem Laws.RoundTrip.vamominuD (o : VAmoOp) : Statement (.vamominuD o) :=
  ⟨fun _ h => no_enc h, fun _ h hw => by
    cases of_some h
    have e := VAmoOp.decodes o 0x37 hw
    exact congrArg (· >>= fun x => pure (Instr.vamominuD x)) e⟩
theorem Laws.RoundTrip.vamomaxuD (o : VAmoOp) : Statement (.vamomaxuD o) :=
  ⟨fun _ h => no_enc h, fun _ h hw => by
    cases of_some h
    have e := VAmoOp.decodes o 0x38 hw
    exact congrArg (· >>= fun x => pure (Instr.vamomaxuD x)) e⟩
theorem Laws.RoundTrip.vamocasD (o : VAmoOp) : Statement (.vamocasD o) :=
  ⟨fun _ h => no_enc h, fun _ h hw => by
    cases of_some h
    have e := VAmoOp.decodes o 0x39 hw
    exact congrArg (· >>= fun x => pure (Instr.vamocasD x)) e⟩
theorem Laws.RoundTrip.vadd (o : VecOp) : Statement (.vadd o) :=
  ⟨fun _ h => no_enc h, fun _ h hw => by
    cases of_some h
    have e := VecOp.decodes o 0x00 true true true hw
    obtain ⟨d, s1, b, et, m⟩ := o
    cases b <;> exact congrArg (· >>= fun x => pure (Instr.vadd x)) e⟩
theorem Laws.RoundTrip.vsub (o : VecOp) : Statement (.vsub o) :=
  ⟨fun _ h => no_enc h, fun _ h hw => by
    cases of_some h
    have e := VecOp.decodes o 0x01 true true true hw
    obtain ⟨d, s1, b, et, m⟩ := o
    cases b <;> exact congrArg (· >>= fun x => pure (Instr.vsub x)) e⟩
theorem Laws.RoundTrip.vmul (o : VecOp) : Statement (.vmul o) :=
  ⟨fun _ h => no_enc h, fun _ h hw => by
    cases of_some h
    have e := VecOp.decodes o 0x02 true true true hw
    obtain ⟨d, s1, b, et, m⟩ := o
    cases b <;> exact congrArg (· >>= fun x => pure (Instr.vmul x)) e⟩
theorem Laws.RoundTrip.vmulh (o : VecOp) : Statement (.vmulh o) :=
  ⟨fun _ h => no_enc h, fun _ h hw => by
    cases of_some h
    have e := VecOp.decodes o 0x03 true true true hw
    obtain ⟨d, s1, b, et, m⟩ := o
    cases b <;> exact congrArg (· >>= fun x => pure (Instr.vmulh x)) e⟩
theorem Laws.RoundTrip.vmulhu (o : VecOp) : Statement (.vmulhu o) :=
  ⟨fun _ h => no_enc h, fun _ h hw => by
    cases of_some h
    have e := VecOp.decodes o 0x04 true true true hw
    obtain ⟨d, s1, b, et, m⟩ := o
    cases b <;> exact congrArg (· >>= fun x => pure (Instr.vmulhu x)) e⟩
theorem Laws.RoundTrip.vdiv (o : VecOp) : Statement (.vdiv o) :=
  ⟨fun _ h => no_enc h, fun _ h hw => by
    cases of_some h
    have e := VecOp.decodes o 0x05 true true true hw
    obtain ⟨d, s1, b, et, m⟩ := o
    cases b <;> exact congrArg (· >>= fun x => pure (Instr.vdiv x)) e⟩
theorem Laws.RoundTrip.vdivu (o : VecOp) : Statement (.vdivu o) :=
  ⟨fun _ h => no_enc h, fun _ h hw => by
    cases of_some h
    have e := VecOp.decodes o 0x06 true true true hw
    obtain ⟨d, s1, b, et, m⟩ := o
    cases b <;> exact congrArg (· >>= fun x => pure (Instr.vdivu x)) e⟩
theorem Laws.RoundTrip.vrem (o : VecOp) : Statement (.vrem o) :=
  ⟨fun _ h => no_enc h, fun _ h hw => by
    cases of_some h
    have e := VecOp.decodes o 0x07 true true true hw
    obtain ⟨d, s1, b, et, m⟩ := o
    cases b <;> exact congrArg (· >>= fun x => pure (Instr.vrem x)) e⟩
theorem Laws.RoundTrip.vremu (o : VecOp) : Statement (.vremu o) :=
  ⟨fun _ h => no_enc h, fun _ h hw => by
    cases of_some h
    have e := VecOp.decodes o 0x08 true true true hw
    obtain ⟨d, s1, b, et, m⟩ := o
    cases b <;> exact congrArg (· >>= fun x => pure (Instr.vremu x)) e⟩
theorem Laws.RoundTrip.vmin (o : VecOp) : Statement (.vmin o) :=
  ⟨fun _ h => no_enc h, fun _ h hw => by
    cases of_some h
    have e := VecOp.decodes o 0x09 true true true hw
    obtain ⟨d, s1, b, et, m⟩ := o
    cases b <;> exact congrArg (· >>= fun x => pure (Instr.vmin x)) e⟩
theorem Laws.RoundTrip.vminu (o : VecOp) : Statement (.vminu o) :=
  ⟨fun _ h => no_enc h, fun _ h hw => by
    cases of_some h
    have e := VecOp.decodes o 0x0A true true true hw
    obtain ⟨d, s1, b, et, m⟩ := o
    cases b <;> exact congrArg (· >>= fun x => pure (Instr.vminu x)) e⟩
theorem Laws.RoundTrip.vmax (o : VecOp) : Statement (.vmax o) :=
  ⟨fun _ h => no_enc h, fun _ h hw => by
    cases of_some h
    have e := VecOp.decodes o 0x0B true true true hw
    obtain ⟨d, s1, b, et, m⟩ := o
    cases b <;> exact congrArg (· >>= fun x => pure (Instr.vmax x)) e⟩
theorem Laws.RoundTrip.vmaxu (o : VecOp) : Statement (.vmaxu o) :=
  ⟨fun _ h => no_enc h, fun _ h hw => by
    cases of_some h
    have e := VecOp.decodes o 0x0C true true true hw
    obtain ⟨d, s1, b, et, m⟩ := o
    cases b <;> exact congrArg (· >>= fun x => pure (Instr.vmaxu x)) e⟩
theorem Laws.RoundTrip.vand (o : VecOp) : Statement (.vand o) :=
  ⟨fun _ h => no_enc h, fun _ h hw => by
    cases of_some h
    have e := VecOp.decodes o 0x0D true true true hw
    obtain ⟨d, s1, b, et, m⟩ := o
    cases b <;> exact congrArg (· >>= fun x => pure (Instr.vand x)) e⟩
theorem Laws.RoundTrip.vor (o : VecOp) : Statement (.vor o) :=
  ⟨fun _ h => no_enc h, fun _ h hw => by
    cases of_some h
    have e := VecOp.decodes o 0x0E true true true hw
    obtain ⟨d, s1, b, et, m⟩ := o
    cases b <;> exact congrArg (· >>= fun x => pure (Instr.vor x)) e⟩
theorem Laws.RoundTrip.vxor (o : VecOp) : Statement (.vxor o) :=
  ⟨fun _ h => no_enc h, fun _ h hw => by
    cases of_some h
    have e := VecOp.decodes o 0x0F true true true hw
    obtain ⟨d, s1, b, et, m⟩ := o
    cases b <;> exact congrArg (· >>= fun x => pure (Instr.vxor x)) e⟩
theorem Laws.RoundTrip.vsll (o : VecOp) : Statement (.vsll o) :=
  ⟨fun _ h => no_enc h, fun _ h hw => by
    cases of_some h
    have e := VecOp.decodes o 0x10 true true true hw
    obtain ⟨d, s1, b, et, m⟩ := o
    cases b <;> exact congrArg (· >>= fun x => pure (Instr.vsll x)) e⟩
theorem Laws.RoundTrip.vsrl (o : VecOp) : Statement (.vsrl o) :=
  ⟨fun _ h => no_enc h, fun _ h hw => by
    cases of_some h
    have e := VecOp.decodes o 0x11 true true true hw
    obtain ⟨d, s1, b, et, m⟩ := o
    cases b <;> exact congrArg (· >>= fun x => pure (Instr.vsrl x)) e⟩
theorem Laws.RoundTrip.vsra (o : VecOp) : Statement (.vsra o) :=
  ⟨fun _ h => no_enc h, fun _ h hw => by
    cases of_some h
    have e := VecOp.decodes o 0x12 true true true hw
    obtain ⟨d, s1, b, et, m⟩ := o
    cases b <;> exact congrArg (· >>= fun x => pure (Instr.vsra x)) e⟩
theorem Laws.RoundTrip.vsadd (o : VecOp) : Statement (.vsadd o) :=
  ⟨fun _ h => no_enc h, fun _ h hw => by
    cases of_some h
    have e := VecOp.decodes o 0x13 true true true hw
    obtain ⟨d, s1, b, et, m⟩ := o
    cases b <;> exact congrArg (· >>= fun x => pure (Instr.vsadd x)) e⟩
theorem Laws.RoundTrip.vsaddu (o : VecOp) : Statement (.vsaddu o) :=
  ⟨fun _ h => no_enc h, fun _ h hw => by
    cases of_some h
    have e := VecOp.decodes o 0x14 true true true hw
    obtain ⟨d, s1, b, et, m⟩ := o
    cases b <;> exact congrArg (· >>= fun x => pure (Instr.vsaddu x)) e⟩
theorem Laws.RoundTrip.vssub (o : VecOp) : Statement (.vssub o) :=
  ⟨fun _ h => no_enc h, fun _ h hw => by
    cases of_some h
    have e := VecOp.decodes o 0x15 true true true hw
    obtain ⟨d, s1, b, et, m⟩ := o
    cases b <;> exact congrArg (· >>= fun x => pure (Instr.vssub x)) e⟩
theorem Laws.RoundTrip.vssubu (o : VecOp) : Statement (.vssubu o) :=
  ⟨fun _ h => no_enc h, fun _ h hw => by
    cases of_some h
    have e := VecOp.decodes o 0x16 true true true hw
    obtain ⟨d, s1, b, et, m⟩ := o
    cases b <;> exact congrArg (· >>= fun x => pure (Instr.vssubu x)) e⟩
theorem Laws.RoundTrip.vmv (o : VecOp) : Statement (.vmv o) :=
  ⟨fun _ h => no_enc h, fun _ h hw => by
    cases of_some h
    have e := VecOp.decodes o 0x17 true true true (both_left hw)
    have k : decide (o.s1 = 0) = true := both_right hw
    obtain ⟨d, s1, b, et, m⟩ := o
    cases b <;> exact after_need k (congrArg (· >>= fun x => pure (Instr.vmv x)) e)⟩
theorem Laws.RoundTrip.vcmpEq (o : VecOp) : Statement (.vcmpEq o) :=
  ⟨fun _ h => no_enc h, fun _ h hw => by
    cases of_some h
    have e := VecOp.decodes o 0x18 true true true (both_left hw)
    have k : kOk o.d = true := both_right hw
    obtain ⟨d, s1, b, et, m⟩ := o
    cases b <;> exact after_need k (congrArg (· >>= fun x => pure (Instr.vcmpEq x)) e)⟩
theorem Laws.RoundTrip.vcmpNe (o : VecOp) : Statement (.vcmpNe o) :=
  ⟨fun _ h => no_enc h, fun _ h hw => by
    cases of_some h
    have e := VecOp.decodes o 0x19 true true true (both_left hw)
    have k : kOk o.d = true := both_right hw
    obtain ⟨d, s1, b, et, m⟩ := o
    cases b <;> exact after_need k (congrArg (· >>= fun x => pure (Instr.vcmpNe x)) e)⟩
theorem Laws.RoundTrip.vcmpLt (o : VecOp) : Statement (.vcmpLt o) :=
  ⟨fun _ h => no_enc h, fun _ h hw => by
    cases of_some h
    have e := VecOp.decodes o 0x1A true true true (both_left hw)
    have k : kOk o.d = true := both_right hw
    obtain ⟨d, s1, b, et, m⟩ := o
    cases b <;> exact after_need k (congrArg (· >>= fun x => pure (Instr.vcmpLt x)) e)⟩
theorem Laws.RoundTrip.vcmpLe (o : VecOp) : Statement (.vcmpLe o) :=
  ⟨fun _ h => no_enc h, fun _ h hw => by
    cases of_some h
    have e := VecOp.decodes o 0x1B true true true (both_left hw)
    have k : kOk o.d = true := both_right hw
    obtain ⟨d, s1, b, et, m⟩ := o
    cases b <;> exact after_need k (congrArg (· >>= fun x => pure (Instr.vcmpLe x)) e)⟩
theorem Laws.RoundTrip.vcmpGt (o : VecOp) : Statement (.vcmpGt o) :=
  ⟨fun _ h => no_enc h, fun _ h hw => by
    cases of_some h
    have e := VecOp.decodes o 0x1C true true true (both_left hw)
    have k : kOk o.d = true := both_right hw
    obtain ⟨d, s1, b, et, m⟩ := o
    cases b <;> exact after_need k (congrArg (· >>= fun x => pure (Instr.vcmpGt x)) e)⟩
theorem Laws.RoundTrip.vcmpGe (o : VecOp) : Statement (.vcmpGe o) :=
  ⟨fun _ h => no_enc h, fun _ h hw => by
    cases of_some h
    have e := VecOp.decodes o 0x1D true true true (both_left hw)
    have k : kOk o.d = true := both_right hw
    obtain ⟨d, s1, b, et, m⟩ := o
    cases b <;> exact after_need k (congrArg (· >>= fun x => pure (Instr.vcmpGe x)) e)⟩
theorem Laws.RoundTrip.vcmpLtu (o : VecOp) : Statement (.vcmpLtu o) :=
  ⟨fun _ h => no_enc h, fun _ h hw => by
    cases of_some h
    have e := VecOp.decodes o 0x1E true true true (both_left hw)
    have k : kOk o.d = true := both_right hw
    obtain ⟨d, s1, b, et, m⟩ := o
    cases b <;> exact after_need k (congrArg (· >>= fun x => pure (Instr.vcmpLtu x)) e)⟩
theorem Laws.RoundTrip.vcmpLeu (o : VecOp) : Statement (.vcmpLeu o) :=
  ⟨fun _ h => no_enc h, fun _ h hw => by
    cases of_some h
    have e := VecOp.decodes o 0x1F true true true (both_left hw)
    have k : kOk o.d = true := both_right hw
    obtain ⟨d, s1, b, et, m⟩ := o
    cases b <;> exact after_need k (congrArg (· >>= fun x => pure (Instr.vcmpLeu x)) e)⟩
theorem Laws.RoundTrip.vcmpGtu (o : VecOp) : Statement (.vcmpGtu o) :=
  ⟨fun _ h => no_enc h, fun _ h hw => by
    cases of_some h
    have e := VecOp.decodes o 0x20 true true true (both_left hw)
    have k : kOk o.d = true := both_right hw
    obtain ⟨d, s1, b, et, m⟩ := o
    cases b <;> exact after_need k (congrArg (· >>= fun x => pure (Instr.vcmpGtu x)) e)⟩
theorem Laws.RoundTrip.vcmpGeu (o : VecOp) : Statement (.vcmpGeu o) :=
  ⟨fun _ h => no_enc h, fun _ h hw => by
    cases of_some h
    have e := VecOp.decodes o 0x21 true true true (both_left hw)
    have k : kOk o.d = true := both_right hw
    obtain ⟨d, s1, b, et, m⟩ := o
    cases b <;> exact after_need k (congrArg (· >>= fun x => pure (Instr.vcmpGeu x)) e)⟩
theorem Laws.RoundTrip.vperm (o : VecOp) : Statement (.vperm o) :=
  ⟨fun _ h => no_enc h, fun _ h hw => by
    cases of_some h
    have e := VecOp.decodes o 0x40 true false false hw
    obtain ⟨d, s1, b, et, m⟩ := o
    cases b <;> exact congrArg (· >>= fun x => pure (Instr.vperm x)) e⟩
theorem Laws.RoundTrip.vslideUp (o : VecOp) : Statement (.vslideUp o) :=
  ⟨fun _ h => no_enc h, fun _ h hw => by
    cases of_some h
    have e := VecOp.decodes o 0x41 false true true hw
    obtain ⟨d, s1, b, et, m⟩ := o
    cases b <;> exact congrArg (· >>= fun x => pure (Instr.vslideUp x)) e⟩
theorem Laws.RoundTrip.vslideDn (o : VecOp) : Statement (.vslideDn o) :=
  ⟨fun _ h => no_enc h, fun _ h hw => by
    cases of_some h
    have e := VecOp.decodes o 0x42 false true true hw
    obtain ⟨d, s1, b, et, m⟩ := o
    cases b <;> exact congrArg (· >>= fun x => pure (Instr.vslideDn x)) e⟩
theorem Laws.RoundTrip.vbcast (o : VecOp) : Statement (.vbcast o) :=
  ⟨fun _ h => no_enc h, fun _ h hw => by
    cases of_some h
    have e := VecOp.decodes o 0x43 false true true (both_left hw)
    have k : decide (o.s1 = 0) = true := both_right hw
    obtain ⟨d, s1, b, et, m⟩ := o
    cases b <;> exact after_need k (congrArg (· >>= fun x => pure (Instr.vbcast x)) e)⟩
theorem Laws.RoundTrip.vmvxs (o : VecOp) : Statement (.vmvxs o) :=
  ⟨fun _ h => no_enc h, fun _ h hw => by
    cases of_some h
    have e := VecOp.decodes o 0x44 false true true hw
    obtain ⟨d, s1, b, et, m⟩ := o
    cases b <;> exact congrArg (· >>= fun x => pure (Instr.vmvxs x)) e⟩
theorem Laws.RoundTrip.vredAdd (o : VecUn) : Statement (.vredAdd o) :=
  ⟨fun _ h => no_enc h, fun _ h hw => by
    cases of_some h
    have e := VecUn.decodes o 0x48 hw
    exact congrArg (· >>= fun x => pure (Instr.vredAdd x)) e⟩
theorem Laws.RoundTrip.vredMin (o : VecUn) : Statement (.vredMin o) :=
  ⟨fun _ h => no_enc h, fun _ h hw => by
    cases of_some h
    have e := VecUn.decodes o 0x49 hw
    exact congrArg (· >>= fun x => pure (Instr.vredMin x)) e⟩
theorem Laws.RoundTrip.vredMax (o : VecUn) : Statement (.vredMax o) :=
  ⟨fun _ h => no_enc h, fun _ h hw => by
    cases of_some h
    have e := VecUn.decodes o 0x4A hw
    exact congrArg (· >>= fun x => pure (Instr.vredMax x)) e⟩
theorem Laws.RoundTrip.vredMinu (o : VecUn) : Statement (.vredMinu o) :=
  ⟨fun _ h => no_enc h, fun _ h hw => by
    cases of_some h
    have e := VecUn.decodes o 0x4B hw
    exact congrArg (· >>= fun x => pure (Instr.vredMinu x)) e⟩
theorem Laws.RoundTrip.vredMaxu (o : VecUn) : Statement (.vredMaxu o) :=
  ⟨fun _ h => no_enc h, fun _ h hw => by
    cases of_some h
    have e := VecUn.decodes o 0x4C hw
    exact congrArg (· >>= fun x => pure (Instr.vredMaxu x)) e⟩
theorem Laws.RoundTrip.vredAnd (o : VecUn) : Statement (.vredAnd o) :=
  ⟨fun _ h => no_enc h, fun _ h hw => by
    cases of_some h
    have e := VecUn.decodes o 0x4D hw
    exact congrArg (· >>= fun x => pure (Instr.vredAnd x)) e⟩
theorem Laws.RoundTrip.vredOr (o : VecUn) : Statement (.vredOr o) :=
  ⟨fun _ h => no_enc h, fun _ h hw => by
    cases of_some h
    have e := VecUn.decodes o 0x4E hw
    exact congrArg (· >>= fun x => pure (Instr.vredOr x)) e⟩
theorem Laws.RoundTrip.vredXor (o : VecUn) : Statement (.vredXor o) :=
  ⟨fun _ h => no_enc h, fun _ h hw => by
    cases of_some h
    have e := VecUn.decodes o 0x4F hw
    exact congrArg (· >>= fun x => pure (Instr.vredXor x)) e⟩
theorem Laws.RoundTrip.vscanAdd (o : VecUn) : Statement (.vscanAdd o) :=
  ⟨fun _ h => no_enc h, fun _ h hw => by
    cases of_some h
    have e := VecUn.decodes o 0x50 hw
    exact congrArg (· >>= fun x => pure (Instr.vscanAdd x)) e⟩
theorem Laws.RoundTrip.vscanMin (o : VecUn) : Statement (.vscanMin o) :=
  ⟨fun _ h => no_enc h, fun _ h hw => by
    cases of_some h
    have e := VecUn.decodes o 0x51 hw
    exact congrArg (· >>= fun x => pure (Instr.vscanMin x)) e⟩
theorem Laws.RoundTrip.vscanMax (o : VecUn) : Statement (.vscanMax o) :=
  ⟨fun _ h => no_enc h, fun _ h hw => by
    cases of_some h
    have e := VecUn.decodes o 0x52 hw
    exact congrArg (· >>= fun x => pure (Instr.vscanMax x)) e⟩
theorem Laws.RoundTrip.vscanMinu (o : VecUn) : Statement (.vscanMinu o) :=
  ⟨fun _ h => no_enc h, fun _ h hw => by
    cases of_some h
    have e := VecUn.decodes o 0x53 hw
    exact congrArg (· >>= fun x => pure (Instr.vscanMinu x)) e⟩
theorem Laws.RoundTrip.vscanMaxu (o : VecUn) : Statement (.vscanMaxu o) :=
  ⟨fun _ h => no_enc h, fun _ h hw => by
    cases of_some h
    have e := VecUn.decodes o 0x54 hw
    exact congrArg (· >>= fun x => pure (Instr.vscanMaxu x)) e⟩
theorem Laws.RoundTrip.vcmprs (o : VecUn) : Statement (.vcmprs o) :=
  ⟨fun _ h => no_enc h, fun _ h hw => by
    cases of_some h
    have e := VecUn.decodes o 0x58 hw
    exact congrArg (· >>= fun x => pure (Instr.vcmprs x)) e⟩
theorem Laws.RoundTrip.vpopc (o : VecUn) : Statement (.vpopc o) :=
  ⟨fun _ h => no_enc h, fun _ h hw => by
    cases of_some h
    have e := VecUn.decodes o 0x59 (both_left hw)
    have k : kOk o.s1 = true := both_right hw
    exact after_need k (congrArg (· >>= fun x => pure (Instr.vpopc x)) e)⟩
theorem Laws.RoundTrip.vfirst (o : VecUn) : Statement (.vfirst o) :=
  ⟨fun _ h => no_enc h, fun _ h hw => by
    cases of_some h
    have e := VecUn.decodes o 0x5A (both_left hw)
    have k : kOk o.s1 = true := both_right hw
    exact after_need k (congrArg (· >>= fun x => pure (Instr.vfirst x)) e)⟩
theorem Laws.RoundTrip.vfadd (o : FltOp) : Statement (.vfadd o) :=
  ⟨fun _ h => no_enc h, fun _ h hw => by
    cases of_some h
    have e := FltOp.decodes o 0x00 true false hw
    obtain ⟨d, s1, b, s3, rm, et, m⟩ := o
    cases b <;> exact congrArg (· >>= fun x => pure (Instr.vfadd x)) e⟩
theorem Laws.RoundTrip.vfsub (o : FltOp) : Statement (.vfsub o) :=
  ⟨fun _ h => no_enc h, fun _ h hw => by
    cases of_some h
    have e := FltOp.decodes o 0x01 true false hw
    obtain ⟨d, s1, b, s3, rm, et, m⟩ := o
    cases b <;> exact congrArg (· >>= fun x => pure (Instr.vfsub x)) e⟩
theorem Laws.RoundTrip.vfmul (o : FltOp) : Statement (.vfmul o) :=
  ⟨fun _ h => no_enc h, fun _ h hw => by
    cases of_some h
    have e := FltOp.decodes o 0x02 true false hw
    obtain ⟨d, s1, b, s3, rm, et, m⟩ := o
    cases b <;> exact congrArg (· >>= fun x => pure (Instr.vfmul x)) e⟩
theorem Laws.RoundTrip.vfdiv (o : FltOp) : Statement (.vfdiv o) :=
  ⟨fun _ h => no_enc h, fun _ h hw => by
    cases of_some h
    have e := FltOp.decodes o 0x03 true false hw
    obtain ⟨d, s1, b, s3, rm, et, m⟩ := o
    cases b <;> exact congrArg (· >>= fun x => pure (Instr.vfdiv x)) e⟩
theorem Laws.RoundTrip.vfma (o : FltOp) : Statement (.vfma o) :=
  ⟨fun _ h => no_enc h, fun _ h hw => by
    cases of_some h
    have e := FltOp.decodes o 0x04 true true hw
    obtain ⟨d, s1, b, s3, rm, et, m⟩ := o
    cases b <;> exact congrArg (· >>= fun x => pure (Instr.vfma x)) e⟩
theorem Laws.RoundTrip.vfms (o : FltOp) : Statement (.vfms o) :=
  ⟨fun _ h => no_enc h, fun _ h hw => by
    cases of_some h
    have e := FltOp.decodes o 0x05 true true hw
    obtain ⟨d, s1, b, s3, rm, et, m⟩ := o
    cases b <;> exact congrArg (· >>= fun x => pure (Instr.vfms x)) e⟩
theorem Laws.RoundTrip.vfnma (o : FltOp) : Statement (.vfnma o) :=
  ⟨fun _ h => no_enc h, fun _ h hw => by
    cases of_some h
    have e := FltOp.decodes o 0x06 true true hw
    obtain ⟨d, s1, b, s3, rm, et, m⟩ := o
    cases b <;> exact congrArg (· >>= fun x => pure (Instr.vfnma x)) e⟩
theorem Laws.RoundTrip.vfnms (o : FltOp) : Statement (.vfnms o) :=
  ⟨fun _ h => no_enc h, fun _ h hw => by
    cases of_some h
    have e := FltOp.decodes o 0x07 true true hw
    obtain ⟨d, s1, b, s3, rm, et, m⟩ := o
    cases b <;> exact congrArg (· >>= fun x => pure (Instr.vfnms x)) e⟩
theorem Laws.RoundTrip.vfmin (o : FltOp) : Statement (.vfmin o) :=
  ⟨fun _ h => no_enc h, fun _ h hw => by
    cases of_some h
    have e := FltOp.decodes o 0x08 false false hw
    obtain ⟨d, s1, b, s3, rm, et, m⟩ := o
    cases b <;> exact congrArg (· >>= fun x => pure (Instr.vfmin x)) e⟩
theorem Laws.RoundTrip.vfmax (o : FltOp) : Statement (.vfmax o) :=
  ⟨fun _ h => no_enc h, fun _ h hw => by
    cases of_some h
    have e := FltOp.decodes o 0x09 false false hw
    obtain ⟨d, s1, b, s3, rm, et, m⟩ := o
    cases b <;> exact congrArg (· >>= fun x => pure (Instr.vfmax x)) e⟩
theorem Laws.RoundTrip.vfsqrt (o : FltUn) : Statement (.vfsqrt o) :=
  ⟨fun _ h => no_enc h, fun _ h hw => by
    cases of_some h
    have e := FltUn.decodes o 0x0A true hw
    exact congrArg (· >>= fun x => pure (Instr.vfsqrt x)) e⟩
theorem Laws.RoundTrip.vfsgnj (o : FltOp) : Statement (.vfsgnj o) :=
  ⟨fun _ h => no_enc h, fun _ h hw => by
    cases of_some h
    have e := FltOp.decodes o 0x0B false false hw
    obtain ⟨d, s1, b, s3, rm, et, m⟩ := o
    cases b <;> exact congrArg (· >>= fun x => pure (Instr.vfsgnj x)) e⟩
theorem Laws.RoundTrip.vfsgnjn (o : FltOp) : Statement (.vfsgnjn o) :=
  ⟨fun _ h => no_enc h, fun _ h hw => by
    cases of_some h
    have e := FltOp.decodes o 0x0C false false hw
    obtain ⟨d, s1, b, s3, rm, et, m⟩ := o
    cases b <;> exact congrArg (· >>= fun x => pure (Instr.vfsgnjn x)) e⟩
theorem Laws.RoundTrip.vfsgnjx (o : FltOp) : Statement (.vfsgnjx o) :=
  ⟨fun _ h => no_enc h, fun _ h hw => by
    cases of_some h
    have e := FltOp.decodes o 0x0D false false hw
    obtain ⟨d, s1, b, s3, rm, et, m⟩ := o
    cases b <;> exact congrArg (· >>= fun x => pure (Instr.vfsgnjx x)) e⟩
theorem Laws.RoundTrip.vfrcp (o : FltUn) : Statement (.vfrcp o) :=
  ⟨fun _ h => no_enc h, fun _ h hw => by
    cases of_some h
    have e := FltUn.decodes o 0x10 false hw
    exact congrArg (· >>= fun x => pure (Instr.vfrcp x)) e⟩
theorem Laws.RoundTrip.vfrsq (o : FltUn) : Statement (.vfrsq o) :=
  ⟨fun _ h => no_enc h, fun _ h hw => by
    cases of_some h
    have e := FltUn.decodes o 0x11 false hw
    exact congrArg (· >>= fun x => pure (Instr.vfrsq x)) e⟩
theorem Laws.RoundTrip.vfexp2 (o : FltUn) : Statement (.vfexp2 o) :=
  ⟨fun _ h => no_enc h, fun _ h hw => by
    cases of_some h
    have e := FltUn.decodes o 0x12 false hw
    exact congrArg (· >>= fun x => pure (Instr.vfexp2 x)) e⟩
theorem Laws.RoundTrip.vflog2 (o : FltUn) : Statement (.vflog2 o) :=
  ⟨fun _ h => no_enc h, fun _ h hw => by
    cases of_some h
    have e := FltUn.decodes o 0x13 false hw
    exact congrArg (· >>= fun x => pure (Instr.vflog2 x)) e⟩
theorem Laws.RoundTrip.vfsin (o : FltUn) : Statement (.vfsin o) :=
  ⟨fun _ h => no_enc h, fun _ h hw => by
    cases of_some h
    have e := FltUn.decodes o 0x14 false hw
    exact congrArg (· >>= fun x => pure (Instr.vfsin x)) e⟩
theorem Laws.RoundTrip.vfcos (o : FltUn) : Statement (.vfcos o) :=
  ⟨fun _ h => no_enc h, fun _ h hw => by
    cases of_some h
    have e := FltUn.decodes o 0x15 false hw
    exact congrArg (· >>= fun x => pure (Instr.vfcos x)) e⟩
theorem Laws.RoundTrip.vfcmpEq (o : FltOp) : Statement (.vfcmpEq o) :=
  ⟨fun _ h => no_enc h, fun _ h hw => by
    cases of_some h
    have e := FltOp.decodes o 0x18 false false (both_left hw)
    have k : kOk o.d = true := both_right hw
    obtain ⟨d, s1, b, s3, rm, et, m⟩ := o
    cases b <;> exact after_need k (congrArg (· >>= fun x => pure (Instr.vfcmpEq x)) e)⟩
theorem Laws.RoundTrip.vfcmpNe (o : FltOp) : Statement (.vfcmpNe o) :=
  ⟨fun _ h => no_enc h, fun _ h hw => by
    cases of_some h
    have e := FltOp.decodes o 0x19 false false (both_left hw)
    have k : kOk o.d = true := both_right hw
    obtain ⟨d, s1, b, s3, rm, et, m⟩ := o
    cases b <;> exact after_need k (congrArg (· >>= fun x => pure (Instr.vfcmpNe x)) e)⟩
theorem Laws.RoundTrip.vfcmpLt (o : FltOp) : Statement (.vfcmpLt o) :=
  ⟨fun _ h => no_enc h, fun _ h hw => by
    cases of_some h
    have e := FltOp.decodes o 0x1A false false (both_left hw)
    have k : kOk o.d = true := both_right hw
    obtain ⟨d, s1, b, s3, rm, et, m⟩ := o
    cases b <;> exact after_need k (congrArg (· >>= fun x => pure (Instr.vfcmpLt x)) e)⟩
theorem Laws.RoundTrip.vfcmpLe (o : FltOp) : Statement (.vfcmpLe o) :=
  ⟨fun _ h => no_enc h, fun _ h hw => by
    cases of_some h
    have e := FltOp.decodes o 0x1B false false (both_left hw)
    have k : kOk o.d = true := both_right hw
    obtain ⟨d, s1, b, s3, rm, et, m⟩ := o
    cases b <;> exact after_need k (congrArg (· >>= fun x => pure (Instr.vfcmpLe x)) e)⟩
theorem Laws.RoundTrip.vfcmpGt (o : FltOp) : Statement (.vfcmpGt o) :=
  ⟨fun _ h => no_enc h, fun _ h hw => by
    cases of_some h
    have e := FltOp.decodes o 0x1C false false (both_left hw)
    have k : kOk o.d = true := both_right hw
    obtain ⟨d, s1, b, s3, rm, et, m⟩ := o
    cases b <;> exact after_need k (congrArg (· >>= fun x => pure (Instr.vfcmpGt x)) e)⟩
theorem Laws.RoundTrip.vfcmpGe (o : FltOp) : Statement (.vfcmpGe o) :=
  ⟨fun _ h => no_enc h, fun _ h hw => by
    cases of_some h
    have e := FltOp.decodes o 0x1D false false (both_left hw)
    have k : kOk o.d = true := both_right hw
    obtain ⟨d, s1, b, s3, rm, et, m⟩ := o
    cases b <;> exact after_need k (congrArg (· >>= fun x => pure (Instr.vfcmpGe x)) e)⟩
theorem Laws.RoundTrip.vfclass (o : FltUn) : Statement (.vfclass o) :=
  ⟨fun _ h => no_enc h, fun _ h hw => by
    cases of_some h
    have e := FltUn.decodes o 0x20 false hw
    exact congrArg (· >>= fun x => pure (Instr.vfclass x)) e⟩
theorem Laws.RoundTrip.vcvt (o : CvtOp) : Statement (.vcvt o) :=
  ⟨fun _ h => no_enc h, fun _ h hw => by
    cases of_some h
    have e := CvtOp.decodes o  hw
    exact congrArg (· >>= fun x => pure (Instr.vcvt x)) e⟩
theorem Laws.RoundTrip.vfredSum (o : FltUn) : Statement (.vfredSum o) :=
  ⟨fun _ h => no_enc h, fun _ h hw => by
    cases of_some h
    have e := FltUn.decodes o 0x30 true hw
    exact congrArg (· >>= fun x => pure (Instr.vfredSum x)) e⟩
theorem Laws.RoundTrip.vfredMin (o : FltUn) : Statement (.vfredMin o) :=
  ⟨fun _ h => no_enc h, fun _ h hw => by
    cases of_some h
    have e := FltUn.decodes o 0x31 false hw
    exact congrArg (· >>= fun x => pure (Instr.vfredMin x)) e⟩
theorem Laws.RoundTrip.vfredMax (o : FltUn) : Statement (.vfredMax o) :=
  ⟨fun _ h => no_enc h, fun _ h hw => by
    cases of_some h
    have e := FltUn.decodes o 0x32 false hw
    exact congrArg (· >>= fun x => pure (Instr.vfredMax x)) e⟩
theorem Laws.RoundTrip.vfscanSum (o : FltUn) : Statement (.vfscanSum o) :=
  ⟨fun _ h => no_enc h, fun _ h hw => by
    cases of_some h
    have e := FltUn.decodes o 0x33 true hw
    exact congrArg (· >>= fun x => pure (Instr.vfscanSum x)) e⟩
theorem Laws.RoundTrip.fetchFault (cause : Nat) (detail : Nat) (straddle : Bool) : Statement (.fetchFault cause detail straddle) :=
  ⟨fun _ h => no_enc h, fun _ h => no_enc h⟩
theorem Laws.RoundTrip.contextWake (core : Nat) (part : Nat) (tail : Bool) : Statement (.contextWake core part tail) :=
  ⟨fun _ h => no_enc h, fun _ h => no_enc h⟩
theorem Laws.RoundTrip.taskDispatch (core : Nat) (part : Nat) : Statement (.taskDispatch core part) :=
  ⟨fun _ h => no_enc h, fun _ h => no_enc h⟩
theorem Laws.RoundTrip.messageDeliver (core : Nat) (part : Nat) : Statement (.messageDeliver core part) :=
  ⟨fun _ h => no_enc h, fun _ h => no_enc h⟩
theorem Laws.RoundTrip.copy (cluster : Nat) : Statement (.copy cluster) :=
  ⟨fun _ h => no_enc h, fun _ h => no_enc h⟩
theorem Laws.RoundTrip.copyFill (cluster : Nat) : Statement (.copyFill cluster) :=
  ⟨fun _ h => no_enc h, fun _ h => no_enc h⟩
theorem Laws.RoundTrip.trapRecordPost (task : Nat) : Statement (.trapRecordPost task) :=
  ⟨fun _ h => no_enc h, fun _ h => no_enc h⟩
theorem Laws.RoundTrip.ecall : Statement (.ecall) :=
  ⟨fun _ hf _ => by cases of_some hf; exact rfl, fun _ h => no_enc h⟩
theorem Laws.RoundTrip.ebreak : Statement (.ebreak) :=
  ⟨fun _ hf _ => by cases of_some hf; exact rfl, fun _ h => no_enc h⟩
theorem Laws.RoundTrip.fenceTso : Statement (.fenceTso) :=
  ⟨fun _ hf _ => by cases of_some hf; exact rfl, fun _ h => no_enc h⟩
theorem Laws.RoundTrip.fenceI : Statement (.fenceI) :=
  ⟨fun _ hf _ => by cases of_some hf; exact rfl, fun _ h => no_enc h⟩
theorem Laws.RoundTrip.minv : Statement (.minv) :=
  ⟨fun _ h => no_enc h, fun _ h hw => by cases of_some h; exact decodes_minv hw⟩
theorem Laws.RoundTrip.mpop : Statement (.mpop) :=
  ⟨fun _ h => no_enc h, fun _ h hw => by cases of_some h; exact decodes_mpop hw⟩
theorem Laws.RoundTrip.frjoin : Statement (.frjoin) :=
  ⟨fun _ h => no_enc h, fun _ h hw => by cases of_some h; exact decodes_frjoin hw⟩
theorem Laws.RoundTrip.tdone : Statement (.tdone) :=
  ⟨fun _ h => no_enc h, fun _ h hw => by cases of_some h; exact decodes_tdone hw⟩
theorem Laws.RoundTrip.completionRecordWrite : Statement (.completionRecordWrite) :=
  ⟨fun _ h => no_enc h, fun _ h => no_enc h⟩
theorem Laws.RoundTrip.teamArrive : Statement (.teamArrive) :=
  ⟨fun _ h => no_enc h, fun _ h => no_enc h⟩
theorem Laws.RoundTrip.prefill : Statement (.prefill) :=
  ⟨fun _ h => no_enc h, fun _ h => no_enc h⟩
theorem Laws.RoundTrip.timeUnsync : Statement (.timeUnsync) :=
  ⟨fun _ h => no_enc h, fun _ h => no_enc h⟩
theorem Laws.RoundTrip.timeSyncLock : Statement (.timeSyncLock) :=
  ⟨fun _ h => no_enc h, fun _ h => no_enc h⟩
theorem Laws.RoundTrip.launchRecordRead : Statement (.launchRecordRead) :=
  ⟨fun _ h => no_enc h, fun _ h => no_enc h⟩
theorem Laws.RoundTrip.launchAccept : Statement (.launchAccept) :=
  ⟨fun _ h => no_enc h, fun _ h => no_enc h⟩
theorem Laws.RoundTrip.stage : Statement (.stage) :=
  ⟨fun _ h => no_enc h, fun _ h => no_enc h⟩
theorem Laws.RoundTrip.attest : Statement (.attest) :=
  ⟨fun _ h => no_enc h, fun _ h => no_enc h⟩
theorem Laws.RoundTrip.firmwareSwitch : Statement (.firmwareSwitch) :=
  ⟨fun _ h => no_enc h, fun _ h => no_enc h⟩
theorem Laws.RoundTrip.firmwareHealthy : Statement (.firmwareHealthy) :=
  ⟨fun _ h => no_enc h, fun _ h => no_enc h⟩
theorem Laws.RoundTrip.firmwareHealthTimeout : Statement (.firmwareHealthTimeout) :=
  ⟨fun _ h => no_enc h, fun _ h => no_enc h⟩
theorem Laws.RoundTrip.dmRead : Statement (.dmRead) :=
  ⟨fun _ h => no_enc h, fun _ h => no_enc h⟩
theorem Laws.RoundTrip.reclaim : Statement (.reclaim) :=
  ⟨fun _ h => no_enc h, fun _ h => no_enc h⟩
theorem Laws.RoundTrip.dmBadCommand : Statement (.dmBadCommand) :=
  ⟨fun _ h => no_enc h, fun _ h => no_enc h⟩
theorem Laws.RoundTrip.bringUp : Statement (.bringUp) :=
  ⟨fun _ h => no_enc h, fun _ h => no_enc h⟩
theorem Laws.RoundTrip.thermalHalt : Statement (.thermalHalt) :=
  ⟨fun _ h => no_enc h, fun _ h => no_enc h⟩
theorem Laws.RoundTrip.coolantThrottle : Statement (.coolantThrottle) :=
  ⟨fun _ h => no_enc h, fun _ h => no_enc h⟩
theorem Laws.RoundTrip.moduleRemoval : Statement (.moduleRemoval) :=
  ⟨fun _ h => no_enc h, fun _ h => no_enc h⟩
theorem Laws.RoundTrip.illegalEncoding : Statement (.illegalEncoding) :=
  ⟨fun _ h => no_enc h, fun _ h => no_enc h⟩
theorem Laws.RoundTrip.thermalThrottle : Statement (.thermalThrottle) :=
  ⟨fun _ h => no_enc h, fun _ h => no_enc h⟩
theorem Laws.RoundTrip.throttleRelease : Statement (.throttleRelease) :=
  ⟨fun _ h => no_enc h, fun _ h => no_enc h⟩
theorem Laws.RoundTrip.powerLoss : Statement (.powerLoss) :=
  ⟨fun _ h => no_enc h, fun _ h => no_enc h⟩
theorem Laws.RoundTrip.trapLogPost (task : Nat) : Statement (.trapLogPost task) :=
  ⟨fun _ h => no_enc h, fun _ h => no_enc h⟩
theorem Laws.RoundTrip.backoffExpiry (task : Nat) : Statement (.backoffExpiry task) :=
  ⟨fun _ h => no_enc h, fun _ h => no_enc h⟩
theorem Laws.RoundTrip.atomicAbort (task : Nat) : Statement (.atomicAbort task) :=
  ⟨fun _ h => no_enc h, fun _ h => no_enc h⟩
theorem Laws.RoundTrip.stealProbe (core : Nat) (victim : Nat) : Statement (.stealProbe core victim) :=
  ⟨fun _ h => no_enc h, fun _ h => no_enc h⟩
theorem Laws.RoundTrip.teamMigrate (src : Nat) (dst : Nat) (colour : Nat) : Statement (.teamMigrate src dst colour) :=
  ⟨fun _ h => no_enc h, fun _ h => no_enc h⟩
theorem Laws.RoundTrip.rollCall (launch : Nat) : Statement (.rollCall launch) :=
  ⟨fun _ h => no_enc h, fun _ h => no_enc h⟩
theorem Laws.RoundTrip.reservationLapse (die : Nat) (rec : Nat) : Statement (.reservationLapse die rec) :=
  ⟨fun _ h => no_enc h, fun _ h => no_enc h⟩
theorem Laws.RoundTrip.ringShift (gang : Nat) (ring : Nat) : Statement (.ringShift gang ring) :=
  ⟨fun _ h => no_enc h, fun _ h => no_enc h⟩
theorem Laws.RoundTrip.bell (die : Nat) (rec : Nat) : Statement (.bell die rec) :=
  ⟨fun _ h => no_enc h, fun _ h => no_enc h⟩
theorem Laws.RoundTrip.bellDeadline (die : Nat) (rec : Nat) : Statement (.bellDeadline die rec) :=
  ⟨fun _ h => no_enc h, fun _ h => no_enc h⟩
theorem Laws.RoundTrip.colourSwitchComplete (die : Nat) (rec : Nat) : Statement (.colourSwitchComplete die rec) :=
  ⟨fun _ h => no_enc h, fun _ h => no_enc h⟩
theorem Laws.RoundTrip.rast (cluster : Nat) : Statement (.rast cluster) :=
  ⟨fun _ h => no_enc h, fun _ h => no_enc h⟩
theorem Laws.RoundTrip.trace (cluster : Nat) : Statement (.trace cluster) :=
  ⟨fun _ h => no_enc h, fun _ h => no_enc h⟩
theorem Laws.RoundTrip.sample (cluster : Nat) : Statement (.sample cluster) :=
  ⟨fun _ h => no_enc h, fun _ h => no_enc h⟩
theorem Laws.RoundTrip.generatorQueue (range : Nat) (block : Nat) : Statement (.generatorQueue range block) :=
  ⟨fun _ h => no_enc h, fun _ h => no_enc h⟩
theorem Laws.RoundTrip.tileOffer (o : TileOffer) : Statement (.tileOffer o) :=
  ⟨fun _ h => no_enc h, fun _ h => no_enc h⟩
theorem Laws.RoundTrip.tileStallFault (hdr : Nat) : Statement (.tileStallFault hdr) :=
  ⟨fun _ h => no_enc h, fun _ h => no_enc h⟩
theorem Laws.RoundTrip.l2LineWrite (line : Nat) : Statement (.l2LineWrite line) :=
  ⟨fun _ h => no_enc h, fun _ h => no_enc h⟩
theorem Laws.RoundTrip.sliceUnpin (slice : Nat) : Statement (.sliceUnpin slice) :=
  ⟨fun _ h => no_enc h, fun _ h => no_enc h⟩
theorem Laws.RoundTrip.arrayError (kind : ArrayErr) (loc : Nat) : Statement (.arrayError kind loc) :=
  ⟨fun _ h => no_enc h, fun _ h => no_enc h⟩
theorem Laws.RoundTrip.hostWrite (place : Nat) (data : List Byte) : Statement (.hostWrite place data) :=
  ⟨fun _ h => no_enc h, fun _ h => no_enc h⟩
theorem Laws.RoundTrip.hostRead (place : Nat) (n : Nat) : Statement (.hostRead place n) :=
  ⟨fun _ h => no_enc h, fun _ h => no_enc h⟩
theorem Laws.RoundTrip.fabricWrite (dev : Nat) (offset : Nat) (data : List Byte) : Statement (.fabricWrite dev offset data) :=
  ⟨fun _ h => no_enc h, fun _ h => no_enc h⟩
theorem Laws.RoundTrip.remoteRead (dev : Nat) (line : Nat) : Statement (.remoteRead dev line) :=
  ⟨fun _ h => no_enc h, fun _ h => no_enc h⟩
theorem Laws.RoundTrip.remoteOwnership (dev : Nat) (line : Nat) : Statement (.remoteOwnership dev line) :=
  ⟨fun _ h => no_enc h, fun _ h => no_enc h⟩
theorem Laws.RoundTrip.leaseRecall (line : Nat) : Statement (.leaseRecall line) :=
  ⟨fun _ h => no_enc h, fun _ h => no_enc h⟩
theorem Laws.RoundTrip.leaseReturn (dev : Nat) (line : Nat) : Statement (.leaseReturn dev line) :=
  ⟨fun _ h => no_enc h, fun _ h => no_enc h⟩
theorem Laws.RoundTrip.leaseDrop (line : Nat) : Statement (.leaseDrop line) :=
  ⟨fun _ h => no_enc h, fun _ h => no_enc h⟩
theorem Laws.RoundTrip.leaseExpiry (line : Nat) : Statement (.leaseExpiry line) :=
  ⟨fun _ h => no_enc h, fun _ h => no_enc h⟩
theorem Laws.RoundTrip.ownerLost (line : Nat) : Statement (.ownerLost line) :=
  ⟨fun _ h => no_enc h, fun _ h => no_enc h⟩
theorem Laws.RoundTrip.lateSnoopAnswer (dev : Nat) (line : Nat) : Statement (.lateSnoopAnswer dev line) :=
  ⟨fun _ h => no_enc h, fun _ h => no_enc h⟩
theorem Laws.RoundTrip.launchDoorbell (v : Word) : Statement (.launchDoorbell v) :=
  ⟨fun _ h => no_enc h, fun _ h => no_enc h⟩
theorem Laws.RoundTrip.launchRelease (launch : Nat) : Statement (.launchRelease launch) :=
  ⟨fun _ h => no_enc h, fun _ h => no_enc h⟩
theorem Laws.RoundTrip.graphExpand (launch : Nat) : Statement (.graphExpand launch) :=
  ⟨fun _ h => no_enc h, fun _ h => no_enc h⟩
theorem Laws.RoundTrip.launchDone (launch : Nat) : Statement (.launchDone launch) :=
  ⟨fun _ h => no_enc h, fun _ h => no_enc h⟩
theorem Laws.RoundTrip.bindRecordWrite (die : Nat) (idx : Nat) (v : BitVec 512) : Statement (.bindRecordWrite die idx v) :=
  ⟨fun _ h => no_enc h, fun _ h => no_enc h⟩
theorem Laws.RoundTrip.supervisorQueueWrite (die : Nat) (idx : Nat) (v : BitVec 512) : Statement (.supervisorQueueWrite die idx v) :=
  ⟨fun _ h => no_enc h, fun _ h => no_enc h⟩
theorem Laws.RoundTrip.rangeTableWrite (idx : Nat) (v : BitVec 512) : Statement (.rangeTableWrite idx v) :=
  ⟨fun _ h => no_enc h, fun _ h => no_enc h⟩
theorem Laws.RoundTrip.imageTableWrite (idx : Nat) (v : BitVec 256) : Statement (.imageTableWrite idx v) :=
  ⟨fun _ h => no_enc h, fun _ h => no_enc h⟩
theorem Laws.RoundTrip.ringDescriptorWrite (slice : Nat) (v : BitVec 256) : Statement (.ringDescriptorWrite slice v) :=
  ⟨fun _ h => no_enc h, fun _ h => no_enc h⟩
theorem Laws.RoundTrip.ringModeControl (die : Nat) (v : Word) : Statement (.ringModeControl die v) :=
  ⟨fun _ h => no_enc h, fun _ h => no_enc h⟩
theorem Laws.RoundTrip.segmapWrite (idx : Nat) (v : Word) : Statement (.segmapWrite idx v) :=
  ⟨fun _ h => no_enc h, fun _ h => no_enc h⟩
theorem Laws.RoundTrip.powerCapWrite (v : Word) : Statement (.powerCapWrite v) :=
  ⟨fun _ h => no_enc h, fun _ h => no_enc h⟩
theorem Laws.RoundTrip.registerWrite (bar : BitVec 3) (offset : Nat) (v : Word) : Statement (.registerWrite bar offset v) :=
  ⟨fun _ h => no_enc h, fun _ h => no_enc h⟩
theorem Laws.RoundTrip.stlResume (slot : BitVec 6) : Statement (.stlResume slot) :=
  ⟨fun _ h => no_enc h, fun _ h => no_enc h⟩
theorem Laws.RoundTrip.stlKill (slot : BitVec 6) : Statement (.stlKill slot) :=
  ⟨fun _ h => no_enc h, fun _ h => no_enc h⟩
theorem Laws.RoundTrip.readbackL2Tag (slice : Nat) (sel : Word) : Statement (.readbackL2Tag slice sel) :=
  ⟨fun _ h => no_enc h, fun _ h => no_enc h⟩
theorem Laws.RoundTrip.readbackQueueEntry (slice : Nat) (sel : Word) : Statement (.readbackQueueEntry slice sel) :=
  ⟨fun _ h => no_enc h, fun _ h => no_enc h⟩
theorem Laws.RoundTrip.readbackDirectory (slice : Nat) (sel : Word) : Statement (.readbackDirectory slice sel) :=
  ⟨fun _ h => no_enc h, fun _ h => no_enc h⟩
theorem Laws.RoundTrip.readbackBadKind (slice : Nat) (sel : Word) : Statement (.readbackBadKind slice sel) :=
  ⟨fun _ h => no_enc h, fun _ h => no_enc h⟩
theorem Laws.RoundTrip.forget (dev : BitVec 14) : Statement (.forget dev) :=
  ⟨fun _ h => no_enc h, fun _ h => no_enc h⟩
theorem Laws.RoundTrip.clusterRepair (cluster : Nat) : Statement (.clusterRepair cluster) :=
  ⟨fun _ h => no_enc h, fun _ h => no_enc h⟩
theorem Laws.RoundTrip.l2WayRepair (slice : Nat) (set : Nat) (way : Nat) : Statement (.l2WayRepair slice set way) :=
  ⟨fun _ h => no_enc h, fun _ h => no_enc h⟩
theorem Laws.RoundTrip.gddrDeviceRetire (region : Nat) : Statement (.gddrDeviceRetire region) :=
  ⟨fun _ h => no_enc h, fun _ h => no_enc h⟩
theorem Laws.RoundTrip.hostSnoop (line : Nat) (write : Bool) : Statement (.hostSnoop line write) :=
  ⟨fun _ h => no_enc h, fun _ h => no_enc h⟩
theorem Laws.RoundTrip.backInvalidationAnswer (line : Nat) : Statement (.backInvalidationAnswer line) :=
  ⟨fun _ h => no_enc h, fun _ h => no_enc h⟩
theorem Laws.RoundTrip.ownerSnoop (line : Nat) : Statement (.ownerSnoop line) :=
  ⟨fun _ h => no_enc h, fun _ h => no_enc h⟩
theorem Laws.RoundTrip.snoopAnswer (line : Nat) (data : List Byte) : Statement (.snoopAnswer line data) :=
  ⟨fun _ h => no_enc h, fun _ h => no_enc h⟩
theorem Laws.RoundTrip.unsyncLeaseTimeout (line : Nat) : Statement (.unsyncLeaseTimeout line) :=
  ⟨fun _ h => no_enc h, fun _ h => no_enc h⟩
theorem Laws.RoundTrip.rowRepair (row : Nat) : Statement (.rowRepair row) :=
  ⟨fun _ h => no_enc h, fun _ h => no_enc h⟩
theorem Laws.RoundTrip.fabricLaneRepair (port : Nat) : Statement (.fabricLaneRepair port) :=
  ⟨fun _ h => no_enc h, fun _ h => no_enc h⟩

end Sys2Proof
end

