-- ==== Sys2Proof/Machine/Window.lean ====
section
/-! DEFINITION. What the host and the management cores read through BAR0 and BAR2, in 8-byte units (R297, R299, R300, R305,
R422). A read never changes state (R305), so it is no step: these are functions of the state. A read through BAR4 is
HOST_READ (R284, R296). -/

namespace Sys2Proof.Machine

/-- Doubleword i of a value. -/
def unitOf64 {w : Nat} (v : BitVec w) (i : Nat) : Word := BitVec.ofNat 64 (v.toNat / 2 ^ (64 * i))

/-- Unit i of a table whose entries take n units each. -/
def tableUnit {w : Nat} (t : Table (BitVec w)) (n i : Nat) : Word := unitOf64 (Table.get 0 t (i / n)) (i % n)

/-- DSTAT (R300). -/
def dstat (b : Bar0) : Word :=
  let bit := fun (x : Bool) (i : Nat) => if x then 2 ^ i else 0
  BitVec.ofNat 64 (b.temp.toNat * 2 ^ 24 + b.pstate.toNat * 2 ^ 22 + bit b.throt 21 + bit b.lrovf 20 + bit b.unsync 19
    + bit b.repair 18 + b.fwstate.toNat * 2 ^ 15 + bit b.lrrd 1 + bit b.ready 0)

/-- BAR0 (R299); other offsets read 0. -/
def readBar0 (s : State) (o : Nat) : Word :=
  let b := s.bar0
  match o / 8 with
  | 0 => dstat b
  | 1 => b.lrbase
  | 2 => b.lrsize
  | 3 => b.lrhead
  | 4 => b.lrtail
  | 5 => b.lrerr
  | 0x20 => b.fwcmd
  | 0x21 => b.fwaddr
  | 0x22 => b.fwlen
  | 0x23 => b.fwstat
  | i => if 0x40 ≤ i ∧ i < 0x44 then unitOf64 b.nonce (i - 0x40) else 0

/-- The identity area (R297, R303): the key of 1,793 bytes, its length, and the certificate. -/
def identityUnit (o : Nat) : Word :=
  if o = 0x7F8 then 1793
  else BitVec.ofNat 64 (ofBytes ((upTo 8).map (fun k => if o + k < 1793 ∨ 0x800 ≤ o + k then Config.identity (o + k) else 0)))

/-- The node maps as the store holds them: first store entry and contents, by map. Where the store places a map is not
given: the maps in use stand one after another (DESIGN CHOICE log 67). -/
def mapPlaces (ms : Table (List Nat)) : List (Nat × Nat × List Nat) :=
  (ms.foldl (fun acc e => (acc.1 + e.2.length, acc.2 ++ [(e.1, acc.1, e.2)])) (0, ([] : List (Nat × Nat × List Nat)))).2

/-- An entry of the node-map store. -/
def mapEntry (ms : Table (List Nat)) (n : Nat) : Nat := ((ms.flatMap (fun e => e.2)).drop n).headD 0

/-- A node-map descriptor. -/
def mapDescriptor (ms : Table (List Nat)) (n : Nat) : Nat :=
  match (mapPlaces ms).find? (fun e => e.1 = n) with
  | some e => e.2.1 % 2 ^ 16 + e.2.2.length * 2 ^ 16 + 2 ^ 63
  | none => 0

/-- An entry of a core's deque, counted from the oldest end. -/
def dequeUnit (s : State) (core i : Nat) : Word :=
  match (s.core core).deque.drop (i / 8) with
  | e :: _ => unitOf64 e.header (i % 8)
  | [] => 0

/-- The encoding codes in their order (R137). -/
def codesInOrder : List Nat := [0, 1, 2, 3, 4, 7]

/-- Counter i of a slice in the order of R297: resident lines by code, sectors in use, and the event counters (R141). -/
def sliceCounter (d : Slice) (i : Nat) : Nat :=
  let tags := d.sets.flatMap (fun e => e.2)
  if i < 6 then (tags.filter (fun t => t.code.toNat = codesInOrder.getD i 0)).length
  else if i = 6 then (tags.map (·.sectors)).sum
  else if i < 13 then Table.get 0 d.count i
  else 0

/-- A counter summed over the device (R141); R297 gives the sums no offset of their own (log 20). -/
def deviceCounter (s : State) (i : Nat) : Nat := ((upTo Config.slices).map (fun n => sliceCounter (s.slice n) i)).sum

/-- The area of an L2 slice. -/
def sliceUnit (d : Slice) (r : Nat) : Word :=
  if r < 0x68 then BitVec.ofNat 64 (sliceCounter d (r / 8))
  else if r = 0x1000 then d.rbsel
  else if r = 0x1008 then d.rbstat
  else if 0x1100 ≤ r ∧ r < 0x1200 then unitOf64 d.rbdata ((r - 0x1100) / 8)
  else 0

/-- Latch status (R422). -/
def latchStatus (l : Latch) : Nat :=
  (if l.full then 2 ^ 63 else 0) + l.nl * 2 ^ 56 + l.fmt.toNat * 2 ^ 50 + l.sew.toNat * 2 ^ 47 + l.blen.toNat * 2 ^ 45

/-- Pipe status (R422). -/
def pipeStatus (g : Option GangHere) (n : Nat) : Nat := match g with
  | some h =>
    let p := Table.get Pipe.empty h.pipe n
    if h.pipes.getLsbD n then 2 ^ 63 + p.full * 2 ^ 4 + p.head else 0
  | none => 0

/-- A unit of the pipe store: unit i, of which 8 make a slot and 128 a pipe. -/
def pipeUnit (g : Option GangHere) (i : Nat) : Word := match g with
  | some h => tableUnit (Table.get Pipe.empty h.pipe (i / 128)).data 8 (i % 128)
  | none => 0

/-- Byte b of the latch's codes or scales, of which each column has n; columns from NL on read 0. -/
def latchByte {w : Nat} (l : Latch) (t : Table (BitVec w)) (n b : Nat) : Byte :=
  if l.full ∧ b / n < l.nl then BitVec.ofNat 8 ((Table.get 0 t (b / n)).toNat / 2 ^ (8 * (b % n))) else 0

/-- Eight bytes as a unit. -/
def unitFrom (f : Nat → Byte) (b : Nat) : Word := BitVec.ofNat 64 (ofBytes ((upTo 8).map (fun k => f (b + k))))

/-- The context slot x of partition p, counted together, of a core. -/
def slotCtx (s : State) (core n : Nat) : Ctx := s.ctx { core := core, part := n / 2, tail := n % 2 = 1 }

/-- The area of a core (R422); VLEN is that of the core's current split. -/
def coreUnit (s : State) (core r : Nat) : Word :=
  let c := s.core core
  let vlen := vlenOf c.split
  if r < Config.scratchBytes then BitVec.ofNat 64 (ofBytes (s.mem.read (scratchLoc core r) 8))
  else if r < 0x60800 then tableUnit c.tid 4 ((r - 0x60000) / 8)
  else if r = 0x61000 then BitVec.ofNat 64 (latchStatus c.latch)
  else if r = 0x61008 then BitVec.ofNat 64 (c.latch.kt % 2 ^ 16)
  else if r = 0x61010 then BitVec.ofNat 64 c.mc
  else if r = 0x61018 then BitVec.ofNat 64 c.sc
  else if r = 0x61020 then BitVec.ofNat 64 (c.ringSize / 4 + c.ringPos * 4)
  else if 0x61100 ≤ r ∧ r < 0x61140 then BitVec.ofNat 64 (pipeStatus c.gang ((r - 0x61100) / 8))
  else if 0x62000 ≤ r ∧ r < 0x64000 then pipeUnit c.gang ((r - 0x62000) / 8)
  else if 0x64000 ≤ r ∧ r < 0x67000 then unitFrom (latchByte c.latch c.latch.codes 192) (r - 0x64000)
  else if 0x67000 ≤ r ∧ r < 0x67600 then unitFrom (latchByte c.latch c.latch.scales 24) (r - 0x67000)
  else if 0x80000 ≤ r ∧ r < 0x80000 + 2 * hartsOf c.split * (4 * vlen) then
    let q := r - 0x80000
    unitOf64 (Table.get 0 (slotCtx s core (q / (4 * vlen))).v (q % (4 * vlen) / (vlen / 8))) (q % (vlen / 8) / 8)
  else 0

/-- The mask store of a core (R422). -/
def maskUnit (s : State) (core r : Nat) : Word :=
  let c := s.core core
  let size := 256 * lanesOf c.split
  let n := r / size
  if 2 * hartsOf c.split ≤ n / 33 then 0
  else unitOf64 ((slotCtx s core (n / 33)).masks.getD (n % 33) 0) (r % size / 8)

/-- The area of a die. A ring descriptor reads with its HEAD and TAIL as they are, although the controller keeps them in ring
mode (R178; DESIGN CHOICE log 82). -/
def dieUnit (s : State) (die r : Nat) : Word :=
  let d := s.die die
  if r < 0x10000 then tableUnit d.bind 8 (r / 8)
  else if r < 0x20000 then tableUnit d.supq 8 ((r - 0x10000) / 8)
  else if r = 0x20000 then d.status
  else if r = 0x20008 then (if d.ringMode then 1 else 0)
  else if 0x21000 ≤ r ∧ r < 0x21400 then tableUnit d.ringDesc 4 ((r - 0x21000) / 8)
  else if 0x40000 ≤ r ∧ r < 0x80000 then tableUnit d.cnt 2 ((r - 0x40000) / 8)
  else if 0x80000 ≤ r ∧ r < 0xB0000 then dequeUnit s (Config.coresPerDie * die + (r - 0x80000) / 0x800) ((r - 0x80000) % 0x800 / 8)
  else 0

/-- The part of BAR2 below the tables of the dies. -/
def lowUnit (s : State) (o : Nat) : Word :=
  let m := s.mgmt
  if o < 0x10000 then identityUnit o
  else if o = 0x10000 then m.lease
  else if o = 0x10008 then m.devid
  else if o = 0x10010 then BitVec.ofNat 64 s.time
  else if o = 0x10100 then m.dmaddr
  else if o = 0x10108 then m.dmcmd
  else if o = 0x10110 then m.dmstat
  else if 0x10118 ≤ o ∧ o < 0x10138 then unitOf64 m.dmdata ((o - 0x10118) / 8)
  else if o = 0x10138 then m.olcount
  else if 0x10200 ≤ o ∧ o < 0x10400 then Table.get 0 m.ollog ((o - 0x10200) / 8)
  else if 0x10800 ≤ o ∧ o < 0x11000 then BitVec.ofNat 64 (segmap s ((o - 0x10800) / 8))
  else if o = 0x11000 then m.inletT
  else if o = 0x11008 then m.outletT
  else if o = 0x11010 then m.flow
  else if o = 0x11018 then m.cap
  else if o = 0x12000 then BitVec.ofNat 64 s.sched.errors
  else if o = 0x13000 then m.stlCount
  else if o = 0x13008 then m.stlCmd
  else if o = 0x13010 then m.stlStat
  else if 0x14000 ≤ o ∧ o < 0x16000 then tableUnit m.stl 16 ((o - 0x14000) / 8)
  else if 0x20000 ≤ o ∧ o < 0x30000 then
    let n := (o - 0x20000) / 4
    BitVec.ofNat 64 ((Table.get 0 m.homemap n).toNat + (Table.get 0 m.homemap (n + 1)).toNat * 2 ^ 32)
  else if 0x40000 ≤ o ∧ o < 0x44000 then tableUnit s.fill.ranges 8 ((o - 0x40000) / 8)
  else if o = 0x44000 then s.fill.status
  else if o = 0x44008 then s.sched.imageStatus
  else if 0x46000 ≤ o ∧ o < 0x48000 then tableUnit s.sched.imageTab 4 ((o - 0x46000) / 8)
  else if 0x100000 ≤ o ∧ o < 0x180000 then Table.get 0 m.roots ((o - 0x100000) / 8)
  else if 0x200000 ≤ o ∧ o < 0x240000 then
    let n := (o - 0x200000) / 4
    BitVec.ofNat 64 (mapEntry s.sched.maps n + mapEntry s.sched.maps (n + 1) * 2 ^ 32)
  else if 0x240000 ≤ o ∧ o < 0x248000 then BitVec.ofNat 64 (mapDescriptor s.sched.maps ((o - 0x240000) / 8))
  else 0

/-- BAR2 (R297); other offsets read 0. -/
def readBar2 (s : State) (o : Nat) : Word :=
  if o < 0x800000 then lowUnit s o
  else if o < 0x1000000 then dieUnit s ((o - 0x800000) / 2 ^ 20) (o % 2 ^ 20)
  else if o < 0x2000000 then sliceUnit (s.slice ((o - 0x1000000) / 2 ^ 16)) (o % 2 ^ 16)
  else if 0x4000000 ≤ o ∧ o < 0x4000000 + Config.cores * 2 ^ 20 then coreUnit s ((o - 0x4000000) / 2 ^ 20) (o % 2 ^ 20)
  else if 0x40000000 ≤ o ∧ o < 0x40000000 + Config.cores * 2 ^ 20 then maskUnit s ((o - 0x40000000) / 2 ^ 20) (o % 2 ^ 20)
  else 0

/-- What a read of the 8-byte unit at an offset of BAR0 or BAR2 returns. -/
def readRegister (s : State) (bar : BitVec 3) (offset : Nat) : Word :=
  let o := offset / 8 * 8
  if bar = 0 then readBar0 s (o % 2 ^ 16)
  else if bar = 2 then readBar2 s (o % 2 ^ 32)
  else 0

end Sys2Proof.Machine
end

