-- ==== Sys2Proof/Tests/States.lean ====
section
/-! SUPPORT. Small states for the tests, and what a checked answer gives. -/

set_option Elab.async false

namespace Sys2Proof.Tests
open Sys2Proof.Machine Sys2Proof.Claims

/-- A supervisor task on partition 0 of core 0, at 0x1000, with the first 2 MiB of device memory mapped at its own
addresses; its registers are 0. -/
def m0 : State := beginIssue (serve (launched State.reset) { core := 0, part := 0, tail := false })

/-- x registers. -/
def regs (s : State) (l : List (Nat × Word)) : State := s.setMe { s.me with x := l }
/-- Bytes of memory. -/
def bytes (s : State) (a : Nat) (bs : List Byte) : State := { s with mem := s.mem.write a bs }
/-- VTY and VL. -/
def typed (s : State) (ty : Word) (vl : Nat) : State := s.setMe { s.me with vty := ty, vl := vl }
/-- The task's header. -/
def headed (s : State) (h : BitVec 512) : State := s.setMyTask { s.task with header := h }
/-- The same task in U-mode, and as an atomic task. -/
def user (s : State) : State := headed s 0
def atom (s : State) : State := headed s (BitVec.ofNat 512 (2 ^ 205))

/-- An answer that is not an error. -/
def isOk {ε α : Type} : Except ε α → Bool
  | .ok _ => true
  | .error _ => false
theorem ok_of {ε α : Type} {e : Except ε α} (h : isOk e = true) : ∃ a, e = .ok a := by
  cases e with
  | ok a => exact ⟨a, rfl⟩
  | error _ => cases h

/-- The place that a check answers, if any. -/
def got (e : Except Halt Target) : Target := match e with
  | .ok t => t
  | .error _ => { loc := 0, home := .local, cache := 0, grain := 0, fill := none, tlb := none }
theorem is_got {e : Except Halt Target} (h : isOk e = true) : e = .ok (got e) := by
  cases e with
  | ok a => rfl
  | error _ => cases h

/-- What a computation answers, or a value given for an error. -/
def val {ε α : Type} (d : α) (e : Except ε α) : α := match e with
  | .ok a => a
  | .error _ => d
theorem is_val {ε α : Type} {e : Except ε α} (d : α) (h : isOk e = true) : e = .ok (val d e) := by
  cases e with
  | ok a => rfl
  | error _ => cases h
theorem is_pair {ε α β : Type} {e : Except ε (α × β)} (d : α × β) (h : isOk e = true) : e = .ok ((val d e).1, (val d e).2) := is_val d h
theorem is_unit {ε : Type} {e : Except ε Unit} (h : isOk e = true) : e = .ok () := is_val () h
theorem is_some {α : Type} {e : Option α} (d : α) (h : e.isSome = true) : e = some (e.getD d) := by
  cases e with
  | some a => rfl
  | none => cases h

/-- A write or a post that is done. -/
def isDone : Try → Bool
  | .done _ => true
  | _ => false
theorem is_done {t : Try} (h : isDone t = true) : ∃ u, t = .done u := by
  cases t <;> simp_all [isDone]

/-- No atomic task runs that a write of the acting one could abort; and the acting context can publish its stores. -/
def calm (s : State) : Bool := s.tasks.all (fun e => !isVictim s.taskId e)
theorem calm_spec {s : State} (h : calm s = true) : NoVictims s := by
  intro e he
  have := List.all_eq_true.mp h e he
  simpa using this
def canRel (s : State) : Bool :=
  !s.task.atomic && !releaseHeld s s.turn && decide (admitted s s.me.pend = s.me.pend) && calm s
    && decide (s.me.pend.Pairwise (fun a b => a.1 < b.1)) && s.me.pend.all (fun b => match homeOfLoc b.1 with
      | .scratch c => decide (c = s.turn.core) || decide ((s.core c).colour = some s.task.colour)
      | _ => true)
theorem canRel_spec {s : State} (h : canRel s = true) : CanRelease s := by
  simp only [canRel, Bool.and_eq_true, Bool.not_eq_true', decide_eq_true_eq] at h
  refine ⟨h.1.1.1.1.1, h.1.1.1.1.2, h.1.1.1.2, calm_spec h.1.1.2, h.1.2, fun b hb c hc => ?_⟩
  have := List.all_eq_true.mp h.2 b hb
  simpa [hc] using this

/-- Places that can be written, byte by byte. -/
def writableB (s : State) (a n : Nat) : Bool :=
  (List.range n).all (fun i => !s.sectorBad (sectorOf (a + i)) && !ownerGone s (lineOf (a + i)))
theorem writable_of {s : State} {a n : Nat} (h : writableB s a n = true) : Writable s a n := by
  rintro l ⟨hl, hu⟩
  obtain ⟨i, rfl⟩ : ∃ i, l = a + i := ⟨l - a, by omega⟩
  have := List.all_eq_true.mp h i (by simpa using (by omega : i < n))
  simpa using this

/-- Unpublished stores of the acting context. -/
def held (s : State) (l : Table Byte) : State := s.setMe { s.me with pend := l }
/-- An entry of the range table: blocks of 4 KiB from 0x100000, 1 MiB of them; its FSTAB lies at 0x80000, its two
generator slots of 64 bytes at 0x90000. -/
def aRange : BitVec 512 :=
  BitVec.ofNat 512 (0x100000 + 0x100000 * 2 ^ 64 + 2 ^ 133 + 0x10 * 2 ^ 160 + 0x80000 * 2 ^ 192 + 64 * 2 ^ 256 + 2 * 2 ^ 304
    + 0x90000 * 2 ^ 320 + 0x1000 * 2 ^ 384)
def ranged (s : State) : State := { s with fill := { s.fill with ranges := [(3, aRange)] } }
/-- The acting task generates block 1 of it. -/
def generator (s : State) : State :=
  let r := bytes (ranged s) 0x80000 [4]
  let f : Fill := ⟨⟨3, 1⟩, some 1, some 0, 0, none, [.task 7]⟩
  { r with fill := { r.fill with fills := [f], slots := [(3, 0, 1)] } }
/-- The acting task has a role in a gang with pipe 0, from role 1 to role 2. -/
def gangOn (s : State) (role full : Nat) (done : BitVec 3) : State :=
  let g : GangHere := ⟨1, 7, 1, 9, done, [(0, ⟨15, full, [(15, 7)]⟩)]⟩
  let r := s.setMyTask { s.task with gang := 1, role := role }
  r.setMyCore { r.myCore with gang := some g }
def hereGang (s : State) : GangHere := s.myCore.gang.getD { id := 0, roles := 0, pipes := 0, pmap := 0, done := 0, pipe := [] }

/-- The conditions of a form that depends on VTY, but for the types that the form accepts. -/
def vecB (s : State) (ty : ElTy) (tiles : List Reg) (rm : Option (BitVec 3)) : Bool :=
  !vtyIll s.me.vty && (!ty.ovr || decide (s.vl ≤ s.vlmaxAt ty.sew))
    && tiles.all (fun r => decide (r.toNat % s.gf = 0 ∧ (ty.blen ≠ 0 → r.toNat + s.gf + scaleRegs s.gf ≤ 32)))
    && (match rm with | some m => decide (s.roundMode m ≤ 4) | none => true)
theorem vec_ok {s : State} {ty : ElTy} {p : Prop} {tiles : List Reg} {rm : Option (BitVec 3)} (h : vecB s ty tiles rm = true) (hp : p) :
    VecOk s ty p tiles rm := by
  simp only [vecB, Bool.and_eq_true, Bool.not_eq_true', List.all_eq_true, decide_eq_true_eq, Bool.or_eq_true] at h
  refine ⟨h.1.1.1, hp, fun ho => ?_, h.1.2, fun m hm => ?_⟩
  · simpa [ho] using h.1.1.2
  · subst hm; simpa using h.2

/-- The page at 0 under a leaf, in memory of a home-map entry. -/
def paged (s : State) (leaf : Word) (map : Nat) : State :=
  let t := s.setMyCore { s.myCore with tlb := [{ colour := 0, page := 0, size := 2 ^ 21, leaf := leaf, leased := [] }] }
  { t with mgmt := { t.mgmt with homemap := [(0, BitVec.ofNat 32 map)] } }

/-- Supervisor queue 0 of die 0: 16 records at 0x6000, handler header at 0x5000. -/
def supQueue (s : State) : State :=
  s.setDie 0 { s.die 0 with supq := [(0, BitVec.ofNat 512 (0x6000 + 4 * 2 ^ 64 + 0x5000 * 2 ^ 256))] }

end Sys2Proof.Tests
end

