-- ==== Sys2Proof/Tests/Device.lean ====
section
/-! SUPPORT. States and operands that meet the premises of the statements about events of the device and its host, and about a step. -/

set_option Elab.async false

namespace Sys2Proof.Tests
open Sys2Proof.Machine Sys2Proof.Claims

/-! ### Queues and dispatch -/

/-- A directory entry of the line. -/
def listed (s : State) (line : Nat) (d : DirEntry) : State := setDir s line d
def lease1 : DirEntry := { DirEntry.empty with nlease := 1, exp := 100, rdev0 := some 9 }
def owned9 : DirEntry := { DirEntry.empty with rown := true, rdev0 := some 9 }

/-- A bind record: kind, colour, window, cores of the die. -/
def rec (kind colour wstart wend cores : Nat) : BindRec :=
  BitVec.ofNat 512 (1 + kind * 4 + 0o210 * 2 ^ 160 + colour * 2 ^ 192 + cores * 2 ^ 288 + wstart * 2 ^ 384 + wend * 2 ^ 448)
def bound (s : State) (die : Nat) (rs : Table BindRec) : State := s.setDie die { s.die die with bind := rs }
/-- Core 5 is open to colour 0. -/
def open5 : State := bound m0 0 [(2, rec 1 0 0 0 (2 ^ 5))]
def entry : QEntry := copyOf 0 0 0

theorem witness_dispatch :
    let s := open5.setSeg 7 { Seg.empty with entries := [entry] }
    let u := (dispatchTo s 5 0).getD s
    dispatchTo s 5 0 = some u ∧ takeFromSeg s 5 0 7 entry = some ((takeFromSeg s 5 0 7 entry).getD s) ∧ entry.run = false ∧ entry.task = none :=
  ⟨is_some _ (by decide +kernel), is_some _ (by decide +kernel), rfl, rfl⟩
theorem witness_steal :
    let s := open5.setCore 6 { Core.empty with deque := [entry, entry, entry] }
    idlePart s 5 = some 0 ∧ stealable s 5 0 6 = [entry, entry, entry] ∧ idlePart open5 5 = some 0 ∧ stealable open5 5 0 6 = [] := by
  decide +kernel
theorem witness_migrate :
    let s := (bound m0 1 [(0, rec 1 0 0 0 (2 ^ 16 - 1))]).setSeg 9 { Seg.empty with entries := List.replicate 513 entry }
    overloaded s 0 0 = true ∧ advertises s 1 0 = true
    ∧ ((List.range 32).map (fun i => 32 * 0 + i)).find? (fun n => (s.seg n).entries.any (mayMigrate s 0)) = some 9 := by decide +kernel
theorem witness_arrive_team :
    let tm : Team := ⟨0, 1, 0, [entry]⟩
    let s := { m0 with sched := { m0.sched with teams := [tm] } }
    s.sched.teams = tm :: [] ∧ teamFits s = true := ⟨rfl, by decide +kernel⟩
theorem witness_generator :
    let g := generator m0
    let f : Fill := ⟨⟨3, 1⟩, none, none, 0, none, [.task 7]⟩
    let s := { g with fill := { g.fill with fills := [f] } }
    fillOf s ⟨3, 1⟩ = some f ∧ f.slot = none ∧ freeSlot s 3 = some 1 ∧ queueRoom s (generatorHeader s ⟨3, 1⟩ 1) (rangeColour (s.range 3)) none = true := by
  decide +kernel
theorem witness_task_events :
    let w := m0.setMe { m0.me with wait := some (.barrier 0) }
    let b := m0.setMyTask { m0.task with retryAt := some m0.time }
    let a := (atom m0).setMyTask { (atom m0).task with reads := [16, 17], others := [17] }
    (w.ctx m0.turn).wait.isSome = true ∧ (b.taskAt 1).retryAt = some m0.time ∧ (a.taskAt 1).atomic = true ∧ (a.taskAt 1).live = true
    ∧ (∃ x ∈ (a.taskAt 1).others, x ∈ (a.taskAt 1).reads) := by decide +kernel

/-! ### Launches -/

/-- A launch ring of 16 records at 0x4000 with one record to read. -/
def launchRing (s : State) (base : Word) : State := { s with bar0 := { s.bar0 with lrsize := 4, lrbase := base, lrtail := 1 } }
theorem witness_launch_ring :
    let s := launchRing m0 0x4000
    let n := launchRing m0 0x8000000000000000
    let a := s.bar0.lrbase.toNat + 64 * (s.bar0.lrhead.toNat % 2 ^ (s.bar0.lrsize.toNat % 32))
    s.bar0.ready = true ∧ s.bar0.lrsize ≠ 0 ∧ s.bar0.lrhead ≠ s.bar0.lrtail ∧ s.sched.accepting = none ∧ physical s a = some (.local, 0x4000) ∧ recordLine s = none
    ∧ (∀ x ∈ sectorsAt 0x4000 64, s.sectorBad x = false)
    ∧ n.bar0.ready = true ∧ physical n (n.bar0.lrbase.toNat + 64 * (n.bar0.lrhead.toNat % 2 ^ (n.bar0.lrsize.toNat % 32))) = none
    ∧ ((0x10 : Word).toNat % 2 ^ 32 + 2 ^ 32 - s.bar0.lrhead.toNat) % 2 ^ 32 ≤ 2 ^ (s.bar0.lrsize.toNat % 32)
    ∧ 2 ^ (s.bar0.lrsize.toNat % 32) < ((0x11 : Word).toNat % 2 ^ 32 + 2 ^ 32 - s.bar0.lrhead.toNat) % 2 ^ 32 := by decide +kernel

/-- The record lies in a line that device 9 owns; and in a poisoned sector. -/
theorem witness_launch_ring_ends :
    let s := launchRing m0 0x4000
    let o := listed s 128 owned9
    let b := { s with poison := [512] }
    recordLine o = some 128 ∧ asked o 128 = false ∧ recordLine b = none ∧ 512 ∈ sectorsAt 0x4000 64 ∧ b.sectorBad 512 = true := by decide +kernel

/-- Launch 7, with its record accepted next or waiting for its turn. -/
def launch (s : State) (l : Launch) (acc : Option Nat) : State := { s with sched := { s.sched with launches := [(7, l)], accepting := acc, nextLaunch := 8 } }
/-- KIND 01: one header at 0x200; it reads handle 3 and writes handle 4, listed at 0x300. -/
def anArray : LaunchRec := BitVec.ofNat 512 (0x200 + 2 ^ 64 + 2 ^ 320 + 2 ^ 368 + 2 ^ 376 + 0x300 * 2 ^ 384)
theorem witness_launch_accept :
    let s := launch (bytes m0 0x300 [3, 0, 0, 0, 4]) { Launch.empty with record := anArray } (some 7)
    let b := launch m0 { Launch.empty with record := BitVec.ofNat 512 (2 ^ 66) } (some 7)
    s.sched.accepting = some 7 ∧ launchFields anArray = true ∧ handleList s anArray = .ok ([3], [4]) ∧ launchLoad s anArray = .ok ([0], 1)
    ∧ s.sched.handles.length + 2 ≤ 4096 ∧ (lKind anArray = 1 → staged s + 1 ≤ 1048576)
    ∧ b.sched.accepting = some 7 ∧ launchFields (Table.get Launch.empty b.sched.launches 7).record = false
    ∧ (Table.get Launch.empty b.sched.launches 7).map = none := by decide +kernel
/-- Its handle list lies in a line that device 9 owns; and where no memory is. -/
theorem witness_launch_lists :
    let s := listed (launch (bytes m0 0x300 [3, 0, 0, 0, 4]) { Launch.empty with record := anArray } (some 7)) 6 owned9
    let n : LaunchRec := BitVec.ofNat 512 (2 ^ 368 + 0x400000 * 2 ^ 384)
    launchFields anArray = true ∧ (awaited (handleList s anArray)).or (awaited (launchLoad s anArray)) = some 6 ∧ asked s 6 = false
    ∧ awaited (handleList m0 n) = none ∧ awaited (launchLoad m0 n) = none ∧ isOk (handleList m0 n) = false := by decide +kernel
/-- A graph that ends with STATUS 4 while a node of its map never became ready. -/
theorem witness_launch_bad :
    let l : Launch := { Launch.empty with record := BitVec.ofNat 512 (2 * 2 ^ 64 + 0x800 * 2 ^ 448), released := true, left := 1, bad := true, map := some 5 }
    let s := launch m0 l none
    let t := { (s.setDie 0 { s.die 0 with cnt := [(9, BitVec.ofNat 128 (1 + 2 ^ 64 * 5 + 2 ^ 76))] }) with sched := { s.sched with maps := [(5, [9])] } }
    Table.find t.sched.launches 7 = some l ∧ launchOver t 7 l = true ∧ l.map = some 5 ∧ 9 ∈ unready t 5 ∧ lCring l.record ≠ 0 := by decide +kernel
theorem witness_launch_end :
    let l : Launch := { Launch.empty with record := anArray, headers := [0], left := 1 }
    let r : Launch := { Launch.empty with record := BitVec.ofNat 512 (0x800 * 2 ^ 448), released := true }
    releasable (launch m0 l none) 7 l = true ∧ Table.find (launch m0 l none).sched.launches 7 = some l
    ∧ launchOver (launch m0 r none) 7 r = true ∧ lCring r.record ≠ 0 ∧ Table.find (launch m0 r none).sched.launches 7 = some r := by decide +kernel
/-- A graph of two nodes at 0x200, in dies 0 and 7. -/
theorem witness_graph :
    let l : Launch := { Launch.empty with record := BitVec.ofNat 512 (0x200 + 2 * 2 ^ 64), released := true, left := 2 }
    let s := launch (bytes m0 0x200 (bytesOf 48 (2 + 2 ^ 128 + 3 * 2 ^ 256 + 7 * 2 ^ 288))) l none
    Table.find s.sched.launches 7 = some l ∧ (∃ u, expandGraph s 7 = .done u)
    ∧ graphNodes s (lColour l.record) (lTarget l.record) = .ok [1, BitVec.ofNat 128 (3 + 7 * 2 ^ 32)]
    ∧ (∀ e ∈ ([1, BitVec.ofNat 128 (3 + 7 * 2 ^ 32)] : List (BitVec 128)), bitsOf e 31 0 ≠ 0) := by
  refine ⟨by decide +kernel, is_done (by decide +kernel), by decide +kernel, fun e he => ?_⟩
  simp only [List.mem_cons, List.not_mem_nil, or_false] at he
  rcases he with rfl | rfl <;> decide +kernel
/-- A gang of one core, 5, with three roles: it fits; and a task holds one of the partitions. -/
def gangLaunch : Launch :=
  { Launch.empty with record := BitVec.ofNat 512 (0x200 + 3 * 2 ^ 64), released := true, headers := [BitVec.ofNat 512 (2 ^ 192 + 7 * 2 ^ 216), 0, 0, 0] }
def calling : State :=
  bound (launch m0 gangLaunch none) 0 [(2, rec 2 0 0 0 (2 ^ 5) ||| BitVec.ofNat 512 (0x200 * 2 ^ 231))]
theorem witness_gang :
    let r := rec 2 0 0 0 (2 ^ 5) ||| BitVec.ofNat 512 (0x200 * 2 ^ 231)
    let busy := calling.setPartAt 5 1 { Part.empty with task := some 1 }
    Table.find calling.sched.launches 7 = some gangLaunch ∧ pendingGang gangLaunch = true ∧ gangRec calling gangLaunch = some (0, 2, r)
    ∧ calling.mgmt.stopped = false ∧ (∀ c ∈ recCores 0 r, coreFits calling 7 c (gangLaunch.headers.headD 0) r = true) ∧ recCores 0 r = [5]
    ∧ gangRec busy gangLaunch = some (0, 2, r) ∧ coreFits busy 7 5 (gangLaunch.headers.headD 0) r = false ∧ gangFor busy 5 = some 7 := by
  decide +kernel
theorem witness_reservation :
    let s := bound { m0 with time := 9 } 0 [(2, rec 2 0 0 9 1)]
    bOpen (s.bindRec 0 2) s.time = false := by decide +kernel

/-! ### Bells -/

/-- Colour 0 gives core 0 to colour 1 at time 10. -/
def switching (t : Nat) : State := bound { m0 with time := t } 0 [(0, rec 1 0 0 10 1), (1, rec 1 1 10 0 1)]
def rung (t : Nat) : State := let s := switching t; s.setDie 0 { s.die 0 with bellAt := [(0, 10)] }
theorem witness_bell : bellRings (switching 10) 0 0 = true ∧ bellRings (switching 9) 0 0 = false := by decide +kernel
theorem fst_none {α β : Type} {p : α × Option β} (h : p.2.isNone = true) : p = (p.1, none) :=
  Prod.ext rfl (Option.isNone_iff_eq_none.mp h)
theorem witness_deadline :
    let s := atom (rung 20010)
    let r := s.bindRec 0 0
    let e := stopAll s ((bellCores s 0 r).flatMap (tasksOn s))
    graceOver s 0 0 = true ∧ bellCores s 0 r = [0] ∧ e = (e.1, none) :=
  ⟨by decide +kernel, by decide +kernel, fst_none (by decide +kernel)⟩
/-- The task's spill area lies in a line that device 9 owns. -/
theorem witness_deadline_asks :
    let r := rung 20010
    let s := listed (r.setMyTask { r.task with split := 3 }) 0 owned9
    graceOver s 0 0 = true ∧ (stopAll s ((bellCores s 0 (s.bindRec 0 0)).flatMap (tasksOn s))).2 = some 0 := by decide +kernel
theorem witness_bell_closes : bellOn (switching 10) 0 ((switching 10).bindRec 0 0) (0 % Config.coresPerDie) = true := by decide +kernel
theorem witness_switch :
    let s := (rung 20010).setCore 0 Core.empty
    let v : Saved := ⟨0, 0, 0, [(5, Core.empty)], [], [], [], [], [], [], [], []⟩
    let b := { open5 with saved := [v] }
    switchDone s 0 0 = true ∧ switchDone b 0 2 = false ∧ (b.die 0).bind = [(2, rec 1 0 0 0 (2 ^ 5))]
    ∧ restorable b 0 (rec 1 0 0 0 (2 ^ 5)) = [5] := by decide +kernel

/-! ### Messages, requests and records -/

def msg (w0 w1 w2 w3 : Word) : Msg := ⟨w0, w1, w2, w3, 0, 0, 1, 0, none, 0, 0, [], 0, []⟩
/-- A request at the head of the inbox of an engine of cluster 0. -/
def inboxed (s : State) (eng : Nat) (m : Msg) : State := s.setCluster 0 { s.cluster 0 with inbox := [(eng, [m])] }
def taken (s : State) (eng : Nat) : State := ((takeRequest s 0 eng).getD (msg 0 0 0 0, s)).2

theorem witness_delivery :
    let good := msg 0 0 0 0
    let bad := msg (5 * 2 ^ 48) 1 2 0
    let s := m0.setPart { m0.part with fifo := [good] }
    let t := m0.setPart { m0.part with fifo := [bad] }
    (s.partAt 0 0).fifo = good :: [] ∧ (inboxOf s good).length < 64 ∧ s.sched.diverts = [] ∧ (mKey good) ∈ keysFor s good
    ∧ (t.partAt 0 0).fifo = bad :: [] ∧ (mKey bad) ∉ keysFor t bad := by decide +kernel
/-- One with a wrong key behind an earlier message of its hart; and one that asks for a completion record. -/
theorem witness_delivery_order :
    let bad := msg (5 * 2 ^ 48) 1 2 0
    let s := inboxed (m0.setPart { m0.part with fifo := [bad] }) 0 (msg 0 0 0 0)
    let r := msg (5 * 2 ^ 48) 1 2 (2 * 2 ^ 62)
    (mKey bad) ∉ keysFor s bad ∧ earlier s bad ≠ [] ∧ (inboxOf s bad).length < 64 ∧ mRkind r = 2 ∧ earlier m0 r = [] ∧ savedAhead m0 r = false
    ∧ recordAhead m0 r = false := by
  decide +kernel
/-- A copy and a fill of 32 and of 1 bytes. -/
theorem witness_copies :
    let c := msg 32 0x200 0x400 0
    let f := msg (2 ^ 32 + 1) 0x77 0x41F 0
    let s := inboxed m0 0 c
    let t := inboxed m0 0 f
    let u := noteReads (taken s 0) c (copyPieces c (mLen c))
    let v := noteReads (taken t 0) f (copyPieces f (mLen f))
    let dst := engineWrite u c c.w2 (mLen c)
    let src := engineRead (taken s 0) c c.w1 (mLen c)
    let dst' := engineWrite v f f.w2 (mLen f)
    (mOp c = 0 ∧ mOp f = 1 ∧ (∀ m ∈ [c, f], bitsOf m.w0 30 24 = 0 ∧ m.done = 0 ∧ m.pend = [] ∧ mRkind m = 0 ∧ 0 < mLen m
      ∧ m.w2.toNat % 32 + mLen m ≤ 32) ∧ c.w1.toNat % 32 + mLen c ≤ 32 ∧ takeRequest s 0 0 = some (c, taken s 0)
      ∧ takeRequest t 0 0 = some (f, taken t 0) ∧ homeOfLoc 0x400 = .local)
    ∧ dst = .ok (got dst) ∧ src = .ok (got src) ∧ dst' = .ok (got dst') ∧ Writable u (got dst).loc 32 ∧ Calm s ∧ Calm t :=
  ⟨by decide +kernel, is_got (by decide +kernel), is_got (by decide +kernel), is_got (by decide +kernel), writable_of (by decide +kernel),
   by unfold Calm; decide +kernel, by unfold Calm; decide +kernel⟩
theorem witness_prefill :
    let m := msg (3 * 2 ^ 44) 0x101000 0 (2 * 2 ^ 62)
    let s := fun b => let r := bytes (ranged m0) 0x80000 [b]; { r with fill := { r.fill with inbox := [m] } }
    (∀ b ∈ ([0, 4, 8] : List Byte), ((takePrefill (s b)).map (·.1)) = some m ∧ blockAt ((takePrefill (s b)).getD (m, s b)).2 m.w1 = some ⟨3, 1⟩)
    ∧ mEng m = 3 ∧ mOp m = 0 ∧ mArg m = 0 ∧ m.w2 = 0 ∧ mRkind m = 2 ∧ fillState (s 8) ⟨3, 1⟩ = .filled ∧ fillState (s 4) ⟨3, 1⟩ = .turning
    ∧ fillState (s 0) ⟨3, 1⟩ = .blank := by
  decide +kernel

/-- A request's writes can be published: they lie outside scratchpads. -/
def publishB (s : State) (m : Msg) : Bool :=
  decide (admitted s m.pend = m.pend) && s.tasks.all (fun e => !isVictim 0 e)
    && m.pend.all (fun b => match homeOfLoc b.1 with | .scratch _ => false | _ => true)
theorem publish_of {s : State} {m : Msg} (h : publishB s m = true) : CanPublish s m := by
  simp only [publishB, Bool.and_eq_true, decide_eq_true_eq, List.all_eq_true] at h
  refine ⟨h.1.1, fun e he => ?_, fun b hb c hc => ?_⟩
  · simpa using h.1.2 e he
  · simpa [hc] using h.2 b hb

/-- A triangle that covers the first pixel of the first tile, for one view. -/
def aSetup : Nat := 0x200 + 0x200 * 2 ^ 96 + 2 ^ 320
theorem a_record : viewRecords (BitVec.ofNat 512 aSetup) 0 (0, 0) = [1] := by decide +kernel
def aRast : Msg := msg (2 ^ 44 + 1) 0x400 0x800 0
def rasting : State := inboxed (bytes m0 0x400 (bytesOf 64 aSetup)) 1 aRast
theorem witness_rast :
    let s1 := taken rasting 1
    let d : Setup := BitVec.ofNat 512 aSetup
    let views := (List.range 128).filter (fun v => bitOf d (320 + v))
    let recs := views.flatMap (fun v => viewRecords d v (0, 0))
    let u := noteReads s1 aRast (sectorPieces aRast.w1.toNat 64 ++ offsetReads d views)
    let tg := fun (_ : Nat) => got (engineWrite u aRast 0x800 16)
    let ps := (List.range recs.length).map (fun i => (tg i, 16))
    (takeRequest rasting 0 1 = some (aRast, s1) ∧ mOp aRast = 0 ∧ mArg aRast < 2 ^ 16 ∧ mRkind aRast = 0 ∧ aRast.pend = [] ∧ aRast.kept = []
      ∧ aRast.w2.toNat % 16 = 0 ∧ setupOk d = true ∧ bitsOf d 511 448 = 0 ∧ 0 < mArg aRast)
    ∧ structAt s1 aRast aRast.w1.toNat 64 64 = .ok aSetup ∧ recs = [1] ∧ recs.length ≤ mArg aRast
    ∧ (∀ i < recs.length, engineWrite u aRast (BitVec.ofNat 64 (aRast.w2.toNat + 16 * i)) 16 = .ok (tg i))
    ∧ CanPublish (ps.foldl noteWrite (noteWalks u aRast aRast.w2 (16 * recs.length))) (aRast.wrote (writesTo ps (recordBytes recs))) := by
  intro s1 d views recs u tg ps
  have hv : views = [0] := by decide +kernel
  have hr : recs = [1] := by simp only [recs, hv, List.flatMap_cons, List.flatMap_nil, List.append_nil]; exact a_record
  refine ⟨by decide +kernel, by decide +kernel, hr, by rw [hr]; decide +kernel, fun i hi => ?_, ?_⟩
  · rw [hr] at hi
    obtain rfl : i = 0 := by simpa using hi
    exact is_got (by decide +kernel)
  · simp only [ps, hr]
    exact publish_of (by decide +kernel)
/-- A table of offsets, and a sub-tile of the mask. -/
theorem witness_rast_offsets :
    let d : Setup := BitVec.ofNat 512 (2 ^ 320 + 0x600 * 2 ^ 448)
    bitsOf d 511 448 ≠ 0 ∧ structAt (taken rasting 1) aRast (bitsOf d 511 448 + 8 * 0) 8 8 = .ok 0 ∧ (7 : Nat) < 8 := by decide +kernel

/-- A ray that meets an empty root node. -/
theorem no_children (r : RayRec) (t : Nat) (order : List Nat) : visitedChildren r t 0 order = [] := by
  have h : (upTo 8).filter (fun j => decide (nodeRef 0 j ≠ 0)) = [] := by decide +kernel
  unfold visitedChildren
  rw [h]
  simp [List.eraseDups, List.eraseDupsBy, List.eraseDupsBy.loop]
theorem empty_root (s : State) (m : Msg) (tr : Tracing) (limit a n : Nat) (w : Walk) (hb : w.best = none) (hd : w.deep = 0)
    (h : structAt s m a 128 128 = .ok 0) :
    Machine.traverse s m tr limit (n + 2) [⟨.node a, none⟩] w = ({ w.reads a 128 with cnt := w.cnt + 1 }, .over) := by
  have h0 : nodeOk 0 = true := by decide +kernel
  simp [Machine.traverse, visit, h, h0, no_children, Walk.reads, hb, hd]
def aTrace : Msg := msg (2 ^ 44 + 2 ^ 32) 0x401 0x800 0
def tracing : State := inboxed (bytes m0 0x401 (bytesOf 64 (0x1000 * 2 ^ 256))) 1 aTrace
/-- What that ray has done. -/
def aWalk (s : State) : Walk :=
  { ((⟨none, 0, s.freeCnt, []⟩ : Walk).reads 0x401 64).reads 0x1000 128 with cnt := s.freeCnt + 1 }
theorem empty_trace (s : State) (m : Msg) (tr : Tracing) (hm : m.w1 = 0x401) (h : structAt s m 0x401 64 1 = .ok (0x1000 * 2 ^ 256))
    (hr : rayOf (0x1000 * 2 ^ 256) (bitOf m.w0 10) = some tr) (h0 : structAt s m 0x1000 128 128 = .ok 0) :
    traceRay s m 0 = (aWalk s, .over) := by
  have := empty_root s m tr (16 + bitsOf m.w0 15 11) 0x1000 (2 ^ 64 - 2) ((⟨none, 0, s.freeCnt, []⟩ : Walk).reads 0x401 64) rfl rfl h0
  have hw : m.w1.toNat + 64 * 0 = 0x401 := by rw [hm]; rfl
  simp only [traceRay, hw, h, hr]
  exact this
theorem witness_trace :
    let s1 := taken tracing 1
    let w := aWalk s1
    let r := { noteReads s1 aTrace w.read with freeCnt := w.cnt }
    let e := storePieces r aTrace (sectorPieces (BitVec.ofNat 64 (aTrace.w2.toNat + 32 * aTrace.done)).toNat 32)
    let items := [(w, val [] e)]
    (takeRequest tracing 0 1 = some (aTrace, s1) ∧ mOp aTrace = 1 ∧ mRkind aTrace = 0 ∧ aTrace.done = 0 ∧ aTrace.pend = [] ∧ aTrace.fcode = 0
      ∧ bitsOf aTrace.w0 31 29 = 0 ∧ aTrace.w2.toNat % 32 = 0 ∧ bitsOf aTrace.w0 15 11 = 0 ∧ items.length = bitsOf aTrace.w0 9 0 + 1)
    ∧ RaysEnd s1 aTrace items :=
  ⟨by decide +kernel,
   empty_trace _ _ _ rfl (by decide +kernel) (is_some ⟨⟨[], [], 0, 0⟩, 0, 0, false⟩ (by decide +kernel)) (by decide +kernel),
   by decide +kernel, is_val _ (by decide +kernel), publish_of (by decide +kernel)⟩

/-- One entry at (0, 0) of a texture of one texel. -/
def aSample : Msg := msg (2 * 2 ^ 44 + 1) 0x400 0x800 0
def sampling : State := inboxed (bytes m0 0x400 (bytesOf 64 0xC00)) 2 aSample
theorem witness_sample :
    let s1 := taken sampling 2
    let desc : TexDesc := BitVec.ofNat 512 0xC00
    let s0 := noteReads s1 aSample (sectorPieces aSample.w1.toNat 64)
    let e := sampleEntry s0 aSample desc
    let v := val ([], s0) e
    let p := storePieces v.2 aSample (sectorPieces (BitVec.ofNat 64 (aSample.w2.toNat + 16 * aSample.done)).toNat 16)
    let items := [(v.1, val [] p)]
    (takeRequest sampling 0 2 = some (aSample, s1) ∧ mOp aSample = 0 ∧ mArg aSample = 1 ∧ mRkind aSample = 0 ∧ aSample.done = 0
      ∧ aSample.pend = [] ∧ aSample.w2.toNat % 16 = 0 ∧ descOk desc = true ∧ items.length = mArg aSample)
    ∧ structAt s1 aSample aSample.w1.toNat 64 64 = .ok 0xC00 ∧ EntriesEnd desc s0 aSample items :=
  ⟨by decide +kernel, by decide +kernel, _, is_pair _ (by decide +kernel), is_val _ (by decide +kernel), publish_of (by decide +kernel)⟩
/-- The taps of that entry. -/
theorem witness_sample_entry :
    let s := taken sampling 2
    let p := planOf (BitVec.ofNat 512 0xC00) 0 0 (lodGiven 0)
    let e := sampleReads s aSample (planAccs (BitVec.ofNat 512 0xC00) 0 p)
    structAt s aSample (aSample.w1.toNat + 64 + 16 * aSample.done) 16 16 = .ok 0 ∧ e = .ok (val [] e) :=
  ⟨by decide +kernel, is_val _ (by decide +kernel)⟩

/-! ### Records -/

/-- A due record for a ring at an address, and the ring: 4 slots at 0x9000. -/
def due (ring : Word) : DueRecord := ⟨ring, 0, 0, 3, none, none, none, false, [], none⟩
def dueIn (s : State) (ring : Nat) (e : Nat) : State := bytes { s with sched := { s.sched with due := [due (BitVec.ofNat 64 ring)] } } ring (bytesOf 32 e)
def aRing : Nat := 0x9000 + 2 * 2 ^ 64
def isWritten : RingWrite → Bool | .written _ => true | _ => false
def isFailed : RingWrite → Bool | .failed _ => true | _ => false
def asksFor : RingWrite → Option Nat | .ask line => some line | _ => none
def isFull : RingWrite → Bool | .full => true | _ => false
theorem of_written {w : RingWrite} (h : isWritten w = true) : ∃ u, w = .written u := by cases w <;> simp_all [isWritten]
theorem of_failed {w : RingWrite} (h : isFailed w = true) : ∃ u, w = .failed u := by cases w <;> simp_all [isFailed]
theorem of_asks {w : RingWrite} {n : Nat} (h : asksFor w = some n) : w = .ask n := by cases w <;> simp_all [asksFor]
theorem of_full {w : RingWrite} (h : isFull w = true) : w = .full := by cases w <;> simp_all [isFull]
theorem witness_completion_records :
    let s := dueIn m0 0x8000 aRing
    let u := devNoted s 0 0x8000 32
    let w1 := devWrite u 0 (0x8000 + 20) (bytesOf 4 1)
    let s1 := val u w1
    let w2 := devWrite s1 0 (0x9000 + 4) ((bytesOf 32 0).drop 4)
    let s2 := val s1 w2
    (s.sched.due = due 0x8000 :: [] ∧ (due 0x8000).pend = [] ∧ devRead s 0 0x8000 32 = .ok (bytesOf 32 aRing)
      ∧ awaited (devPlaces s 0 (0x8000 + 20) 4) = none ∧ awaited (devPlaces s 0 0x9000 32) = none)
    ∧ Calm s ∧ Writable u 0x8014 4 ∧ Writable u 0x9000 32 ∧ devPlaces u 0 (0x8000 + 20) 4 = .ok [(0x8014, 4)]
    ∧ w1 = .ok s1 ∧ devPlaces s1 0 (0x9000 + 4) 28 = .ok [(0x9004, 28)] ∧ w2 = .ok s2 ∧ devPlaces s2 0 0x9000 4 = .ok [(0x9000, 4)] :=
  ⟨by decide +kernel, by unfold Calm; decide +kernel, writable_of (by decide +kernel), writable_of (by decide +kernel), by decide +kernel,
   is_val _ (by decide +kernel), by decide +kernel, is_val _ (by decide +kernel), by decide +kernel⟩
/-- One that is written; one whose ring is at no address; one whose ring lies in a line that device 9 owns; one whose ring is
full; and one whose ring is malformed. -/
theorem witness_completion_ends :
    let s := dueIn m0 0x8000 aRing
    let f := dueIn m0 0x400000 0
    let a := setDir s 256 { DirEntry.empty with rown := true, rdev0 := some 9 }
    let l := dueIn m0 0x8000 (aRing + 4 * 2 ^ 160)
    let b := dueIn m0 0x8000 0x9000
    (∃ u, ringWrite s (due 0x8000) = .written u) ∧ (∃ u, ringWrite f (due 0x400000) = .failed u)
    ∧ isOk (devRead f 0 0x400000 32) = false ∧ awaited (devRead f 0 0x400000 32) = none
    ∧ ringWrite a (due 0x8000) = .ask 256 ∧ asked a 256 = false ∧ ringWrite l (due 0x8000) = .full
    ∧ devRead b 0 0x8000 32 = .ok (bytesOf 32 0x9000) ∧ bitsOf (BitVec.ofNat 256 (ofBytes (bytesOf 32 0x9000))) 71 64 < 2 :=
  ⟨of_written (by decide +kernel), of_failed (by decide +kernel), by decide +kernel, by decide +kernel, of_asks (by decide +kernel),
   by decide +kernel, of_full (by decide +kernel), by decide +kernel⟩
theorem no_ring (s : State) (h : (upTo 8).all (fun d => !(s.die d).ringMode) = true) (hd : ∀ d, 8 ≤ d → (s.die d).ringMode = false) :
    ∀ n, inRingMode s n = false := by
  intro n
  by_cases hn : homeDie n < 8
  · have := List.all_eq_true.mp h (homeDie n) (by simp [upTo, hn])
    simpa [inRingMode] using this
  · exact hd _ (by omega)
theorem witness_trap_records :
    let s := (supQueue m0).setMyTask { m0.task with pending := some 1 }
    let k := s.taskAt 1
    let e := Table.get 0 (s.die k.die).supq k.recNo
    (s.taskAt 1).pending = some 1 ∧ bitOf (1 : BitVec 1024) 271 = false
    ∧ (∃ u, postTo s k.die k.recNo k.colour 1 = .done u) ∧ (∀ n, inRingMode s n = false) ∧ Calm s
    ∧ Writable s 0x6000 128 ∧ devPlaces s k.colour (supBase e + 128 * (supTail e % 2 ^ supLog e)) 128 = .ok [(0x6000, 128)] := by
  refine ⟨by decide +kernel, by decide +kernel, is_done (by decide +kernel), no_ring _ (by decide +kernel) ?_, by unfold Calm; decide +kernel,
    fun _ _ => ⟨rfl, rfl⟩, by decide +kernel⟩
  intro d hd
  obtain ⟨k, rfl⟩ : ∃ k, d = k + 1 := ⟨d - 1, by omega⟩
  rfl
theorem witness_diverted_records :
    let d : Divert := ⟨0, 0, 0, 0, 1⟩
    let s := { supQueue m0 with sched := { m0.sched with diverts := [d] } }
    s.sched.diverts = d :: [] ∧ ∃ u, postTo s d.die d.recNo d.colour d.record = .done u :=
  ⟨rfl, is_done (by decide +kernel)⟩
theorem witness_log_records :
    let r : BitVec 1024 := BitVec.ofNat 1024 (2 ^ 271)
    let s := m0.setMyTask { m0.task with pending := some r }
    let t := { s with mgmt := { s.mgmt with stl := [(0, 1)] } }
    (s.taskAt 1).pending = some r ∧ bitOf r 271 = true ∧ freeLogSlot s = some 0 ∧ s.bar0.fwstate ≠ 3 ∧ (t.taskAt 1).pending = some r ∧ freeLogSlot t = some 1 := by
  decide +kernel

/-! ### Memory from outside, coherence, directory -/

theorem witness_host_writes :
    homeOfLoc (Config.gddrBytes - 1) = .local ∧ (Config.gddrBytes - 1) + ([7] : List Byte).length ≤ Config.gddrBytes
    ∧ (∀ n ∈ linesAt (Config.gddrBytes - 1) 1, heldFrom m0 none n = false) ∧ Writable m0 (Config.gddrBytes - 1) 1 ∧ Calm m0
    ∧ (∃ n ∈ linesAt 0 1, heldFrom (listed m0 0 lease1) none n = true)
    ∧ homeOfLoc (hostLoc 0) = .hostCoherent ∧ Writable m0 (hostLoc 0) 1 :=
  ⟨by decide +kernel, by decide +kernel, by decide +kernel, fun _ _ => ⟨rfl, rfl⟩, by unfold Calm; decide +kernel, by decide +kernel,
   by decide +kernel, fun _ _ => ⟨rfl, rfl⟩⟩
/-- The first 2 MiB have been retired. -/
def retiring : State := { m0 with mgmt := { m0.mgmt with retired := [0] } }
theorem witness_retired : retiredIn retiring 0x1FFFFF 2 = true ∧ retiredIn retiring 0x200000 1 = false ∧ retiredIn m0 0 128 = false
    ∧ homeOfLoc 0x1FFFFF = .local := by decide +kernel
/-- The host has answered for a line for which device 8 waits; and a sector of a read that fails its check. -/
theorem witness_answers :
    let d : DirEntry := { DirEntry.empty with hostc := true, waiting := [8] }
    let c := { m0 with badCheck := [3] }
    dirOf (listed m0 5 d) 5 = some d ∧ 3 ∈ sectorsAt 0x60 1 ∧ 3 ∈ c.badCheck ∧ (∀ l ∈ linesAt 0x60 1, ownedAway c l = false ∧ ownerGone c l = false)
    ∧ unpublished (listed m0 5 d) 5 = false := by decide +kernel
theorem witness_fabric_writes :
    let s := listed m0 0 owned9
    (∀ n ∈ linesAt 0 1, heldFrom s (some 9) n = false ∧ (dirEntry s n).hostc = false) ∧ 0 + ([7] : List Byte).length ≤ Config.gddrBytes
    ∧ Calm s ∧ (∃ n ∈ linesAt 0 1, heldFrom s (some 8) n = true ∨ (dirEntry s n).hostc = true) :=
  ⟨by decide +kernel, by decide +kernel, by unfold Calm; decide +kernel, by decide +kernel⟩
theorem witness_host_reads :
    (∀ l ∈ linesAt 0 128, ownedAway m0 l = false ∧ ownerGone m0 l = false) ∧ 0 + 128 ≤ Config.gddrBytes ∧ (∃ l ∈ linesAt 0 128, ownedAway (listed m0 0 owned9) l = true)
    ∧ (∃ l ∈ linesAt 0 128, ownerGone (listed m0 0 { owned9 with olost := true }) l = true) ∧ dirOf (listed m0 0 owned9) 0 = some owned9 ∧ homeOfLoc (2 ^ 56 / 128 * 128) = .hostCoherent := by decide +kernel

/-- Line 2^53 of another device, under a lease to time 100. -/
def leasing (t : Nat) : State := { m0 with time := t, mgmt := { m0.mgmt with leased := [(2 ^ 53, 100)] } }
theorem witness_leases :
    Table.find (leasing 60).mgmt.leased (2 ^ 53) = some 100 ∧ 100 ≤ (leasing 60).time + 40 ∧ (leasing 59).time + 40 < 100
    ∧ ({ m0 with bar0 := { m0.bar0 with unsync := false } }).bar0.unsync = false := by decide +kernel
theorem witness_remote_reads :
    let y := { m0 with bar0 := { m0.bar0 with unsync := false } }
    let o := listed m0 5 owned9
    ownLine 5 = true ∧ ownerGone y 5 = false ∧ ownedAway y 5 = false ∧ y.bar0.unsync = false ∧ ownedAway m0 5 = false ∧ m0.bar0.unsync = true
    ∧ ownLine (Config.gddrBytes / 128 - 1) = true ∧ ownerGone o 5 = false ∧ ownedAway o 5 = true ∧ (dirEntry o 5).rdev0 ≠ some 8
    ∧ (dirEntry o 5).snoopAt = none := by decide +kernel
/-- Whether a device has reported itself synchronised is a free value, and either way a premise is met. -/
theorem witness_peers (s : State) (h : s.bar0.unsync = false) :
    (s.bar0.unsync = false ∧ Config.peerSynced 8 s.time = true) ∨ s.bar0.unsync = true ∨ Config.peerSynced 8 s.time = false := by
  cases hp : Config.peerSynced 8 s.time <;> simp [h]
theorem witness_peer_states : retiredIn m0 (5 * 128) 128 = false ∧ ({ m0 with bar0 := { m0.bar0 with unsync := false } }).bar0.unsync = false := by
  decide +kernel
theorem witness_lease_ends :
    let s := fun (t : Nat) (u : Bool) => listed { m0 with time := t, bar0 := { m0.bar0 with unsync := u } } 5 lease1
    (∀ t u, dirOf (s t u) 5 = some lease1) ∧ 0 < lease1.nlease ∧ (s 140 false).bar0.unsync = false ∧ lease1.exp + 40 ≤ (s 140 false).time
    ∧ (s 1100 true).bar0.unsync = true ∧ lease1.exp + 1000 ≤ (s 1100 true).time :=
  ⟨fun _ _ => rfl, by decide +kernel, by decide +kernel, by decide +kernel, by decide +kernel, by decide +kernel⟩
theorem witness_ownership :
    let s := listed m0 5 owned9
    let w := { owned9 with snoopAt := some 0, waiting := [8] }
    let a := listed { m0 with time := 200000 } 5 w
    ownLine 5 = true ∧ ownerGone m0 5 = false ∧ ¬ ((dirEntry m0 5).rown = true ∧ (dirEntry m0 5).rdev0 = some 8) ∧ lineHeld m0 5 = false
    ∧ unpublished m0 5 = false ∧ unpublished (held m0 [(5 * 128, 1)]) 5 = true
    ∧ ownerGone s 5 = false ∧ ¬ ((dirEntry s 5).rown = true ∧ (dirEntry s 5).rdev0 = some 8) ∧ lineHeld s 5 = true
    ∧ dirOf a 5 = some w ∧ w.rown = true ∧ w.olost = false ∧ w.snoopAt = some 0 ∧ a.time ≤ 0 + 200000 ∧ 0 + 200000 ≤ a.time
    ∧ (List.replicate 128 (7 : Byte)).length = 128 ∧ Writable a (5 * 128) 128 ∧ Calm a := by
  refine ⟨by decide +kernel, by decide +kernel, by decide +kernel, by decide +kernel, by decide +kernel, by decide +kernel, by decide +kernel,
   by decide +kernel, by decide +kernel, by decide +kernel, rfl, rfl, rfl, by decide +kernel, by decide +kernel, by decide +kernel, fun l hl => ⟨rfl, ?_⟩, by unfold Calm; decide +kernel⟩
  have h : lineOf l = 5 := by unfold lineOf; unfold within at hl; omega
  rw [h]
  decide +kernel
theorem witness_own_lines :
    let s := { m0 with mgmt := { m0.mgmt with owned := [2 ^ 53], devid := 3 } }
    let r := { s with mgmt := { s.mgmt with inService := false } }
    3 = bitsOf s.mgmt.devid 13 0 ∧ 2 ^ 53 ∈ s.mgmt.owned ∧ 2 ^ 53 ∉ m0.mgmt.owned ∧ s.mgmt.inService = true ∧ r.mgmt.inService = false := by
  decide +kernel
/-- DMADDR names line 5 of the device; and an address without memory. -/
theorem witness_directory_port :
    let s := { m0 with mgmt := { m0.mgmt with dmaddr := 5 * 128 } }
    let n := { m0 with mgmt := { m0.mgmt with dmaddr := 2 ^ 51 } }
    dmLine s = some 5 ∧ dmLine n = none ∧ ownerGone s 5 = false ∧ ownerGone (listed s 5 { owned9 with olost := true }) 5 = true
    ∧ dmLine (listed s 5 lease1) = some 5 ∧ dirOf (listed s 5 lease1) 5 = some lease1 ∧ 0 < lease1.nlease := by decide +kernel
theorem witness_readback :
    let g : L2Tag := ⟨5, 7, true, 4⟩
    let s := (m0.setSlice 3 { m0.slice 3 with sets := [(1535, [g])] }).setSeg 3 { Seg.empty with entries := [entry] }
    1536 ≤ bitsOf (1536 : Word) 10 0 ∧ bitsOf (1535 : Word) 10 0 < 1536
    ∧ (Table.get [] (s.slice 3).sets (bitsOf (1535 : Word) 10 0))[bitsOf (1535 : Word) 15 11]? = some g ∧ g.sectors ≤ 4
    ∧ 6144 ≤ bitsOf (6144 : Word) 12 0 ∧ bitsOf (0 : Word) 12 0 < 6144 ∧ inRingMode s 3 = false ∧ (s.seg 3).entries[bitsOf (0 : Word) 12 0]? = some entry
    ∧ 12288 ≤ bitsOf (0x30000 : Word) 17 4 ∧ bitsOf (0x2FFFF : Word) 17 4 < 12288 := by decide +kernel
theorem witness_cache :
    let s := { m0 with sched := { m0.sched with segmap := [(3, 4)] } }
    let g : L2Tag := ⟨5, 7, true, 4⟩
    let n := sliceOf (5 * 128)
    let t := m0.setSlice n { m0.slice n with sets := [(setOf 5, [g])] }
    (s.slice 3).pinned = true ∧ mapped s 3 = false ∧ (s.seg 3).entries = []
    ∧ (Table.get [] (t.slice (sliceOf (lineOf 0x290 * 128))).sets (setOf (lineOf 0x290))).find? (fun x => x.line = lineOf 0x290) = some g
    ∧ 0 < (Table.get [] (t.slice n).sets (setOf 5)).length
    ∧ ((1, 1) : BitVec 3 × Nat) ∈ encodings (lineWords m0 5) ∧ linePoisoned m0 5 = false := by decide +kernel

/-- Errors of a scratchpad's array and of a slice's; a clean tag; a core's caches that hold the line, and that do not. -/
theorem witness_arrays :
    let g : L2Tag := ⟨5, 7, false, 4⟩
    let t := m0.setSlice (sliceOf (5 * 128)) { m0.slice (sliceOf (5 * 128)) with sets := [(setOf 5, [g])] }
    isGlobal (scratchLoc 3 0) = false ∧ isGlobal 0x290 = true ∧ isGlobal (lineOf 0x290 * 128) = true
    ∧ (Table.get [] (t.slice (sliceOf 0x290)).sets (setOf (lineOf 0x290))).find? (fun x => x.line = lineOf 0x290) = some g
    ∧ arrayHolds .l1d m0 0 0x290 = false ∧ arrayHolds .vregs m0 0 0x290 = true
    ∧ arrayHolds .l1i (m0.setMyCore { m0.myCore with l1i := [(lineOf 0x290, [])] }) 0 0x290 = true := by decide +kernel

/-! ### Tables, registers and firmware -/

theorem witness_table_writes :
    let q : BitVec 512 := BitVec.ofNat 512 (2 * 2 ^ 64)
    let rg : BitVec 512 := BitVec.ofNat 512 (0x10000 + 0x10000 * 2 ^ 64 + 2 ^ 133 + 133376 * 2 ^ 256 + 2 ^ 304)
    let im : BitVec 256 := BitVec.ofNat 256 (8 * 2 ^ 64 + 2 ^ 192)
    bindOk m0 0 2 (rec 1 0 0 0 1) = true ∧ bClean (rec 1 0 0 0 1) ≠ 0 ∧ bindOk m0 0 2 (rec 1 0 9 9 1) = false ∧ bClean 0 = 0
    ∧ putBits q 191 160 0 ≠ 0 ∧ supOk (putBits q 191 160 0) = true ∧ supOk (putBits (1 : BitVec 512) 191 160 0) = false
    ∧ rangeV rg = true ∧ rangeOk m0 3 rg = true ∧ rangeClean rg ≠ 0 ∧ rangeBusy (generator m0) 3 = true
    ∧ imgV im = true ∧ imageOk m0 0 im = true ∧ imageOk m0 0 (BitVec.ofNat 256 (2 ^ 192)) = false := by decide +kernel
theorem witness_rings :
    let v : BitVec 256 := BitVec.ofNat 256 (64 + 20 * 2 ^ 64)
    inRingMode m0 0 = false ∧ bitsOf v 255 192 = 0 ∧ bitsOf v 127 72 = 0 ∧ 4 ≤ ringLog v ∧ ringLog v ≤ 20 ∧ ringBase v % 64 = 0
    ∧ homesEmpty m0 0 = true ∧ homesEmpty (m0.setSeg 31 { Seg.empty with entries := [entry] }) 0 = false
    ∧ bitsOf (5 : Word) 7 0 ≠ 6 % 256 ∧ (4 ≤ (16 : Word).toNat ∧ (16 : Word).toNat ≤ 16) ∧ 16 < (17 : Word).toNat
    ∧ bitsOf (0x1FF : Word) 7 0 ≠ 0 ∧ bitsOf (0x100 : Word) 7 0 = 0 := by decide +kernel
theorem witness_ring_mode : inRingMode (m0.setDie 0 { m0.die 0 with ringMode := true }) 0 = true
    ∧ bitsOf (BitVec.ofNat 256 (2 ^ 200)) 255 192 ≠ 0 := by decide +kernel
theorem witness_halves :
    let o := 0x800000 + 2 ^ 20 * 7 + 64 * 1023
    let s := { m0 with mgmt := { m0.mgmt with halves := (List.range 7).map (fun i => (o + 8 * i, BitVec.ofNat 64 i)) } }
    ∀ i < 7, Table.find s.mgmt.halves (o + 8 * i) = some (BitVec.ofNat 64 i) := by decide +kernel

theorem witness_stage :
    let s := { m0 with bar0 := { m0.bar0 with fwlen := 64 } }
    let l := { m0 with bar0 := { m0.bar0 with fwlen := BitVec.ofNat 64 (2 ^ 26 + 1) } }
    let d := digestOf (List.replicate 64 0)
    m0.bar0.fwstate ≠ 2 ∧ m0.bar0.fwstate ≠ 3 ∧ 2 ^ 26 < l.bar0.fwlen.toNat
    ∧ firmwareBlocked s false = [] ∧ readPhysical s s.bar0.fwaddr.toNat s.bar0.fwlen.toNat = some (List.replicate 64 0)
    ∧ (Config.signatureGood d = false ∨ (Config.signatureGood d = true ∧ Config.imageVersion d % 2 ^ 64 < s.fw.rollback.toNat)
        ∨ (Config.signatureGood d = true ∧ s.fw.rollback.toNat ≤ Config.imageVersion d % 2 ^ 64)) := by
  refine ⟨by decide +kernel, by decide +kernel, by decide +kernel, by decide +kernel, by decide +kernel, ?_⟩
  cases Config.signatureGood (digestOf (List.replicate 64 0)) with
  | false => exact .inl rfl
  | true => exact .inr (.inr ⟨rfl, Nat.zero_le _⟩)
theorem bytes_length : ∀ n v, (bytesOf n v).length = n
  | 0, _ => rfl
  | n + 1, v => by simp [bytesOf, bytes_length n]
theorem report_length (s : State) : (report s).length = 1536 := by
  simp only [report, reportBody, identityBytes, List.length_append, bytes_length, List.length_map, List.length_range, upTo,
    List.length_replicate, List.length_take]
  omega
theorem write_some (s : State) (pa : Nat) (bs : List Byte) (h : (writePhysical s pa (List.replicate bs.length 0)).isSome = true) :
    ∃ t, writePhysical s pa bs = some t := by
  unfold writePhysical at h ⊢
  rw [List.length_replicate] at h
  obtain ⟨u, hu⟩ := Option.isSome_iff_exists.mp h
  obtain ⟨l, hl, -⟩ := Option.map_eq_some_iff.mp hu
  exact ⟨_, Option.map_eq_some_iff.mpr ⟨l, hl, rfl⟩⟩
theorem witness_attest : m0.bar0.fwstate ≠ 4 ∧ firmwareBlocked m0 true = [] ∧ ∃ t, writePhysical m0 m0.bar0.fwaddr.toNat (report m0) = some t := by
  refine ⟨by decide +kernel, by decide +kernel, write_some _ _ _ ?_⟩
  rw [report_length]
  decide +kernel
theorem witness_switching :
    let s := { m0 with bar0 := { m0.bar0 with fwstate := 2 }, fw := { m0.fw with staged := some 4 } }
    let h := { m0 with time := 100000000, bar0 := { m0.bar0 with fwstate := 3 }, fw := { m0.fw with switchAt := some 0 } }
    let o := { h with time := 100000001 }
    switchReady s = true ∧ s.fw.staged = some 4 ∧ h.bar0.fwstate = 3 ∧ healthOver h = false ∧ healthOver o = true
    ∧ ((∃ d, goodFlash o.fw = some d) ∨ goodFlash o.fw = none) := by
  refine ⟨by decide +kernel, by decide +kernel, by decide +kernel, by decide +kernel, by decide +kernel, ?_⟩
  cases goodFlash ({ m0 with time := 100000001, bar0 := { m0.bar0 with fwstate := 3 }, fw := { m0.fw with switchAt := some 0 } } : State).fw with
  | none => exact .inr rfl
  | some d => exact .inl ⟨d, rfl⟩
theorem witness_repairs :
    let s := { m0 with mgmt := { m0.mgmt with repairs := [(0, 2), (1, 0), (0, 3)] } }
    clusterBare m0 1 = true ∧ clusterBare m0 0 = false ∧ spareLeft m0 0 = true ∧ spareLeft m0 1 = true ∧ spareLeft s 1 = false := by decide +kernel
/-- Whether bring-up fails, and whether an image in flash is good, are free values: a premise is met either way. -/
theorem witness_bring_up (s : State) : (∃ d, goodFlash s.fw = some d) ∨ goodFlash s.fw = none := by
  cases goodFlash s.fw with
  | none => exact .inr rfl
  | some d => exact .inl ⟨d, rfl⟩

/-! ### The whole machine -/

/-- A state whose next step issues the instruction of a word: ADD below, and the 8-byte VSUB. -/
def issues (w : Nat) : State := placeInstr State.reset (bytesOf 8 w)
def pickOf (s : State) : CtxId := (pick s).getD ⟨9, 9, true⟩
def issuing (w : Nat) : State := beginIssue (serve (issues w) (pickOf (issues w)))
theorem witness_step :
    let s := issues 0x007E0E33
    s.power = true ∧ nextAgenda s = none ∧ s.bar0.pstate ≠ 3 ∧ dueEvent s = none ∧ pick s = some (pickOf s) :=
  ⟨by decide +kernel, by decide +kernel, by decide +kernel, Option.isNone_iff_eq_none.mp (by decide +kernel), is_some _ (by decide +kernel)⟩
theorem witness_fetched :
    fetch (issuing 0x007E0E33) = .instr (.add 28 28 7)
    ∧ fetch (issuing 0x000800018001013F) = .instr (.vsub ⟨2, 2, .imm 1, 0, ⟨0, 0⟩⟩) :=
  by decide +kernel
/-- The halves of an instruction as fetch reads them. -/
def half (w : Nat) (a : Word) : List Byte := val [] (fetch4 (issuing w) a)
theorem witness_fetch :
    fetch4 (issuing 0x007E0E33) (issuing 0x007E0E33).pc = .ok (half 0x007E0E33 (issuing 0x007E0E33).pc) ∧ isOk (decode (half 0x007E0E33 (issuing 0x007E0E33).pc)) = true
    ∧ fetch4 (issuing 0x000800018001013F) ((issuing 0x000800018001013F).pc + 4) = .ok (half 0x000800018001013F ((issuing 0x000800018001013F).pc + 4))
    ∧ isOk (decode (half 0x000800018001013F (issuing 0x000800018001013F).pc ++ half 0x000800018001013F ((issuing 0x000800018001013F).pc + 4))) = true :=
  ⟨is_val _ (by decide +kernel), by decide +kernel, is_val _ (by decide +kernel), by decide +kernel⟩
/-- A fetch that fails, a word that does not decode, a line that another device owns, and a line in the instruction cache. -/
theorem witness_fetch_ends :
    let s := issuing 0x007E0E33
    let line := lineOf 0x1000
    let code := (List.replicate 128 (0x33 : Byte))
    fetch (s.setMe { s.me with pc := 0x200000 }) = .fault 4 2 false ∧ fetch (issuing 0) = .bad ∧ fetch (listed s line owned9) = .stalled line
    ∧ l1iBytes s.myCore.l1i 0x1000 4 = none ∧ l1iBytes [(line, code)] 0x1000 4 = some [0x33, 0x33, 0x33, 0x33]
    ∧ fetch4 (s.setMyCore { s.myCore with l1i := [(line, code)] }) 0x1000 = .ok [0x33, 0x33, 0x33, 0x33] := by decide +kernel
/-- A host write to a line that device 9 owns waits on the agenda; bring-up without power; a halted clock; and no power. -/
theorem witness_step_ends :
    let b := { listed m0 0 owned9 with agenda := [.hostWrite 0 [7]] }
    let u := { m0 with power := false, agenda := [.bringUp] }
    let h := { m0 with bar0 := { m0.bar0 with pstate := 3 } }
    let off := { m0 with power := false }
    nextAgenda b = some (.hostWrite 0 [7]) ∧ writeBlocked b (.hostWrite 0 [7]) = [0] ∧ b.power = true ∧ nextAgenda u = some .bringUp
    ∧ h.power = true ∧ nextAgenda h = none ∧ h.bar0.pstate = 3 ∧ off.power = false ∧ nextAgenda off = none := by decide +kernel
/-- An event of the agenda, one that is due, and a step that goes on from a canonical memory. -/
theorem witness_events :
    let a := { issues 0x007E0E33 with agenda := [.dmRead] }
    nextAgenda a = some .dmRead ∧ a.power = true ∧ (dueEvent (issues 0x007E0E33)).isNone = true ∧ (dueEvent (rung 20010)).isSome = true
    ∧ (rung 20010).bar0.pstate ≠ 3 ∧ nextAgenda (rung 20010) = none ∧ (rung 20010).power = true := by decide +kernel
def goesOn (o : Out) : Bool := match o with
  | .next _ => true
  | _ => false
theorem of_next {o : Out} (h : goesOn o = true) : ∃ t, o = .next t := by
  cases o <;> simp_all [goesOn]
theorem witness_canonical : (issues 0x007E0E33).mem.wf = true ∧ ∃ t, step (issues 0x007E0E33) = .next t :=
  ⟨by decide +kernel, of_next (by decide +kernel)⟩

theorem witness_encodings :
    encodes (.vfma ⟨2, 1, .xreg 10, 2, 0, 0, ⟨1, 0⟩⟩) = true ∧ (Instr.vfma ⟨2, 1, .xreg 10, 2, 0, 0, ⟨1, 0⟩⟩).wellFormed = true
    ∧ encodes (.beq 0 31 0x800) = true ∧ (Instr.beq 0 31 0x800).wellFormed = true
    ∧ decode (bytesOf 8 0x0000010444A0913F ++ [1]) = .ok (.vfma ⟨2, 1, .xreg 10, 2, 0, 0, ⟨1, 0⟩⟩, [1]) := by decide +kernel

end Sys2Proof.Tests
end

