-- ==== Sys2Proof/Tests/Scalar.lean ====
section
/-! SUPPORT. States and operands that meet the premises of the statements about scalar forms, synchronisation, fills, ends and traps. -/

set_option Elab.async false

namespace Sys2Proof.Tests
open Sys2Proof.Machine Sys2Proof.Claims

/-! ### Scalar forms -/

theorem witness_scalar :
    addRow (regs m0 [(6, 1)]) (.addi 5 6 0xFFF) = some (5, 0) ∧ addRow m0 (.lui 0 0x80000) = some (0, 0xFFFFFFFF80000000)
    ∧ shiftRow (regs m0 [(6, 0x8000000000000000)]) (.srai 10 6 63) = some (10, 0xFFFFFFFFFFFFFFFF)
    ∧ shiftRow (regs m0 [(6, 0x180000000), (7, 32)]) (.sllw 10 6 7) = some (10, 0xFFFFFFFF80000000)
    ∧ addWord (.xori 10 10 0xFFF) = some ⟨0b1111111, 0b11111, 10, 0b100, 10, 0b0010011⟩ := by decide +kernel
theorem witness_mul_div :
    mulRow (regs m0 [(6, 5)]) (.div 5 6 7) = some (5, 0xFFFFFFFFFFFFFFFF) ∧ mulRow (regs m0 [(6, 5)]) (.remu 5 6 7) = some (5, 5)
    ∧ mulRow (regs m0 [(6, 0x8000000000000000), (7, 0xFFFFFFFFFFFFFFFF)]) (.div 5 6 7) = some (5, 0x8000000000000000)
    ∧ mulWord (.divu 10 11 12) = some ⟨1, 12, 11, 5, 10, 0b0110011⟩ := by decide +kernel
theorem witness_branches :
    branchRow m0 (.bne 0 0 8) = some (false, 16)
    ∧ branchRow m0 (.beq 0 0 0x800) = some (true, -4096) ∧ (m0.pc + ofZ (-4096)).toNat % 4 = 0
    ∧ branchRow m0 (.bgeu 0 0 1) = some (true, 2) ∧ (m0.pc + ofZ 2).toNat % 4 ≠ 0 := by decide +kernel
theorem witness_jumps :
    jumpRow m0 (.jal 1 8) = some (1, 0x1010) ∧ (0x1010 : Word).toNat % 4 = 0
    ∧ jumpRow (regs m0 [(6, 0x2003)]) (.jalr 6 6 0) = some (6, 0x2002) ∧ (0x2002 : Word).toNat % 4 ≠ 0 := by decide +kernel
theorem witness_top_branches :
    topRow m0 (.bmz 2) = some (true, 8) ∧ m0.pc.toNat % 4 = 0
    ∧ topRow (typed m0 3 1) (.bmz 2) = some (false, 8) ∧ topRow (typed m0 3 1) (.bmnz 0x1FFC) = some (true, -16)
    ∧ (typed m0 3 1).pc.toNat % 4 = 0 := by decide +kernel

/-! ### Scalar memory -/

theorem witness_loads : ∃ tg, loadRow (regs m0 [(6, 0x208)]) (.ld 5 6 0xFF8) = some (5, 0x200, 8, true)
    ∧ checkAcc (regs m0 [(6, 0x208)]) (regs m0 [(6, 0x208)]).who (loadAcc 0x200 8) true = .ok tg := by
  obtain ⟨tg, h⟩ := ok_of (e := checkAcc (regs m0 [(6, 0x208)]) (regs m0 [(6, 0x208)]).who (loadAcc 0x200 8) true) (by decide +kernel)
  exact ⟨tg, by decide +kernel, h⟩
theorem witness_stores :
    let s := regs m0 [(6, 0x1FFFF8)]
    let e := checkAcc s s.who (storeAcc 0x1FFFF8 8) true
    storeRow s (.sd 5 6 0) = some (0x1FFFF8, 8, 5) ∧ e = .ok (got e) ∧ inSlots (got e) 8 = false :=
  ⟨by decide +kernel, is_got (by decide +kernel), by decide +kernel⟩
/-- A barrier slot of the own scratchpad, through the window. -/
theorem witness_slot_stores :
    let s := regs m0 [(6, 0xFFFFFF000005F800)]
    let e := checkAcc s s.who (storeAcc 0xFFFFFF000005F800 4) true
    storeRow s (.sw 5 6 0) = some (0xFFFFFF000005F800, 4, 5) ∧ e = .ok (got e) ∧ inSlots (got e) 4 = true ∧ NoVictims s
    ∧ ∀ l, (got e).loc ≤ l → l < (got e).loc + 4 → s.sectorBad (sectorOf l) = false ∧ ownerGone s (lineOf l) = false := by
  refine ⟨by decide +kernel, is_got (by decide +kernel), by decide +kernel, by unfold NoVictims; decide +kernel, fun l _ _ => ⟨rfl, rfl⟩⟩
theorem witness_jump_tables :
    tableRow (regs m0 [(6, 0x100)]) (.jtbl 5 6 7 8) = some (5, 0x100, 0, 0) ∧ (0 : Word).toNat ≤ (0 : Word).toNat
    ∧ (let s := bytes (regs m0 [(6, 0x100), (7, 1)]) 0x100 [8, 0, 0, 0]
       let e := checkAcc s s.who (tableAcc 0x100 0) true
       tableRow s (.jtbl 5 6 7 8) = some (5, 0x100, 1, 0) ∧ (0 : Word).toNat < (1 : Word).toNat ∧ e = .ok (got e)
       ∧ ((0x100 : Word) + extend true (s.number (got e).loc 4) 4).toNat % 4 = 0)
    ∧ (let s := bytes (regs m0 [(6, 0x100), (7, 1)]) 0x100 [2, 0, 0, 0]
       let e := checkAcc s s.who (tableAcc 0x100 0) true
       tableRow s (.jtbl 5 6 7 8) = some (5, 0x100, 1, 0) ∧ e = .ok (got e)
       ∧ ((0x100 : Word) + extend true (s.number (got e).loc 4) 4).toNat % 4 ≠ 0) :=
  ⟨by decide +kernel, by decide +kernel, ⟨by decide +kernel, by decide +kernel, is_got (by decide +kernel), by decide +kernel⟩,
   ⟨by decide +kernel, is_got (by decide +kernel), by decide +kernel⟩⟩

/-! ### What an access that fails finds -/

/-- An armed frame of 0x1000 to 0x10FF. -/
def framed (s : State) : State := s.setPart { s.part with tfg := { armed := true, live := false, base := 0x100, limit := 0x110 } }
theorem reaches {s : State} {a : Acc} (h : (!a.mis && a.bounds && (!inWindow a.ea || (windowPlace s.turn.core a.ea a.width).isSome)
    && !(a.guarded && !s.turn.tail && s.part.tfg.armed && a.meetsFrame s.part.tfg)) = true) : Reaches s a := by
  simp only [Bool.and_eq_true, Bool.or_eq_true, Bool.not_eq_true', Bool.and_eq_false_iff] at h
  exact ⟨h.1.1.1, h.1.1.2, fun hw => h.1.2.resolve_left (by simp [hw]), fun hg ht hp => by simpa [hg, ht, hp] using h.2⟩
theorem paged_at {s : State} {a : Acc} {leaf : Word} {home : Home} {l : Nat}
    (h : (!inWindow a.ea && match translate s s.turn.core s.task.colour a.ea with
      | .ok (e, _) => decide (e.leaf = leaf) && decide (physical s (e.pa a.ea) = some (home, l))
      | .error _ => false) = true) : Paged s a leaf home l := by
  simp only [Bool.and_eq_true, Bool.not_eq_true'] at h
  refine ⟨h.1, ?_⟩
  cases he : translate s s.turn.core s.task.colour a.ea with
  | error e => simp [he] at h
  | ok p => exact ⟨p.1, p.2, rfl, by simpa [he] using h.2⟩
theorem witness_fault_order :
    (loadAcc 0x21C 8).mis = true ∧ (loadAcc 0x218 8).mis = false
    ∧ (inWindow (storeAcc 0xFFFFFF0000060000 8).ea = true ∧ windowPlace 0 (storeAcc 0xFFFFFF0000060000 8).ea 8 = none)
    ∧ (let s := framed m0
       let a := storeAcc 0x10F8 8
       a.mis = false ∧ a.bounds = true ∧ inWindow a.ea = false ∧ a.guarded = true ∧ s.turn.tail = false ∧ s.part.tfg.armed = true
       ∧ a.meetsFrame s.part.tfg = true ∧ (storeAcc 0x1100 8).meetsFrame s.part.tfg = false)
    ∧ (let a := loadAcc 0xFFFFFF0000200000 8
       windowPlace m0.turn.core a.ea a.width = some (1, 0) ∧ (m0.core 1).colour ≠ some m0.task.colour)
    ∧ Machine.translate m0 0 m0.task.colour (loadAcc 0x200000 8).ea = .error .page := by decide +kernel
theorem witness_faults :
    Reaches m0 (loadAcc 0xFFFFFF0000200000 8) ∧ Reaches m0 (loadAcc 0x200000 8)
    ∧ (let s := paged m0 0xD (2 ^ 30)
       let a := storeAcc 0x200 8
       Reaches s a ∧ Paged s a 0xD .local 0x200 ∧ inPool s.who a = false ∧ a.kind.isStore = true ∧ bitOf (0xD : Word) 1 = false)
    ∧ (let s := user (paged m0 0x7 (2 ^ 30))
       let a := loadAcc 0x200 8
       Reaches s a ∧ Paged s a 0x7 .local 0x200 ∧ inPool s.who a = false ∧ s.task.smode = false ∧ bitOf (0x7 : Word) 3 = false)
    ∧ (let s := regs (paged m0 0xF (3 * 2 ^ 30)) [(6, 0x200)]
       let o : AmoOp := ⟨5, 6, 7, 8, 0, 0, true, true, 5⟩
       let a := amoAcc s o 4 (val ⟨0, 0, none, 0, none, 0⟩ (via s s.who 0 0))
       Reaches s a ∧ Paged s a 0xF .hostPosted (hostLoc 0x200) ∧ leafPerm s.who a 0xF = none ∧ s.task.atomic = false ∧ a.kind = .amo) :=
  ⟨reaches (by decide +kernel), reaches (by decide +kernel), ⟨reaches (by decide +kernel), paged_at (by decide +kernel), by decide +kernel⟩,
   ⟨reaches (by decide +kernel), paged_at (by decide +kernel), by decide +kernel⟩,
   ⟨reaches (by decide +kernel), paged_at (by decide +kernel), by decide +kernel⟩⟩
/-- Loads of a BLANK, a TURNING and a SPOILED block; and accesses to a poisoned sector. -/
theorem witness_block_faults :
    (let s := bytes (ranged (paged m0 0x10F (2 ^ 30))) 0x80000 [0xE4]
     let a := fun (n : Nat) => loadAcc (BitVec.ofNat 64 (0x100000 + 0x1000 * n)) 8
     (∀ n < 4, Reaches s (a n) ∧ Paged s (a n) 0x10F .local (0x100000 + 0x1000 * n))
     ∧ ∀ n < 4, leafPerm s.who (a n) 0x10F = none ∧ s.task.atomic = false ∧ (a n).kind = .load ∧ (a n).mwait = false
       ∧ bitOf (0x10F : Word) 8 = true ∧ blockAt s (a n).ea = some ⟨3, n⟩ ∧ touchDepth s s.taskId < 4 ∧ genBlock s s.taskId = none
       ∧ fillState s ⟨3, n⟩ = [FillState.blank, .turning, .filled, .spoiled].getD n .blank)
    ∧ (let s := { m0 with poison := [16] }
       let e := fun a => checkAcc s s.who a false
       ∀ a ∈ [loadAcc 0x200 8, storeAcc 0x200 8], isOk (e a) = true ∧ inWindow a.ea = false ∧ 16 ∈ sectorsAt (got (e a)).loc a.width
         ∧ s.sectorBad 16 = true ∧ bytesIn s.me.pend 16 < 32 ∧ covers (got (e a)).loc a.width 16 = false) := by
  refine ⟨⟨fun n hn => ⟨reaches ?_, paged_at ?_⟩, by decide +kernel⟩, by decide +kernel⟩
  · revert n; decide +kernel
  · revert n; decide +kernel

/-! ### Types, masks and CSRs -/

/-- An accepted type with a request at VLMAX and a reserved one. -/
theorem witness_setvl :
    setvlRow (regs m0 [(11, 128)]) (.setvl 5 11 0x0013) = some (5, 128, 0x0013)
    ∧ (bitsOf (0x0013 : BitVec 15) 10 8 ≤ 4 ∧ typeOk (bitsOf (0x0013 : BitVec 15) 7 3) (bitsOf (0x0013 : BitVec 15) 2 0) (bitsOf (0x0013 : BitVec 15) 14 13) = true)
    ∧ setvlRow (regs m0 [(11, 1), (12, 0x7FFF)]) (.setvlReg 5 11 12) = some (5, 1, 0x7FFF)
    ∧ ¬ (bitsOf (0x7FFF : BitVec 15) 10 8 ≤ 4) := by decide +kernel
theorem witness_mask_stack :
    (∃ f, stackRow m0 (.mpush 1) = some (some (f, []))) ∧ stackRow m0 .minv = some none
    ∧ (∃ f, stackRow (m0.setMe { m0.me with mstk := List.replicate 24 1 }) .minv = some (some (f, List.replicate 23 1)))
    ∧ (m0.setMe { m0.me with mstk := [1] }).me.mstk ≠ []
    ∧ 24 ≤ (m0.setMe { m0.me with mstk := List.replicate 24 1 }).me.mstk.length ∧ m0.me.mstk = [] :=
  ⟨⟨_, rfl⟩, rfl, ⟨_, rfl⟩, by decide +kernel, by decide +kernel, by decide +kernel⟩
theorem witness_csr_reads :
    csrRow m0 (.csrrs 5 0 0xCC2) = some (5, 0xCC2, none) ∧ csrValue m0 0xCC2 = some 0
    ∧ csrRow m0 (.csrrci 5 0 0x802) = some (5, 0x802, none) := ⟨rfl, by decide +kernel, rfl⟩
theorem witness_csr_writes :
    (∃ f, csrRow m0 (.csrrwi 5 31 0x801) = some (5, 0x801, some f)) ∧ (∃ f, csrRow m0 (.csrrw 5 0 0x802) = some (5, 0x802, some f) ∧ f 0 = 0)
    ∧ (∃ f, csrRow m0 (.csrrwi 5 1 0x802) = some (5, 0x802, some f) ∧ f 0 ≠ 0)
    ∧ (∃ f, csrRow m0 (.csrrwi 5 9 0x8E7) = some (5, 0x8E0 + 7, some f) ∧ (f 0).toNat % 256 ≤ 9)
    ∧ (∃ f, csrRow m0 (.csrrwi 5 10 0x8E0) = some (5, 0x8E0, some f) ∧ 9 < (f 0).toNat % 256) := by
  refine ⟨⟨_, rfl⟩, ⟨_, rfl, ?_⟩, ⟨_, rfl, ?_⟩, ⟨_, rfl, ?_⟩, ⟨_, rfl, ?_⟩⟩ <;> decide +kernel
theorem witness_csr_traps :
    (csrRow m0 (.csrrs 5 0 0xFFF) = some (5, 0xFFF, none) ∧ csrOf 0xFFF = none)
    ∧ (∃ f, csrRow m0 (.csrrw 5 0 0xCC0) = some (5, 0xCC0, some f))
    ∧ csrRow (user m0) (.csrrs 5 0 0x5C0) = some (5, 0x5C0, none) ∧ (user m0).task.smode = false :=
  ⟨⟨rfl, by decide +kernel⟩, ⟨_, rfl⟩, rfl, by decide +kernel⟩

/-! ### Boundaries, barrier slots, queues and pipes -/

theorem witness_boundaries :
    boundaryRow (.phase true true 5) = some (true, true, 5, 8) ∧ boundaryRow (.phase false false 0) = some (false, false, 0, 8)
    ∧ CanRelease (held m0 [(0x300, 1), (0x301, 2)]) ∧ (atom m0).task.atomic = true :=
  ⟨rfl, rfl, canRel_spec (by decide +kernel), by decide +kernel⟩
/-- ARRIVE at the own core and at another core of the cluster. -/
theorem witness_arrive :
    let s := (regs m0 [(22, 0x7FFFFFFF)]).setCore 3 { Core.empty with colour := some 0 }
    CanRelease s ∧ (s.x 22).toNat ≤ 0x7FFFFFFF ∧ (s.x 0).toNat = 0 ∧ (s.core 0).colour = some s.task.colour
    ∧ (s.core 3).colour = some s.task.colour ∧ SlotGood s 0 127 ∧ SlotGood s 3 0 :=
  ⟨canRel_spec (by decide +kernel), by decide +kernel, by decide +kernel, by decide +kernel, by decide +kernel, ⟨rfl, rfl⟩, ⟨rfl, rfl⟩⟩
theorem witness_waitb :
    m0.task.atomic = false ∧ slotN (readSlot m0 m0.turn.core 127) ≤ 0 ∧ NoVictims m0 ∧ SlotGood m0 m0.turn.core 127
    ∧ 0 < slotN (readSlot (bytes m0 (slotLoc 0 127 + 4) [1]) m0.turn.core 127) :=
  ⟨by decide +kernel, by decide +kernel, calm_spec (by decide +kernel), ⟨rfl, rfl⟩, by decide +kernel⟩

/-- A header of zeros at 0x200, routed to a segment with room. -/
theorem witness_enqueues :
    let s := regs m0 [(6, 0x200)]
    let r := val (0, s) (readHeader s.releaseMe (s.x 6))
    enqRow (.enqNb 5 6) = some (6, some 5) ∧ (s.x 6).toNat % 64 = 0 ∧ s.me.wait = none ∧ CanRelease s
    ∧ readHeader s.releaseMe (s.x 6) = .ok r ∧ checkHeader r.2 r.1 = .ok ()
    ∧ r.2.task.atomic = false ∧ queueRoom r.2 r.1 r.2.task.colour (some r.2.turn.core) = true ∧ route r.2 r.1 (some r.2.turn.core) = .segment 0
    ∧ inRingMode r.2 0 = false :=
  ⟨rfl, by decide +kernel, rfl, canRel_spec (by decide +kernel), is_val _ (by decide +kernel), is_unit (by decide +kernel),
   by decide +kernel⟩
/-- One with AFF 0xFFFF, routed to the own deque; and a segment without room. -/
theorem witness_enqueue_places :
    let s := bytes (regs m0 [(6, 0x200)]) 0x21A [0xFF, 0xFF]
    let f := (regs m0 [(6, 0x200)]).setSeg 0 { Seg.empty with entries := List.replicate 5760 (copyOf 0 0 0) }
    let r := val (0, s) (readHeader s.releaseMe (s.x 6))
    let q := val (0, f) (readHeader f.releaseMe (f.x 6))
    readHeader s.releaseMe (s.x 6) = .ok r ∧ checkHeader r.2 r.1 = .ok () ∧ route r.2 r.1 (some r.2.turn.core) = .deque 0
    ∧ readHeader f.releaseMe (f.x 6) = .ok q ∧ checkHeader q.2 q.1 = .ok () ∧ queueRoom q.2 q.1 q.2.task.colour (some q.2.turn.core) = false :=
  ⟨is_val _ (by decide +kernel), is_unit (by decide +kernel), by decide +kernel, is_val _ (by decide +kernel),
   is_unit (by decide +kernel), by decide +kernel⟩
/-- Die 0 in ring mode: the ring of slice 0 has 64 slots at 0x8000. -/
def ringed (s : State) : State := s.setDie 0 { s.die 0 with ringMode := true, ringDesc := [(0, BitVec.ofNat 256 (0x8000 + 6 * 2 ^ 64))] }
theorem witness_ring_enqueue :
    let s := ringed (regs m0 [(6, 0x200)])
    let r := val (0, s) (readHeader s.releaseMe (s.x 6))
    readHeader s.releaseMe (s.x 6) = .ok r ∧ checkHeader r.2 r.1 = .ok () ∧ queueRoom r.2 r.1 r.2.task.colour (some r.2.turn.core) = true
    ∧ route r.2 r.1 (some r.2.turn.core) = .segment 0 ∧ inRingMode r.2 0 = true ∧ Calm r.2
    ∧ ringSlot r.2 0 r.2.task.colour = some 0x8000 ∧ Writable r.2 0x8000 64 :=
  ⟨is_val _ (by decide +kernel), is_unit (by decide +kernel), by decide +kernel, by decide +kernel, by decide +kernel,
   by unfold Calm; decide +kernel, by decide +kernel, writable_of (by decide +kernel)⟩
/-- ENQ goes on with a header that it has read; and a header from the device is spread. -/
theorem witness_enqueue_again :
    let h : Header := BitVec.ofNat 512 (0xFFFF * 2 ^ 208)
    let s := m0.setMe { m0.me with wait := some (.queueRoom 0) }
    s.me.wait = some (.queueRoom 0) ∧ s.task.atomic = false ∧ queueRoom s 0 s.task.colour (some s.turn.core) = true
    ∧ route s h none = .spread 0 ∧ inRingMode s 0 = false := by decide +kernel
theorem witness_held_enqueue :
    let s := atom (regs m0 [(6, 0x200)])
    let r := val (0, s) (readHeader s.releaseMe (s.x 6))
    enqRow (.enq 6) = some (6, none) ∧ s.me.wait = none ∧ s.task.atomic = true ∧ readHeader s.releaseMe (s.x 6) = .ok r
    ∧ checkHeader r.2 r.1 = .ok () ∧ r.2.task.atomic = true ∧ r.2.task.held.length < 16 :=
  ⟨rfl, rfl, by decide +kernel, is_val _ (by decide +kernel), is_unit (by decide +kernel), by decide +kernel, by decide +kernel⟩

theorem witness_psend :
    let s := regs (gangOn m0 1 15 0) [(6, 0x5FFC0)]
    let f := regs (gangOn m0 1 16 0) [(6, 0)]
    CanRelease s ∧ myPipe s 0 true = .ok (hereGang s) ∧ (s.x 6).toNat % 64 = 0 ∧ (s.x 6).toNat ≤ 0x5FFC0
    ∧ (hereGang s).done.getLsbD (pipeRoles (hereGang s) 0).2 = false ∧ (Table.get Pipe.empty (hereGang s).pipe 0).full < 16
    ∧ CanRelease f ∧ myPipe f 0 true = .ok (hereGang f) ∧ 16 ≤ (Table.get Pipe.empty (hereGang f).pipe 0).full :=
  ⟨canRel_spec (by decide +kernel), rfl, by decide +kernel, by decide +kernel, by decide +kernel, by decide +kernel,
   canRel_spec (by decide +kernel), rfl, by decide +kernel⟩
theorem witness_precv :
    let s := regs (gangOn m0 2 1 0) [(6, 0x5F7C0)]
    let e := gangOn m0 2 0 2
    let w := gangOn m0 2 0 0
    s.task.atomic = false ∧ myPipe s 0 false = .ok (hereGang s) ∧ (s.x 6).toNat % 64 = 0 ∧ (s.x 6).toNat < 0x5F800
    ∧ 0 < (Table.get Pipe.empty (hereGang s).pipe 0).full
    ∧ myPipe e 0 false = .ok (hereGang e) ∧ (Table.get Pipe.empty (hereGang e).pipe 0).full = 0
    ∧ (hereGang e).done.getLsbD (pipeRoles (hereGang e) 0).1 = true
    ∧ myPipe w 0 false = .ok (hereGang w) ∧ (hereGang w).done.getLsbD (pipeRoles (hereGang w) 0).1 = false :=
  ⟨by decide +kernel, rfl, by decide +kernel, by decide +kernel, by decide +kernel, rfl, by decide +kernel, by decide +kernel, rfl,
   by decide +kernel⟩

/-- A message of zeros, one from U-mode, and a FIFO without room. -/
theorem witness_xpush :
    let f := m0.setPart { m0.part with fifo := List.replicate 16 (myMsg m0 0) }
    xpushRow (.xpush 4) = some (4, none) ∧ xpushRow (.xpushNb 5 4) = some (4, some 5) ∧ m0.task.atomic = false
    ∧ msgIllegal (myMsg m0 4) = false ∧ m0.task.smode = true ∧ mCap (myMsg (user m0) 4) = 0 ∧ m0.part.fifo.length < 16
    ∧ (chainTo m0.turn.core (myMsg m0 4)).isSome = false ∧ CanRelease m0 ∧ ¬ (f.part.fifo.length < 16) :=
  ⟨rfl, rfl, by decide +kernel, by decide +kernel, by decide +kernel, by decide +kernel, by decide +kernel, by decide +kernel,
   canRel_spec (by decide +kernel), by decide +kernel⟩
/-- A chained copy into the own scratchpad with a free tracker and with none. -/
theorem witness_xpush_chain :
    let s := regs m0 [(4, 2 ^ 31), (6, 0xFFFFFF0000000000)]
    let t : Tracker := ⟨0, 0, 1, 0, false⟩
    let f := s.setPart { s.part with trackers := List.replicate 4 t }
    msgIllegal (myMsg s 4) = false ∧ (chainTo s.turn.core (myMsg s 4)).isSome = true ∧ s.part.trackers.length < 4
    ∧ (chainTo f.turn.core (myMsg f 4)).isSome = true ∧ ¬ (f.part.trackers.length < 4) := by decide +kernel

theorem witness_mwait :
    let s := regs m0 [(6, 0x200), (7, 5)]
    let e := checkAcc s s.who { accGv (s.x 6) 4 .load (decide ((s.x 6).toNat % 4 ≠ 0)) with mwait := true } true
    s.task.atomic = false ∧ e = .ok (got e) ∧ s.me.wait = none ∧ s.number (got e).loc 4 ≠ bitsOf (s.x 7) 31 0
    ∧ s.number (got e).loc 4 = bitsOf (s.x 0) 31 0
    ∧ (let n := s.setMe { s.me with wait := some (.word 0x200 true) }
       let e := checkAcc n n.who { accGv (n.x 6) 4 .load (decide ((n.x 6).toNat % 4 ≠ 0)) with mwait := true } true
       e = .ok (got e) ∧ ∃ l, n.me.wait = some (.word l true)) :=
  ⟨by decide +kernel, is_got (by decide +kernel), rfl, by decide +kernel, by decide +kernel, is_got (by decide +kernel), _, rfl⟩

/-! ### Fills, tails and ends -/

theorem witness_fill_ends :
    let s := regs (generator m0) [(6, 0x101FFF), (7, 0x12345)]
    endRow s (.gendone 6) = some (6, true, 0) ∧ endRow s (.genfail 6 7) = some (6, false, 0x2345) ∧ CanRelease s ∧ Calm s
    ∧ blockAt s (gva (s.x 6)) = some ⟨3, 1⟩ ∧ isGenOf s s.taskId ⟨3, 1⟩ = true
    ∧ (let p := publishBlock s.releaseMe ⟨3, 1⟩
       fstabPlace p ⟨3, 1⟩ = some 0x80000 ∧ Unheld p 0x80000) :=
  ⟨by decide +kernel, by decide +kernel, canRel_spec (by decide +kernel), by unfold Calm; decide +kernel, by decide +kernel,
   by decide +kernel, by unfold Unheld; decide +kernel⟩
theorem witness_fill_resets :
    let s := regs (bytes (ranged m0) 0x80000 [0xE4]) [(6, 0x100000), (7, 0x101000), (8, 0x102000), (9, 0x103FFF)]
    s.task.smode = true ∧ Calm s ∧ Unheld s 0x80000 ∧ fstabPlace s ⟨3, 2⟩ = some 0x80000 ∧ blockAt s (gva (s.x 6)) = some ⟨3, 0⟩ ∧ fillState s ⟨3, 0⟩ = .blank ∧ blockAt s (gva (s.x 7)) = some ⟨3, 1⟩
    ∧ fillState s ⟨3, 1⟩ = .turning ∧ blockAt s (gva (s.x 8)) = some ⟨3, 2⟩ ∧ fillState s ⟨3, 2⟩ = .filled
    ∧ blockAt s (gva (s.x 9)) = some ⟨3, 3⟩ ∧ fillState s ⟨3, 3⟩ = .spoiled := by
  unfold Calm Unheld; decide +kernel

theorem witness_hback :
    let s := regs m0 [(1, 0x2000), (2, 0x10000), (8, 0x10100), (9, 0xFFFF)]
    CanRelease s ∧ s.turn.tail = false ∧ (s.x 2).toNat % 16 = 0 ∧ (s.x 8).toNat % 16 = 0
    ∧ signNat (s.x 2).toNat 57 ≤ signNat (s.x 8).toNat 57 ∧ (s.x 1).toNat % 4 = 0 ∧ s.part.tfg.live = false :=
  ⟨canRel_spec (by decide +kernel), by decide +kernel, by decide +kernel, by decide +kernel, by decide +kernel, by decide +kernel,
   by decide +kernel⟩
theorem witness_frjoin :
    let s := m0.setPart { m0.part with tfg := { Tfg.zero with armed := true } }
    CanRelease s ∧ s.turn.tail = false ∧ s.part.tfg.armed = true ∧ s.part.tfg.live = false ∧ CanRelease m0 ∧ m0.part.tfg.armed = false :=
  ⟨canRel_spec (by decide +kernel), by decide +kernel, by decide +kernel, by decide +kernel, canRel_spec (by decide +kernel),
   by decide +kernel⟩
theorem witness_tdone :
    let s := m0.setPart { m0.part with tfg := { Tfg.zero with live := true } }
    let e := { s with turn := { s.turn with tail := true } }
    let p := e.setMyTask { e.task with state := .tailPending }
    (m0.part.task = some 1 ∧ m0.turn.tail = false ∧ m0.part.tfg.live = false ∧ s.part.task = some 1 ∧ s.turn.tail = false
      ∧ s.part.tfg.live = true ∧ e.part.task = some 1 ∧ e.turn.tail = true ∧ e.task.state ≠ .tailPending ∧ p.task.state = .tailPending)
    ∧ CanRelease m0 ∧ CanRelease s ∧ CanRelease e ∧ CanRelease p :=
  ⟨by decide +kernel, canRel_spec (by decide +kernel), canRel_spec (by decide +kernel), canRel_spec (by decide +kernel),
   canRel_spec (by decide +kernel)⟩
theorem no_rings (s : State) (h : s.dies = []) (n : Nat) : inRingMode s n = false := by simp only [inRingMode, State.die, h]; rfl
theorem no_entries (s : State) (h : s.sched.segs = []) (n : Nat) : (s.seg n).entries = [] := by simp only [State.seg, h]; rfl
/-- TDONE of an atomic task with a store and a header to commit; and of one that another has overtaken. -/
def committing : State := held ((atom m0).setMyTask { (atom m0).task with held := [0] }) [(0x300, 7)]
def overtaken : State := (atom m0).setMyTask { (atom m0).task with writes := [16], others := [16] }
theorem witness_tdone_atomic :
    (let s := committing
     s.part.task = some 1 ∧ s.task.atomic = true ∧ s.turn.tail = false ∧ s.task.others = [] ∧ (∀ b ∈ s.me.pend, lineHeld s (lineOf b.1) = false)
      ∧ admitted s s.me.pend = s.me.pend ∧ s.task.held = [0] ∧ route s 0 (some s.turn.core) = .segment 0
      ∧ s.me.pend.Pairwise (fun a b => a.1 < b.1) ∧ s.dies = [] ∧ s.sched.segs = [] ∧ s.task.held.length ≤ 5760)
    ∧ (let c := overtaken
       c.part.task = some 1 ∧ c.task.atomic = true ∧ c.turn.tail = false ∧ ∃ x ∈ c.task.others, x ∈ c.task.reads ++ c.task.writes)
    ∧ NoVictims committing ∧ NoVictims overtaken :=
  ⟨by decide +kernel, by decide +kernel, calm_spec (by decide +kernel), calm_spec (by decide +kernel)⟩
theorem witness_tdone_queues :
    (∀ n, inRingMode committing n = false) ∧ ∀ n, (committing.seg n).entries.length + committing.task.held.length ≤ 5760 := by
  refine ⟨no_rings _ (by decide +kernel), fun n => ?_⟩
  rw [no_entries _ (by decide +kernel)]
  decide +kernel

/-! ### Traps and records -/

theorem witness_park : CanPark m0 ∧ CanPark (atom m0) := by constructor <;> (unfold CanPark; decide +kernel)
/-- The task of a core with eight partitions. -/
def slim : State := m0.setMyTask { m0.task with split := 3 }
/-- A load parks the task on a block. -/
theorem witness_parked :
    let e := parkTask slim slim.taskId (fun c => (slim.ctx { slim.turn with tail := c }).pc) false slim.turn.tail
    slim.task.atomic = false ∧ slim.part.task.isSome = true ∧ (parkHeld slim && !slim.task.atomic) = false ∧ isOk e = true := by decide +kernel
/-- Irrevocable forms of an atomic task; and forms that R82 refuses: the type is illegal, or a tile is misaligned. -/
theorem witness_refused_forms :
    (let s := regs (atom m0) [(2, 0x10000), (8, 0x10100)]
     irrevocableRow s (.psend 0 5) = some 0 ∧ irrevocableRow s (.testb 5 0) = some 1 ∧ irrevocableRow s (.mwait 5 6) = some 0
     ∧ irrevocableRow s (.hback 8 9) = some 0 ∧ s.task.atomic = true)
    ∧ (let o : CvtOp := ⟨4, 2, 0, 1, true, false, true, 5, 0, ⟨0, 0⟩⟩
       5 ≤ (typed m0 0x13 1).roundMode o.rm ∧ vtyIll (m0.setMe { m0.me with vty := 2 ^ 63 }).me.vty = true)
    ∧ (∃ f, rayRow m0 (.vbox 31 0 26 ⟨1, 0⟩) = some (31, 0, 26, ⟨1, 0⟩, 1, 6, f)) ∧ vtySew m0.me.vty ≠ 32
    ∧ (∃ f, texRow m0 (.texLod 28 2 6 0 ⟨0, 0⟩) = some (28, 2, 0, ⟨0, 0⟩, true, f)) :=
  ⟨by decide +kernel, by decide +kernel, ⟨_, rfl⟩, by decide +kernel, ⟨_, rfl⟩⟩
theorem witness_refused_types :
    let s := typed m0 0x1913 256
    let o : VecOp := ⟨3, 2, .vec 2, 0, ⟨0, 0⟩⟩
    NeedsVty s (.vadd o) (intType s.me.vty 0) (8 ≤ (intType s.me.vty 0).sew) ([3, 2] ++ Src.tiles (.vec 2)) none
    ∧ ¬ VecOk s (intType s.me.vty 0) (8 ≤ (intType s.me.vty 0).sew) ([3, 2] ++ Src.tiles (.vec 2)) none
    ∧ NeedsVty s (.mma 1 2 4) { vtyType s.me.vty with blen := 0 } (3 ≤ vtyFmt s.me.vty) [1, 2, 4] none := by
  refine ⟨NeedsVty.int (i := .vadd ⟨3, 2, .vec 2, 0, ⟨0, 0⟩⟩) (o := ⟨3, 2, .vec 2, 0, ⟨0, 0⟩⟩) rfl, fun h => ?_, .mma 1 2 4⟩
  exact absurd (h.rows 3 (by simp)).1 (by decide +kernel)
theorem witness_traps :
    (trapOf .ecall 0).cause ≠ .poison ∧ ((trapOf .atomirrev 0).cause = .atomirrev → readConflict (atom m0) = false)
        ∧ (let n := noteTrap slim slim.turn.core slim.task.colour (trapOf .ecall 0)
       isOk (parkTask n slim.taskId (fun c => if c = slim.turn.tail then slim.pc + 4 else (slim.ctx { slim.turn with tail := c }).pc) true slim.turn.tail)
         = true ∧ genBlock slim slim.taskId = none)
    ∧ (let a := (atom m0).setMyTask { (atom m0).task with reads := [16, 17], others := [17] }
       readConflict a = true ∧ a.part.task.isSome = true)
    ∧ (generator m0).part.task = some 1 ∧ genBlock (generator m0) 1 = some ⟨3, 1⟩ :=
  ⟨by decide, fun _ => by decide +kernel, by decide +kernel⟩
/-- Task 2 has parked with its control block at 0x8000; its record lies at 0x4000. atomic: bit 205 of its header. -/
def aRecord : BitVec 1024 := BitVec.ofNat 1024 (0x8000 * 2 ^ 128 + 2 * 2 ^ 192 + 2 ^ 269)
def parkedTwo (s : State) (atomic : Nat) : State :=
  let k : Task := { Task.empty with header := BitVec.ofNat 512 (0x8000 * 2 ^ 128 + atomic * 2 ^ 205), state := .parked, trapOpen := true }
  let r := s.setTask 2 k
  bytes (bytes (regs r [(6, 0x4000)]) 0x81C0 [4, 0, 0, 0, 0, 0, 0, 0, 2]) 0x4000 (bytesOf 128 aRecord.toNat)
def resolved (s : State) : BitVec 1024 × List Byte × State := val (0, [], s) (resolveForm s 6)
theorem witness_resolves :
    let s := parkedTwo m0 0
    let a := parkedTwo m0 1
    resolveForm s 6 = .ok (resolved s) ∧ releaseHeld (resolved s).2.2 (resolved s).2.2.turn = false ∧ bytesAt (resolved s).2.1 0 8 % 4 = 0
    ∧ ((resolved s).2.2.releaseMe.taskAt (bitsOf (resolved s).1 255 192)).atomic = false
    ∧ resolveForm a 6 = .ok (resolved a) ∧ releaseHeld (resolved a).2.2 (resolved a).2.2.turn = false
    ∧ ((resolved a).2.2.releaseMe.taskAt (bitsOf (resolved a).1 255 192)).atomic = true
    ∧ (resolved s).2.2.readyToRelease = .ok () ∧ (resolved a).2.2.readyToRelease = .ok ()
    ∧ (cbHeld (resolved s).2.2 (resolved s).1 = none ∧ (resolved s).2.2.tasks.Pairwise (fun a b => a.1 < b.1))
    ∧ cbHeld (resolved a).2.2 (resolved a).1 = none ∧ (resolved a).2.2.tasks.Pairwise (fun a b => a.1 < b.1) :=
  ⟨is_val _ (by decide +kernel), by decide +kernel, by decide +kernel, by decide +kernel, is_val _ (by decide +kernel),
   by decide +kernel, by decide +kernel, is_unit (by decide +kernel), is_unit (by decide +kernel), by decide +kernel, by decide +kernel⟩
/-- Slots 5 and 63 of the trap log hold that record and one marked FINAL; slot 0 is empty. -/
theorem witness_log_commands :
    let s := parkedTwo { m0 with mgmt := { m0.mgmt with stl := [(5, aRecord), (63, aRecord ||| BitVec.ofNat 1024 (2 ^ 270))] } } 0
    let e := spillRead s (bitsOf aRecord 255 192) (cbStart s aRecord) 1024
    let cb := val [] e
    logRow (.stlKill 5) = some (5, 261, true) ∧ logRow (.stlResume 0) = some (0, 0, false) ∧ Table.find s.mgmt.stl 0 = none
    ∧ Table.find s.mgmt.stl 5 = some aRecord ∧ bitOf aRecord 270 = false ∧ e = .ok cb ∧ awaited e = none ∧ cbHeld s aRecord = none
    ∧ resolvable s aRecord cb = true ∧ bytesAt cb 0 8 % 4 = 0 ∧ resolvable (s.setTask 2 Task.empty) aRecord cb = false
    ∧ (∃ r, Table.find s.mgmt.stl 63 = some r ∧ bitOf r 270 = true) :=
  ⟨rfl, rfl, rfl, rfl, by decide +kernel, is_val _ (by decide +kernel), by decide +kernel, by decide +kernel, by decide +kernel,
   by decide +kernel, by decide +kernel, _, rfl, by decide +kernel⟩
/-- Its control block lies in a line that device 9 owns. -/
theorem witness_log_asks :
    let s := setDir (parkedTwo { m0 with mgmt := { m0.mgmt with stl := [(5, aRecord)] } } 0) 256 { DirEntry.empty with rown := true, rdev0 := some 9 }
    Table.find s.mgmt.stl 5 = some aRecord ∧ awaited (spillRead s (bitsOf aRecord 255 192) (cbStart s aRecord) 1024) = some 256 := by
  decide +kernel
/-- A line of it that a resume would write is leased to device 9: it can be read, and is asked for before it is written. -/
theorem witness_log_held :
    let s := setDir (parkedTwo { m0 with mgmt := { m0.mgmt with stl := [(5, aRecord)] } } 0) 256
      { DirEntry.empty with nlease := 1, exp := 100, rdev0 := some 9 }
    let e := spillRead s (bitsOf aRecord 255 192) (cbStart s aRecord) 1024
    Table.find s.mgmt.stl 5 = some aRecord ∧ e = .ok (val [] e) ∧ cbHeld s aRecord = some 256 :=
  ⟨rfl, is_val _ (by decide +kernel), by decide +kernel⟩

end Sys2Proof.Tests
end

