-- ==== Sys2Proof/Tests/Slice0.lean ====
section
/-! SUPPORT. Tests of the decoder, of well-formedness and of single steps. Words and expected results come from the
manual: where a test names no other source, from the encoding tables R310, R68 and R74 to R80 and the examples beside them. -/

set_option Elab.async false

namespace Sys2Proof.Tests
open Sys2Proof.Machine

/-- Each word decodes to its instruction. -/
def reads (l : List (Nat × Instr)) : Bool := l.all (fun p => decide (decodeTableWord 64 p.1 = some p.2))

theorem test_decode_registers : reads
   [(0x01110FB3, .add 31 2 17),
    (0x41110FB3, .sub 31 2 17),
    (0x01111FB3, .sll 31 2 17),
    (0x01112FB3, .slt 31 2 17),
    (0x01113FB3, .sltu 31 2 17),
    (0x01114FB3, .xor 31 2 17),
    (0x01115FB3, .srl 31 2 17),
    (0x41115FB3, .sra 31 2 17),
    (0x01116FB3, .or 31 2 17),
    (0x01117FB3, .and 31 2 17),
    (0x03110FB3, .mul 31 2 17),
    (0x03111FB3, .mulh 31 2 17),
    (0x03112FB3, .mulhsu 31 2 17),
    (0x03113FB3, .mulhu 31 2 17),
    (0x03114FB3, .div 31 2 17),
    (0x03115FB3, .divu 31 2 17),
    (0x03116FB3, .rem 31 2 17),
    (0x03117FB3, .remu 31 2 17),
    (0x01110FBB, .addw 31 2 17),
    (0x41110FBB, .subw 31 2 17),
    (0x01111FBB, .sllw 31 2 17),
    (0x01115FBB, .srlw 31 2 17),
    (0x41115FBB, .sraw 31 2 17),
    (0x03110FBB, .mulw 31 2 17),
    (0x03114FBB, .divw 31 2 17),
    (0x03115FBB, .divuw 31 2 17),
    (0x03116FBB, .remw 31 2 17),
    (0x03117FBB, .remuw 31 2 17)] = true := by decide +kernel

theorem test_decode_immediates : reads
   [(0x80518E93, .addi 29 3 0x805),
    (0x8051AE93, .slti 29 3 0x805),
    (0x8051BE93, .sltiu 29 3 0x805),
    (0x8051CE93, .xori 29 3 0x805),
    (0x8051EE93, .ori 29 3 0x805),
    (0x8051FE93, .andi 29 3 0x805),
    (0x80518E9B, .addiw 29 3 0x805),
    (0x80518E83, .lb 29 3 0x805),
    (0x80519E83, .lh 29 3 0x805),
    (0x8051AE83, .lw 29 3 0x805),
    (0x8051BE83, .ld 29 3 0x805),
    (0x8051CE83, .lbu 29 3 0x805),
    (0x8051DE83, .lhu 29 3 0x805),
    (0x8051EE83, .lwu 29 3 0x805),
    (0x80518EE7, .jalr 29 3 0x805),
    (0x02949393, .slli 7 9 41),
    (0x0294D393, .srli 7 9 41),
    (0x4294D393, .srai 7 9 41),
    (0x01E4939B, .slliw 7 9 30),
    (0x01E4D39B, .srliw 7 9 30),
    (0x41E4D39B, .sraiw 7 9 30),
    (0x8F5502A3, .sb 21 10 0x8E5),
    (0x8F5512A3, .sh 21 10 0x8E5),
    (0x8F5522A3, .sw 21 10 0x8E5),
    (0x8F5532A3, .sd 21 10 0x8E5)] = true := by decide +kernel

theorem test_decode_control : reads
   [(0xF4498263, .beq 19 4 0xBA2),
    (0xF4499263, .bne 19 4 0xBA2),
    (0xF449C263, .blt 19 4 0xBA2),
    (0xF449D263, .bge 19 4 0xBA2),
    (0xF449E263, .bltu 19 4 0xBA2),
    (0xF449F263, .bgeu 19 4 0xBA2),
    (0x123452B7, .lui 5 0x12345),
    (0xFEDCB317, .auipc 6 0xFEDCB),
    (0x010000EF, .jal 1 8),
    (0xCBA4B1EF, .jal 3 (-0x5A5A3))] = true := by decide +kernel

theorem test_decode_system : reads
   [(0x0A50000F, .fence 0xA 0x5),
    (0x8330000F, .fenceTso),
    (0x0000100F, .fenceI),
    (0x00000073, .ecall),
    (0x00100073, .ebreak),
    (0xCC0C9673, .csrrw 12 25 0xCC0),
    (0xCC0CA673, .csrrs 12 25 0xCC0),
    (0xCC0CB673, .csrrc 12 25 0xCC0),
    (0xCC0CD673, .csrrwi 12 25 0xCC0),
    (0xCC0CE673, .csrrsi 12 25 0xCC0),
    (0xCC0CF673, .csrrci 12 25 0xCC0)] = true := by decide +kernel

theorem test_decode_integers : reads
   [(0x00001A0000328F3F, .vadd ⟨30, 5, .vec 3, 0, ⟨2, 6⟩⟩),
    (0x00003A0140328F3F, .vsub ⟨30, 5, .xreg 3, 1, ⟨2, 6⟩⟩),
    (0xFFF05A0280028F3F, .vmul ⟨30, 5, .imm 0x1FFE, 2, ⟨2, 6⟩⟩),
    (0x00007A0300328F3F, .vmulh ⟨30, 5, .vec 3, 3, ⟨2, 6⟩⟩),
    (0x00009A0440328F3F, .vmulhu ⟨30, 5, .xreg 3, 4, ⟨2, 6⟩⟩),
    (0xFFF01A0580028F3F, .vdiv ⟨30, 5, .imm 0x1FFE, 0, ⟨2, 6⟩⟩),
    (0x00003A0600328F3F, .vdivu ⟨30, 5, .vec 3, 1, ⟨2, 6⟩⟩),
    (0x00005A0740328F3F, .vrem ⟨30, 5, .xreg 3, 2, ⟨2, 6⟩⟩),
    (0xFFF07A0880028F3F, .vremu ⟨30, 5, .imm 0x1FFE, 3, ⟨2, 6⟩⟩),
    (0x00009A0900328F3F, .vmin ⟨30, 5, .vec 3, 4, ⟨2, 6⟩⟩),
    (0x00001A0A40328F3F, .vminu ⟨30, 5, .xreg 3, 0, ⟨2, 6⟩⟩),
    (0xFFF03A0B80028F3F, .vmax ⟨30, 5, .imm 0x1FFE, 1, ⟨2, 6⟩⟩)] = true := by decide +kernel

theorem test_decode_integers2 : reads
   [(0x00005A0C00328F3F, .vmaxu ⟨30, 5, .vec 3, 2, ⟨2, 6⟩⟩),
    (0x00007A0D40328F3F, .vand ⟨30, 5, .xreg 3, 3, ⟨2, 6⟩⟩),
    (0xFFF09A0E80028F3F, .vor ⟨30, 5, .imm 0x1FFE, 4, ⟨2, 6⟩⟩),
    (0x00001A0F00328F3F, .vxor ⟨30, 5, .vec 3, 0, ⟨2, 6⟩⟩),
    (0x00003A1040328F3F, .vsll ⟨30, 5, .xreg 3, 1, ⟨2, 6⟩⟩),
    (0xFFF05A1180028F3F, .vsrl ⟨30, 5, .imm 0x1FFE, 2, ⟨2, 6⟩⟩),
    (0x00007A1200328F3F, .vsra ⟨30, 5, .vec 3, 3, ⟨2, 6⟩⟩),
    (0x00009A1340328F3F, .vsadd ⟨30, 5, .xreg 3, 4, ⟨2, 6⟩⟩),
    (0xFFF01A1480028F3F, .vsaddu ⟨30, 5, .imm 0x1FFE, 0, ⟨2, 6⟩⟩),
    (0x00003A1500328F3F, .vssub ⟨30, 5, .vec 3, 1, ⟨2, 6⟩⟩),
    (0x00005A1640328F3F, .vssubu ⟨30, 5, .xreg 3, 2, ⟨2, 6⟩⟩),
    (0x0000801740300F3F, .vmv ⟨30, 0, .xreg 3, 4, ⟨0, 0⟩⟩)] = true := by decide +kernel

theorem test_decode_compares : reads
   [(0x00000718003283BF, .vcmpEq ⟨7, 5, .vec 3, 0, ⟨3, 1⟩⟩),
    (0x00000719003283BF, .vcmpNe ⟨7, 5, .vec 3, 0, ⟨3, 1⟩⟩),
    (0x0000071A003283BF, .vcmpLt ⟨7, 5, .vec 3, 0, ⟨3, 1⟩⟩),
    (0x0000071B003283BF, .vcmpLe ⟨7, 5, .vec 3, 0, ⟨3, 1⟩⟩),
    (0x0000071C003283BF, .vcmpGt ⟨7, 5, .vec 3, 0, ⟨3, 1⟩⟩),
    (0x0000071D003283BF, .vcmpGe ⟨7, 5, .vec 3, 0, ⟨3, 1⟩⟩),
    (0x0000071E003283BF, .vcmpLtu ⟨7, 5, .vec 3, 0, ⟨3, 1⟩⟩),
    (0x0000071F003283BF, .vcmpLeu ⟨7, 5, .vec 3, 0, ⟨3, 1⟩⟩),
    (0x00000720003283BF, .vcmpGtu ⟨7, 5, .vec 3, 0, ⟨3, 1⟩⟩),
    (0x00000721003283BF, .vcmpGeu ⟨7, 5, .vec 3, 0, ⟨3, 1⟩⟩)] = true := by decide +kernel

theorem test_decode_permutes : reads
   [(0x000000400022033F, .vperm ⟨6, 4, .vec 2, 0, ⟨0, 0⟩⟩),
    (0x00000041409081BF, .vslideUp ⟨3, 1, .xreg 9, 0, ⟨0, 0⟩⟩),
    (0x00200042800081BF, .vslideDn ⟨3, 1, .imm 4, 0, ⟨0, 0⟩⟩),
    (0x0000004340C0023F, .vbcast ⟨4, 0, .xreg 12, 0, ⟨0, 0⟩⟩),
    (0x00002044400103BF, .vmvxs ⟨7, 2, .xreg 0, 1, ⟨0, 0⟩⟩)] = true := by decide +kernel

theorem test_decode_reductions : reads
   [(0x00000148C000813F, .vredAdd ⟨2, 1, 0, ⟨1, 0⟩⟩),
    (0x00000149C000813F, .vredMin ⟨2, 1, 0, ⟨1, 0⟩⟩),
    (0x0000014AC000813F, .vredMax ⟨2, 1, 0, ⟨1, 0⟩⟩),
    (0x0000014BC000813F, .vredMinu ⟨2, 1, 0, ⟨1, 0⟩⟩),
    (0x0000014CC000813F, .vredMaxu ⟨2, 1, 0, ⟨1, 0⟩⟩),
    (0x0000014DC000813F, .vredAnd ⟨2, 1, 0, ⟨1, 0⟩⟩),
    (0x0000014EC000813F, .vredOr ⟨2, 1, 0, ⟨1, 0⟩⟩),
    (0x0000014FC000813F, .vredXor ⟨2, 1, 0, ⟨1, 0⟩⟩),
    (0x00000150C000813F, .vscanAdd ⟨2, 1, 0, ⟨1, 0⟩⟩),
    (0x00000151C000813F, .vscanMin ⟨2, 1, 0, ⟨1, 0⟩⟩),
    (0x00000152C000813F, .vscanMax ⟨2, 1, 0, ⟨1, 0⟩⟩),
    (0x00000153C000813F, .vscanMinu ⟨2, 1, 0, ⟨1, 0⟩⟩),
    (0x00000154C000813F, .vscanMaxu ⟨2, 1, 0, ⟨1, 0⟩⟩),
    (0x00000E58C000813F, .vcmprs ⟨2, 1, 0, ⟨2, 3⟩⟩),
    (0x00000059C000833F, .vpopc ⟨6, 1, 0, ⟨0, 0⟩⟩),
    (0x0000005AC000833F, .vfirst ⟨6, 1, 0, ⟨0, 0⟩⟩)] = true := by decide +kernel

theorem test_decode_floats : reads
   [(0x0007A000408110BF, .vfadd ⟨1, 2, .xreg 8, 0, 7, 5, ⟨0, 0⟩⟩),
    (0x0007A001008110BF, .vfsub ⟨1, 2, .vec 8, 0, 7, 5, ⟨0, 0⟩⟩),
    (0x0007A002408110BF, .vfmul ⟨1, 2, .xreg 8, 0, 7, 5, ⟨0, 0⟩⟩),
    (0x0007A003008110BF, .vfdiv ⟨1, 2, .vec 8, 0, 7, 5, ⟨0, 0⟩⟩),
    (0x0002A0046A8110BF, .vfma ⟨1, 2, .xreg 8, 21, 2, 5, ⟨0, 0⟩⟩),
    (0x0002A0052A8110BF, .vfms ⟨1, 2, .vec 8, 21, 2, 5, ⟨0, 0⟩⟩),
    (0x0002A0066A8110BF, .vfnma ⟨1, 2, .xreg 8, 21, 2, 5, ⟨0, 0⟩⟩),
    (0x0002A0072A8110BF, .vfnms ⟨1, 2, .vec 8, 21, 2, 5, ⟨0, 0⟩⟩),
    (0x0000A008408110BF, .vfmin ⟨1, 2, .xreg 8, 0, 0, 5, ⟨0, 0⟩⟩),
    (0x0000A009008110BF, .vfmax ⟨1, 2, .vec 8, 0, 0, 5, ⟨0, 0⟩⟩),
    (0x0000A00B008110BF, .vfsgnj ⟨1, 2, .vec 8, 0, 0, 5, ⟨0, 0⟩⟩),
    (0x0000A00C408110BF, .vfsgnjn ⟨1, 2, .xreg 8, 0, 0, 5, ⟨0, 0⟩⟩),
    (0x0000A00D008110BF, .vfsgnjx ⟨1, 2, .vec 8, 0, 0, 5, ⟨0, 0⟩⟩),
    (0x0004000AC00110BF, .vfsqrt ⟨1, 2, 4, 0, ⟨0, 0⟩⟩),
    (0x00000010C00091BF, .vfrcp ⟨3, 1, 0, 0, ⟨0, 0⟩⟩),
    (0x00000011C00091BF, .vfrsq ⟨3, 1, 0, 0, ⟨0, 0⟩⟩),
    (0x00000012C00091BF, .vfexp2 ⟨3, 1, 0, 0, ⟨0, 0⟩⟩),
    (0x00000013C00091BF, .vflog2 ⟨3, 1, 0, 0, ⟨0, 0⟩⟩),
    (0x00000014C00091BF, .vfsin ⟨3, 1, 0, 0, ⟨0, 0⟩⟩),
    (0x00000015C00091BF, .vfcos ⟨3, 1, 0, 0, ⟨0, 0⟩⟩)] = true := by decide +kernel

theorem test_decode_floats2 : reads
   [(0x0000001841F090BF, .vfcmpEq ⟨1, 1, .xreg 31, 0, 0, 0, ⟨0, 0⟩⟩),
    (0x0000001941F090BF, .vfcmpNe ⟨1, 1, .xreg 31, 0, 0, 0, ⟨0, 0⟩⟩),
    (0x0000001A41F090BF, .vfcmpLt ⟨1, 1, .xreg 31, 0, 0, 0, ⟨0, 0⟩⟩),
    (0x0000001B41F090BF, .vfcmpLe ⟨1, 1, .xreg 31, 0, 0, 0, ⟨0, 0⟩⟩),
    (0x0000001C41F090BF, .vfcmpGt ⟨1, 1, .xreg 31, 0, 0, 0, ⟨0, 0⟩⟩),
    (0x0000001D41F090BF, .vfcmpGe ⟨1, 1, .xreg 31, 0, 0, 0, ⟨0, 0⟩⟩),
    (0x00000020C00091BF, .vfclass ⟨3, 1, 0, 0, ⟨0, 0⟩⟩),
    (0x00070030C00092BF, .vfredSum ⟨5, 1, 7, 0, ⟨0, 0⟩⟩),
    (0x00000031C00092BF, .vfredMin ⟨5, 1, 0, 0, ⟨0, 0⟩⟩),
    (0x00000032C00092BF, .vfredMax ⟨5, 1, 0, 0, ⟨0, 0⟩⟩),
    (0x00010033C00092BF, .vfscanSum ⟨5, 1, 1, 0, ⟨0, 0⟩⟩),
    (0x012F0028C000913F, .vcvt ⟨2, 1, 5, 1, false, false, false, 7, 0, ⟨0, 0⟩⟩)] = true := by decide +kernel

theorem test_decode_memory : reads
   [(0x00000000400E20BF, .vld ⟨1, 28, 0, 0, 0, 0, ⟨0, 0⟩⟩),
    (0x00000001406621BF, .vlds ⟨3, 12, 6, 0, 0, 0, ⟨0, 0⟩⟩),
    (0x000000020025223F, .vldx ⟨4, 10, 2, 0, 0, 0, ⟨0, 0⟩⟩),
    (0x000800034006A23F, .vldCh ⟨4, 13, 0, 1, 0, 0, ⟨0, 0⟩⟩),
    (0x00000008400EA13F, .vst ⟨2, 29, 0, 0, 0, 0, ⟨0, 0⟩⟩),
    (0x00286009407EA13F, .vsts ⟨2, 29, 7, 5, 0, 3, ⟨0, 0⟩⟩),
    (0x00B0000A003520BF, .vstx ⟨1, 10, 3, 6, 2, 0, ⟨0, 0⟩⟩),
    (0x000000104001283F, .vspill ⟨16, 2, 0, 0⟩),
    (0x000000114001283F, .vfill ⟨16, 2, 0, 0⟩)] = true := by decide +kernel

theorem test_decode_vectorAtomics : reads
   [(0xB23000201885223F, .vamoaddW ⟨4, 10, 8, 12, 6, 200, true, false, 0, ⟨0, 0⟩⟩),
    (0x723100211885223F, .vamoandW ⟨4, 10, 8, 12, 6, 200, false, true, 1, ⟨0, 0⟩⟩),
    (0xB23200221885223F, .vamoorW ⟨4, 10, 8, 12, 6, 200, true, false, 2, ⟨0, 0⟩⟩),
    (0x723300231885223F, .vamoxorW ⟨4, 10, 8, 12, 6, 200, false, true, 3, ⟨0, 0⟩⟩),
    (0xB23400241885223F, .vamoswapW ⟨4, 10, 8, 12, 6, 200, true, false, 4, ⟨0, 0⟩⟩),
    (0x723500251885223F, .vamominW ⟨4, 10, 8, 12, 6, 200, false, true, 5, ⟨0, 0⟩⟩),
    (0xB23000261885223F, .vamomaxW ⟨4, 10, 8, 12, 6, 200, true, false, 0, ⟨0, 0⟩⟩),
    (0x723100271885223F, .vamominuW ⟨4, 10, 8, 12, 6, 200, false, true, 1, ⟨0, 0⟩⟩),
    (0xB23200281885223F, .vamomaxuW ⟨4, 10, 8, 12, 6, 200, true, false, 2, ⟨0, 0⟩⟩),
    (0x723300291885223F, .vamocasW ⟨4, 10, 8, 12, 6, 200, false, true, 3, ⟨0, 0⟩⟩),
    (0xB23000301885223F, .vamoaddD ⟨4, 10, 8, 12, 6, 200, true, false, 0, ⟨0, 0⟩⟩),
    (0x723100311885223F, .vamoandD ⟨4, 10, 8, 12, 6, 200, false, true, 1, ⟨0, 0⟩⟩),
    (0xB23200321885223F, .vamoorD ⟨4, 10, 8, 12, 6, 200, true, false, 2, ⟨0, 0⟩⟩),
    (0x723300331885223F, .vamoxorD ⟨4, 10, 8, 12, 6, 200, false, true, 3, ⟨0, 0⟩⟩),
    (0xB23400341885223F, .vamoswapD ⟨4, 10, 8, 12, 6, 200, true, false, 4, ⟨0, 0⟩⟩),
    (0x723500351885223F, .vamominD ⟨4, 10, 8, 12, 6, 200, false, true, 5, ⟨0, 0⟩⟩),
    (0xB23000361885223F, .vamomaxD ⟨4, 10, 8, 12, 6, 200, true, false, 0, ⟨0, 0⟩⟩),
    (0x723100371885223F, .vamominuD ⟨4, 10, 8, 12, 6, 200, false, true, 1, ⟨0, 0⟩⟩),
    (0xB23200381885223F, .vamomaxuD ⟨4, 10, 8, 12, 6, 200, true, false, 2, ⟨0, 0⟩⟩),
    (0x723300391885223F, .vamocasD ⟨4, 10, 8, 12, 6, 200, false, true, 3, ⟨0, 0⟩⟩)] = true := by decide +kernel

theorem test_decode_atomics : reads
   [(0x80080040408524BF, .amoaddW ⟨9, 10, 8, 0, 1, 0, true, false, 0⟩),
    (0x40090041408524BF, .amoandW ⟨9, 10, 8, 0, 1, 0, false, true, 1⟩),
    (0x800A0042408524BF, .amoorW ⟨9, 10, 8, 0, 1, 0, true, false, 2⟩),
    (0x400B0043408524BF, .amoxorW ⟨9, 10, 8, 0, 1, 0, false, true, 3⟩),
    (0x800C0044408524BF, .amoswapW ⟨9, 10, 8, 0, 1, 0, true, false, 4⟩),
    (0x400D0045408524BF, .amominW ⟨9, 10, 8, 0, 1, 0, false, true, 5⟩),
    (0x80080046408524BF, .amomaxW ⟨9, 10, 8, 0, 1, 0, true, false, 0⟩),
    (0x40090047408524BF, .amominuW ⟨9, 10, 8, 0, 1, 0, false, true, 1⟩),
    (0x800A0048408524BF, .amomaxuW ⟨9, 10, 8, 0, 1, 0, true, false, 2⟩),
    (0x400B00495A8524BF, .amocasW ⟨9, 10, 8, 13, 1, 0, false, true, 3⟩),
    (0x80080050408524BF, .amoaddD ⟨9, 10, 8, 0, 1, 0, true, false, 0⟩),
    (0x40090051408524BF, .amoandD ⟨9, 10, 8, 0, 1, 0, false, true, 1⟩),
    (0x800A0052408524BF, .amoorD ⟨9, 10, 8, 0, 1, 0, true, false, 2⟩),
    (0x400B0053408524BF, .amoxorD ⟨9, 10, 8, 0, 1, 0, false, true, 3⟩),
    (0x800C0054408524BF, .amoswapD ⟨9, 10, 8, 0, 1, 0, true, false, 4⟩),
    (0x400D0055408524BF, .amominD ⟨9, 10, 8, 0, 1, 0, false, true, 5⟩),
    (0x80080056408524BF, .amomaxD ⟨9, 10, 8, 0, 1, 0, true, false, 0⟩),
    (0x40090057408524BF, .amominuD ⟨9, 10, 8, 0, 1, 0, false, true, 1⟩),
    (0x800A0058408524BF, .amomaxuD ⟨9, 10, 8, 0, 1, 0, true, false, 2⟩),
    (0x400B00595A8524BF, .amocasD ⟨9, 10, 8, 13, 1, 0, false, true, 3⟩)] = true := by decide +kernel

theorem test_decode_matrix : reads
   [(0x000000000040383F, .mma 16 0 4),
    (0x00000001C000343F, .mmr 8 0),
    (0x00080002C004303F, .mldb 1 8),
    (0x00180003C006343F, .mconv 8 3 12),
    (0x0010A004C003343F, .mstc 8 2 6 5 0),
    (0x00000010C002B03F, .tdset 0 5),
    (0x00180011C005303F, .tdget 3 10)] = true := by decide +kernel

theorem test_decode_graphics : reads
   [(0x000000000080483F, .vbox 16 0 8 ⟨0, 0⟩),
    (0x0000000100804A3F, .vtri 20 0 8 ⟨0, 0⟩),
    (0x001800080061443F, .tex 8 2 6 3 ⟨0, 0⟩),
    (0x081800080061443F, .texGrad 8 2 6 3 ⟨0, 0⟩),
    (0x101800080061443F, .texLod 8 2 6 3 ⟨0, 0⟩),
    (0x001800094061443F, .txld 8 2 6 3 ⟨0, 0⟩),
    (0x0000061040B2403F, .tcommit 4 11 ⟨2, 1⟩)] = true := by decide +kernel

theorem test_decode_synchronisation : reads
   [(0x40030000C000503F, .phase false true 3),
    (0x80030000C000503F, .phase true false 3),
    (0xC0010000C000503F, .phase true true 1),
    (0x04280008C003503F, .arrive 1 5 6 0),
    (0x08010008C00B503F, .arrive 2 0 22 1),
    (0x04280009C000503F, .waitb 5 0),
    (0x04010009C000503F, .waitb 0 1),
    (0x0428000AC00052BF, .testb 5 5),
    (0x00000010C004D03F, .enq 9),
    (0x00000011C005D53F, .enqNb 10 11),
    (0x00000012C000503F, .tdone),
    (0x00080018C006D03F, .psend 1 13),
    (0x00000019C006D2BF, .precv 5 0 13),
    (0x00000020C007503F, .xpush 14),
    (0x00000021C007553F, .xpushNb 10 14),
    (0x00000028C067D03F, .mwait 15 6),
    (0x00000030C005503F, .gendone 10),
    (0x00000031C065503F, .genfail 10 6),
    (0x00000032C005503F, .fillrst 10)] = true := by decide +kernel

theorem test_decode_control64 : reads
   [(0x00106000C005E2BF, .setvl 5 11 0x0013),
    (0x5C402000C005E53F, .setvl 10 11 0x5C41),
    (0x00000001C0C5E2BF, .setvlReg 5 11 12),
    (0x00000008C000E03F, .mpush 1),
    (0x00000009C000603F, .minv),
    (0x0000000AC000603F, .mpop),
    (0x0010000CC000603F, .bmz 2),
    (0x0010000DC000603F, .bmnz 2),
    (0xFFE0000CC000603F, .bmz 0x1FFC),
    (0x00000010D8B562BF, .jtbl 5 10 11 12),
    (0x00000018C00FE03F, .hback 31 0),
    (0x00000018C0F4603F, .hback 8 15),
    (0x00000019C000603F, .frjoin),
    (0x00000020C005603F, .tresume 10),
    (0x00000021C005603F, .tkill 10),
    (0x00000028C0B5603F, .tlbinv 10 11),
    (0x00080028C0B0603F, .tlbinvCol 0 11)] = true := by decide +kernel

/-- Why bytes are no instruction. -/
def whyNot (bs : List Byte) : Option DecodeError := match decode bs with
  | .error e => some e
  | .ok _ => none

/-- Words that R54, R64, R66 and R81 make no instruction, each with the reason. -/
theorem test_decode_refuses :
    whyNot (bytesOf 8 0x0000000BC000603F) = some .func8 ∧ whyNot (bytesOf 8 0x000000000000703F) = some .group
    ∧ whyNot (bytesOf 8 0x00000008C008603F) = some .register ∧ whyNot (bytesOf 8 0x000004000000103F) = some .mask
    ∧ whyNot (bytesOf 4 0) = some .length16 ∧ whyNot (bytesOf 8 0x1F) = some .length48 ∧ whyNot (bytesOf 8 0x7F) = some .length80
    ∧ whyNot (bytesOf 4 0x0000002F) = some .major
    ∧ whyNot (bytesOf 4 0x0200103B) = some .selector ∧ whyNot (bytesOf 8 0x000800004000003F) = some .reserved
    ∧ whyNot (bytesOf 8 0x00000040C000003F) = some .operandClass ∧ whyNot (bytesOf 8 0x00000000C000503F) = some .code
    ∧ whyNot (bytesOf 4 0x3F) = some .truncated := by decide +kernel

/-! ### Well-formedness -/

/-- None of these is well formed. -/
def refuses (l : List Instr) : Bool := l.all (fun i => !i.wellFormed)

theorem test_illformed_registers : refuses
    [.mpush 8, .vcmpEq ⟨8, 0, .vec 0, 0, ⟨0, 0⟩⟩, .vfcmpEq ⟨8, 0, .vec 0, 0, 0, 0, ⟨0, 0⟩⟩, .vpopc ⟨0, 8, 0, ⟨0, 0⟩⟩,
     .vfirst ⟨0, 8, 0, ⟨0, 0⟩⟩, .xpush 0, .xpush 29, .xpushNb 0 0, .xpushNb 0 29] = true := by decide +kernel
theorem test_illformed_codes : refuses
    [.phase false false 0, .phase true false 6, .arrive 0 0 0 0, .arrive 6 0 0 0, .arrive 1 0 0 6, .waitb 0 6, .mstc 0 0 0 7 0,
     .mstc 0 0 0 0 5, .vldCh ⟨0, 0, 0, 0, 0, 0, ⟨0, 0⟩⟩] = true := by decide +kernel
theorem test_illformed_masks : refuses
    [.vadd ⟨0, 0, .vec 0, 0, ⟨1, 1⟩⟩, .vredAdd ⟨0, 0, 0, ⟨0, 1⟩⟩, .vfadd ⟨0, 0, .vec 0, 0, 0, 0, ⟨1, 2⟩⟩, .vfsqrt ⟨0, 0, 0, 0, ⟨0, 3⟩⟩,
     .vcvt ⟨0, 0, 2, 3, false, false, false, 0, 0, ⟨0, 1⟩⟩, .vld ⟨0, 0, 0, 0, 0, 0, ⟨0, 1⟩⟩, .vamoaddW ⟨0, 0, 0, 0, 0, 0, false, false, 0, ⟨1, 1⟩⟩,
     .vbox 0 0 0 ⟨0, 1⟩, .vtri 0 0 0 ⟨1, 1⟩, .tex 0 0 0 0 ⟨0, 1⟩, .texGrad 0 0 0 0 ⟨0, 1⟩, .texLod 0 0 0 0 ⟨0, 1⟩, .txld 0 0 0 0 ⟨0, 1⟩,
     .tcommit 0 0 ⟨1, 7⟩] = true := by decide +kernel
theorem test_illformed_classes : refuses
    [.vperm ⟨0, 0, .xreg 0, 0, ⟨0, 0⟩⟩, .vperm ⟨0, 0, .imm 0, 0, ⟨0, 0⟩⟩, .vslideUp ⟨0, 0, .vec 0, 0, ⟨0, 0⟩⟩, .vslideDn ⟨0, 0, .vec 0, 0, ⟨0, 0⟩⟩,
     .vbcast ⟨0, 0, .vec 0, 0, ⟨0, 0⟩⟩, .vmvxs ⟨0, 0, .vec 0, 0, ⟨0, 0⟩⟩, .vfadd ⟨0, 0, .imm 0, 0, 0, 0, ⟨0, 0⟩⟩, .vmv ⟨0, 1, .imm 0, 0, ⟨0, 0⟩⟩,
     .vbcast ⟨0, 1, .imm 0, 0, ⟨0, 0⟩⟩] = true := by decide +kernel
theorem test_illformed_types : refuses
    [.vadd ⟨0, 0, .vec 0, 5, ⟨0, 0⟩⟩, .vscanAdd ⟨0, 0, 5, ⟨0, 0⟩⟩, .vfadd ⟨0, 0, .vec 0, 0, 0, 7, ⟨0, 0⟩⟩, .vfadd ⟨0, 0, .vec 0, 0, 5, 0, ⟨0, 0⟩⟩,
     .vfmin ⟨0, 0, .vec 0, 0, 1, 0, ⟨0, 0⟩⟩, .vfadd ⟨0, 0, .vec 0, 1, 0, 0, ⟨0, 0⟩⟩, .vfsqrt ⟨0, 0, 6, 0, ⟨0, 0⟩⟩, .vfrcp ⟨0, 0, 1, 0, ⟨0, 0⟩⟩,
     .vfclass ⟨0, 0, 0, 7, ⟨0, 0⟩⟩, .vcvt ⟨0, 0, 2, 4, false, false, false, 0, 0, ⟨0, 0⟩⟩, .vcvt ⟨0, 0, 2, 3, false, false, true, 0, 0, ⟨0, 0⟩⟩,
     .vcvt ⟨0, 0, 2, 3, false, true, false, 0, 1, ⟨0, 0⟩⟩, .vcvt ⟨0, 0, 2, 3, false, false, false, 5, 0, ⟨0, 0⟩⟩,
     .vcvt ⟨0, 0, 2, 3, false, false, false, 0, 7, ⟨0, 0⟩⟩] = true := by decide +kernel
theorem test_illformed_spaces : refuses
    [.vld ⟨0, 0, 0, 7, 0, 0, ⟨0, 0⟩⟩, .vld ⟨0, 0, 0, 0, 1, 0, ⟨0, 0⟩⟩, .vld ⟨0, 0, 1, 0, 0, 0, ⟨0, 0⟩⟩, .vst ⟨0, 0, 0, 0, 0, 5, ⟨0, 0⟩⟩,
     .vspill ⟨0, 0, 7, 0⟩, .vfill ⟨0, 0, 1, 1⟩, .amoaddW ⟨0, 0, 0, 0, 7, 0, false, false, 0⟩, .amoaddD ⟨0, 0, 0, 0, 0, 0, false, false, 6⟩,
     .amoaddW ⟨0, 0, 0, 1, 0, 0, false, false, 0⟩, .vamocasD ⟨0, 0, 0, 0, 7, 0, false, false, 0, ⟨0, 0⟩⟩,
     .vamocasD ⟨0, 0, 0, 0, 0, 0, false, false, 7, ⟨0, 0⟩⟩] = true := by decide +kernel
theorem test_illformed_events : refuses
    [.contextWake 768 0 false, .contextWake 0 8 false, .taskDispatch 768 0, .taskDispatch 0 8, .stealProbe 768 0, .stealProbe 0 768,
     .teamMigrate 8 0 0, .teamMigrate 0 8 0, .reservationLapse 8 0, .bell 8 0, .bellDeadline 8 0, .colourSwitchComplete 8 0,
     .messageDeliver 768 0, .messageDeliver 0 8, .copy 192, .copyFill 192, .rast 192, .trace 192, .sample 192,
     .tileOffer ⟨0, 0, 4096, false, 32, 0, List.replicate 64 0, 0, 0⟩, .tileOffer ⟨0, 0, 0, false, 16, 0, List.replicate 64 0, 0, 0⟩,
     .tileOffer ⟨0, 0, 0, false, 32, 0, [], 0, 0⟩, .tileOffer ⟨0, 0, 0, false, 32, 0, List.replicate 64 (2 ^ 32), 0, 0⟩, .sliceUnpin 256,
     .hostWrite 0 (List.replicate 129 0), .bindRecordWrite 8 0 0, .supervisorQueueWrite 8 0 0, .ringDescriptorWrite 256 0,
     .ringModeControl 8 0, .readbackL2Tag 256 0, .readbackQueueEntry 256 0, .readbackDirectory 256 0, .readbackBadKind 256 0,
     .clusterRepair 192, .l2WayRepair 256 0 0, .l2WayRepair 0 1536 0, .l2WayRepair 0 0 32, .snoopAnswer 0 []] = true := by decide +kernel


end Sys2Proof.Tests
end

