-- ==== Sys2Proof/Tests/Vector.lean ====
section
/-! SUPPORT. States and operands that meet the premises of the statements about vector, matrix and graphics forms and atomics. -/

set_option Elab.async false

namespace Sys2Proof.Tests
open Sys2Proof.Machine Sys2Proof.Claims

/-! ### Vector forms: FP32 rows of 128 elements, integer types that et names, tiles of two registers, VL 0 -/

def s32 : State := typed m0 0x13 128
def two32 : State := typed m0 0x1913 256

theorem witness_vector_integer :
    (∃ f l, viRow (.vadd ⟨4, 2, .vec 2, 0, ⟨0, 0⟩⟩) = some (⟨4, 2, .vec 2, 0, ⟨0, 0⟩⟩, f, l))
    ∧ VecOk two32 (intType two32.me.vty 0) (8 ≤ (intType two32.me.vty 0).sew) ([4, 2] ++ Src.tiles (.vec 2)) none
    ∧ (∃ f l, viRow (.vsadd ⟨31, 31, .imm 0x1FFF, 4, ⟨3, 7⟩⟩) = some (⟨31, 31, .imm 0x1FFF, 4, ⟨3, 7⟩⟩, f, l))
    ∧ VecOk (typed m0 0x13 64) (intType 0x13 4) (8 ≤ (intType 0x13 4).sew) ([31, 31] ++ Src.tiles (.imm 0x1FFF)) none
    ∧ VecOk (typed m0 0x13 0) (intType 0x13 1) (8 ≤ (intType 0x13 1).sew) ([0, 0] ++ Src.tiles (.xreg 5)) none :=
  ⟨⟨_, _, rfl⟩, vec_ok (by decide +kernel) (by decide +kernel), ⟨_, _, rfl⟩, vec_ok (by decide +kernel) (by decide +kernel),
   vec_ok (by decide +kernel) (by decide +kernel)⟩
theorem witness_vector_compares :
    (∃ f, viCmpRow (.vcmpLtu ⟨7, 2, .vec 3, 3, ⟨2, 7⟩⟩) = some (⟨7, 2, .vec 3, 3, ⟨2, 7⟩⟩, f))
    ∧ VecOk s32 (intType s32.me.vty 3) (8 ≤ (intType s32.me.vty 3).sew) ([2] ++ Src.tiles (.vec 3)) none
    ∧ (∃ f u l, vfCmpRow (.vfcmpNe ⟨0, 2, .xreg 3, 0, 0, 0, ⟨1, 0⟩⟩) = some (⟨0, 2, .xreg 3, 0, 0, 0, ⟨1, 0⟩⟩, f, u, l))
    ∧ VecOk s32 (fltType s32.me.vty 0) (1 ≤ (fltType s32.me.vty 0).fmt ∧ (fltType s32.me.vty 0).fmt ≤ 4) ([2] ++ Src.tiles (.xreg 3)) none
    ∧ VecOk (typed m0 0x13 64) (fltType 0x13 1) (1 ≤ (fltType 0x13 1).fmt ∧ (fltType 0x13 1).fmt ≤ 4) ([2] ++ Src.tiles (.xreg 3)) none :=
  ⟨⟨_, rfl⟩, vec_ok (by decide +kernel) (by decide +kernel), ⟨_, _, _, rfl⟩, vec_ok (by decide +kernel) (by decide +kernel),
   vec_ok (by decide +kernel) (by decide +kernel)⟩
theorem witness_vector_reductions :
    (∃ e f, viRedRow (.vscanMinu ⟨2, 3, 2, ⟨3, 0⟩⟩) = some (⟨2, 3, 2, ⟨3, 0⟩⟩, true, e, f))
    ∧ VecOk s32 (intType s32.me.vty 2) (8 ≤ (intType s32.me.vty 2).sew) [2, 3] none
    ∧ vfRedRow (.vfredSum ⟨2, 3, 7, 0, ⟨1, 0⟩⟩) = some (⟨2, 3, 7, 0, ⟨1, 0⟩⟩, true)
    ∧ VecOk s32 (fltType s32.me.vty 0) (1 ≤ (fltType s32.me.vty 0).fmt ∧ (fltType s32.me.vty 0).fmt ≤ 4) [2, 3] (some 7)
    ∧ vfRedRow (.vfredMax ⟨2, 3, 0, 4, ⟨0, 0⟩⟩) = some (⟨2, 3, 0, 4, ⟨0, 0⟩⟩, false)
    ∧ VecOk (typed m0 0x13 0) (fltType 0x13 4) (1 ≤ (fltType 0x13 4).fmt ∧ (fltType 0x13 4).fmt ≤ 4) [2, 3] none :=
  ⟨⟨_, _, rfl⟩, vec_ok (by decide +kernel) (by decide +kernel), rfl, vec_ok (by decide +kernel) (by decide +kernel), rfl,
   vec_ok (by decide +kernel) (by decide +kernel)⟩
theorem witness_vector_permutes :
    (∃ f, permRow two32 (.vslideUp ⟨4, 2, .imm 3, 0, ⟨0, 0⟩⟩) = some (⟨4, 2, .imm 3, 0, ⟨0, 0⟩⟩, [4, 2], f))
    ∧ VecOk two32 (intType two32.me.vty 0) (8 ≤ (intType two32.me.vty 0).sew) [4, 2] none
    ∧ (∃ f, permRow s32 (.vperm ⟨4, 2, .vec 3, 0, ⟨0, 0⟩⟩) = some (⟨4, 2, .vec 3, 0, ⟨0, 0⟩⟩, [4, 2, 3], f))
    ∧ VecOk s32 (intType s32.me.vty 0) (8 ≤ (intType s32.me.vty 0).sew) [4, 2, 3] none
    ∧ (∃ w, countRow s32 (.vfirst ⟨5, 7, 0, ⟨0, 0⟩⟩) = some (⟨5, 7, 0, ⟨0, 0⟩⟩, w))
    ∧ VecOk s32 (intType s32.me.vty 0) (8 ≤ (intType s32.me.vty 0).sew) [] none
    ∧ VecOk s32 (intType s32.me.vty 0) (8 ≤ (intType s32.me.vty 0).sew) [31] none :=
  ⟨⟨_, rfl⟩, vec_ok (by decide +kernel) (by decide +kernel), ⟨_, rfl⟩, vec_ok (by decide +kernel) (by decide +kernel), ⟨_, rfl⟩,
   vec_ok (by decide +kernel) (by decide +kernel), vec_ok (by decide +kernel) (by decide +kernel)⟩
/-- A fused form with the dynamic rounding mode, and an approximation. -/
theorem witness_vector_floats :
    (∃ r, vfRow (.vfnms ⟨4, 2, .vec 6, 8, 7, 0, ⟨1, 0⟩⟩) = some r
      ∧ VecOk two32 (fltType two32.me.vty r.et) (1 ≤ (fltType two32.me.vty r.et).fmt ∧ (fltType two32.me.vty r.et).fmt ≤ 4) r.tiles r.rm)
    ∧ (∃ r, vfRow (.vfrsq ⟨4, 2, 0, 3, ⟨0, 0⟩⟩) = some r
      ∧ VecOk s32 (fltType s32.me.vty r.et) (1 ≤ (fltType s32.me.vty r.et).fmt ∧ (fltType s32.me.vty r.et).fmt ≤ 4) r.tiles r.rm) :=
  ⟨⟨_, rfl, vec_ok (by decide +kernel) (by decide +kernel)⟩, ⟨_, rfl, vec_ok (by decide +kernel) (by decide +kernel)⟩⟩
/-- FP32 to INT8; a block type to FP32; and FP32 to MXE2M1 with VL two blocks. -/
theorem witness_conversions :
    (let o : CvtOp := ⟨4, 2, 0, 1, true, false, true, 4, 0, ⟨0, 0⟩⟩
     VecOk s32 (fltType s32.me.vty o.et) True [o.s1] (some o.rm) ∧ (o.usrc = true → (fltType s32.me.vty o.et).fmt = 0)
     ∧ o.d.toNat % s32.gf = 0 ∧ s32.vl ≤ s32.vlmaxAt (sewOf o.sew.toNat) ∧ o.fmt.toNat < 8)
    ∧ (let o : CvtOp := ⟨4, 2, 2, 3, false, false, false, 0, 0, ⟨0, 0⟩⟩
       let s := typed m0 0x4041 128
       VecOk s (fltType s.me.vty o.et) True [o.s1] (some o.rm) ∧ o.d.toNat % s.gf = 0 ∧ s.vl ≤ s.vlmaxAt (sewOf o.sew.toNat) ∧ o.fmt.toNat < 8)
    ∧ (let o : CvtOp := ⟨30, 2, 10, 0, false, false, false, 0, 0, ⟨0, 0⟩⟩
       let s := typed m0 0x13 64
       VecOk s (fltType s.me.vty o.et) True [o.s1] (some o.rm) ∧ o.d.toNat % s.gf = 0 ∧ s.vl ≤ s.vlmaxAt (sewOf o.sew.toNat) ∧ 8 ≤ o.fmt.toNat
       ∧ s.vl % cvtBlockLen o (fltType s.me.vty o.et) = 0 ∧ o.d.toNat + s.gf + scaleRegs s.gf ≤ 32) :=
  ⟨⟨vec_ok (by decide +kernel) trivial, by decide +kernel, by decide +kernel, by decide +kernel, by decide +kernel⟩,
   ⟨vec_ok (by decide +kernel) trivial, by decide +kernel, by decide +kernel, by decide +kernel⟩,
   ⟨vec_ok (by decide +kernel) trivial, by decide +kernel, by decide +kernel, by decide +kernel, by decide +kernel, by decide +kernel⟩⟩
theorem witness_exact_codes :
    (let f := fmtOf 1
     0x8000000000000001 < 2 ^ (f.eb + f.fb + 1) ∧ (f.value 0x8000000000000001).isFin = true)
    ∧ (let f := fmtOf 12
       15 < 2 ^ (f.eb + f.fb + 1) ∧ (f.value 15).isFin = true) := by decide +kernel

/-! ### Atomics and vector memory -/

/-- What a memory operand names here. -/
def here (s : State) (sel : BitVec 3) (n : BitVec 8) : Via := val (⟨0, 0, none, 0, none, 0⟩ : Via) (via s s.who sel n)
/-- The place that an access reaches. -/
def placeOf (s : State) (a : Acc) (g : Bool) : Target := got (checkAcc s s.who a g)

theorem witness_scalar_atomics :
    let s := regs m0 [(6, 0x204)]
    let o : AmoOp := ⟨5, 6, 7, 8, 0, 0, true, true, 5⟩
    let tg := placeOf s (amoAcc s o 4 (here s 0 0)) true
    (∃ f, amoRow (.amoswapW o) = some (o, 4, f)) ∧ via s s.who o.sel o.n = .ok (here s 0 0)
    ∧ checkAcc s s.who (amoAcc s o 4 (here s 0 0)) true = .ok tg ∧ s.task.atomic = false ∧ amoHeld s tg = false ∧ NoVictims s
    ∧ Writable s tg.loc 4 ∧ CanRelease s :=
  ⟨⟨_, rfl⟩, is_val _ (by decide +kernel), is_got (by decide +kernel), by decide +kernel, by decide +kernel, calm_spec (by decide +kernel),
   fun _ _ => ⟨rfl, rfl⟩, canRel_spec (by decide +kernel)⟩
/-- An atomic task's AMO; and one on a barrier slot of the own scratchpad through the selector of the core. -/
theorem witness_scalar_atomics_elsewhere :
    (let s := atom (regs m0 [(6, 0x208)])
     let o : AmoOp := ⟨0, 6, 7, 8, 0, 0, false, false, 0⟩
     let tg := placeOf s (amoAcc s o 8 (here s 0 0)) true
     (∃ f, amoRow (.amocasD o) = some (o, 8, f)) ∧ via s s.who o.sel o.n = .ok (here s 0 0)
     ∧ checkAcc s s.who (amoAcc s o 8 (here s 0 0)) true = .ok tg ∧ s.task.atomic = true ∧ namesScratch o.sel = false
     ∧ amoHeld s tg = false ∧ NoVictims s ∧ Writable s tg.loc 8 ∧ o.rl = false)
    ∧ (let s := regs m0 [(6, 0x5FFF8)]
       let o : AmoOp := ⟨5, 6, 7, 8, 1, 0, false, false, 0⟩
       let tg := placeOf s (amoAcc s o 8 (here s 1 0)) true
       via s s.who o.sel o.n = .ok (here s 1 0) ∧ checkAcc s s.who (amoAcc s o 8 (here s 1 0)) true = .ok tg ∧ Writable s tg.loc 8) :=
  ⟨⟨⟨_, rfl⟩, is_val _ (by decide +kernel), is_got (by decide +kernel), by decide +kernel, by decide +kernel, by decide +kernel,
    calm_spec (by decide +kernel), fun _ _ => ⟨rfl, rfl⟩, rfl⟩,
   ⟨is_val _ (by decide +kernel), is_got (by decide +kernel), fun _ _ => ⟨rfl, rfl⟩⟩⟩

/-- Four elements whose offsets lie in v2: 0, 8, 16 and 24. -/
def offsets (s : State) : State := s.setMe { s.me with v := [(2, BitVec.ofNat 16384 (8 * 2 ^ 32 + 16 * 2 ^ 64 + 24 * 2 ^ 96))] }
theorem act4 {s : State} {m : MaskSel} {P : Nat → Prop} (hvl : s.vl ≤ 4) (h0 : P 0) (h1 : P 1) (h2 : P 2) (h3 : P 3) :
    ∀ j, acts s m j = true → P j := by
  intro j hj
  have : j < 4 := by
    simp only [acts, Bool.and_eq_true, decide_eq_true_eq] at hj
    omega
  match j, this with
  | 0, _ => exact h0
  | 1, _ => exact h1
  | 2, _ => exact h2
  | 3, _ => exact h3

theorem witness_vector_atomics :
    let s := offsets (typed (regs m0 [(6, 0x200)]) 0x13 4)
    let o : VAmoOp := ⟨1, 6, 2, 3, 0, 0, true, true, 3, ⟨0, 0⟩⟩
    let tg := fun j => placeOf s (elemAcc s (here s 0 0) (s.x o.s1) (.index o.s2) 32 .amo j) true
    (∃ f, vamoRow (.vamomaxuW o) = some (o, 4, f)) ∧ s.task.atomic = false ∧ via s s.who o.sel o.n = .ok (here s 0 0)
    ∧ VecOk s (atomType s 4) True [o.d, o.s2, o.s3] none
    ∧ (∀ j, acts s o.m j = true → checkAcc s s.who (elemAcc s (here s 0 0) (s.x o.s1) (.index o.s2) 32 .amo j) true = .ok (tg j)
        ∧ amoHeld s (tg j) = false ∧ Writable s (tg j).loc 4)
    ∧ (∀ j, acts s o.m j = true → (tg j).loc = 0x200 + 8 * j) ∧ NoVictims s ∧ CanRelease s := by
  refine ⟨⟨_, rfl⟩, by decide +kernel, is_val _ (by decide +kernel), vec_ok (by decide +kernel) trivial, ?_, ?_,
    calm_spec (by decide +kernel), canRel_spec (by decide +kernel)⟩
  · refine act4 (by decide +kernel) ?_ ?_ ?_ ?_ <;>
      exact ⟨is_got (by decide +kernel), by decide +kernel, fun _ _ => ⟨rfl, rfl⟩⟩
  · refine act4 (by decide +kernel) ?_ ?_ ?_ ?_ <;> decide +kernel

/-- A strided load; a chained load with no tracker; half-bytes in the own scratchpad. -/
theorem witness_vector_loads :
    (let s := typed (regs m0 [(6, 0x200), (7, 0x40)]) 0x13 4
     let o : MemOp := ⟨1, 6, 7, 0, 0, 0, ⟨0, 0⟩⟩
     vldRow (.vlds o) = some (o, .stride 7, false)
     ∧ VecOk s (memType s.me.vty 0) (Pattern.stride 7 = .unit ∨ (memType s.me.vty 0).sew ≠ 4) (memTiles o (.stride 7)) none
     ∧ s.task.atomic = false ∧ via s s.who o.sel o.n = .ok (here s 0 0)
     ∧ ∀ j, acts s o.m j = true → checkAcc s s.who (elemAcc s (here s 0 0) (s.x o.s1) (.stride 7) 32 .load j) true
         = .ok (placeOf s (elemAcc s (here s 0 0) (s.x o.s1) (.stride 7) 32 .load j) true))
    ∧ (let s := typed (regs m0 [(6, 0x200)]) 0x2060 4
       let o : MemOp := ⟨1, 6, 0, 1, 0, 0, ⟨0, 0⟩⟩
       vldRow (.vldCh o) = some (o, .unit, true) ∧ (memType s.me.vty 0).sew = 4
       ∧ VecOk s (memType s.me.vty 0) (Pattern.unit = .unit ∨ (memType s.me.vty 0).sew ≠ 4) (memTiles o .unit) none
       ∧ via s s.who o.sel o.n = .ok (here s 1 0) ∧ s.part.trackers = [] ∧ s.me.wait = none
       ∧ ∀ j, acts s o.m j = true → checkAcc s s.who (elemAcc s (here s 1 0) (s.x o.s1) .unit 4 .load j) true
           = .ok (placeOf s (elemAcc s (here s 1 0) (s.x o.s1) .unit 4 .load j) true)) := by
  refine ⟨⟨rfl, vec_ok (by decide +kernel) (by decide +kernel), by decide +kernel, is_val _ (by decide +kernel), ?_⟩,
    ⟨rfl, by decide +kernel, vec_ok (by decide +kernel) (.inl rfl), is_val _ (by decide +kernel), by decide +kernel, by decide +kernel, ?_⟩⟩
  · refine act4 (by decide +kernel) ?_ ?_ ?_ ?_ <;> exact is_got (by decide +kernel)
  · refine act4 (by decide +kernel) ?_ ?_ ?_ ?_ <;> exact is_got (by decide +kernel)
theorem witness_vector_stores :
    let s := offsets (typed (regs m0 [(6, 0x200)]) 0x13 4)
    let o : MemOp := ⟨1, 6, 2, 0, 0, 0, ⟨0, 0⟩⟩
    let a := elemAcc s (here s 0 0) (s.x o.s1) (.index 2) 32 .store
    vstRow (.vstx o) = some (o, .index 2) ∧ s.task.atomic = false ∧ via s s.who o.sel o.n = .ok (here s 0 0)
    ∧ VecOk s (memType s.me.vty 0) (Pattern.index 2 = .unit ∨ (memType s.me.vty 0).sew ≠ 4) (memTiles o (.index 2)) none
    ∧ ∀ j, acts s o.m j = true → checkAcc s s.who (a j) false = .ok (placeOf s (a j) false) ∧ Writable s (placeOf s (a j) false).loc 4 := by
  refine ⟨rfl, by decide +kernel, is_val _ (by decide +kernel), vec_ok (by decide +kernel) (by decide +kernel), ?_⟩
  refine act4 (by decide +kernel) ?_ ?_ ?_ ?_ <;> exact ⟨is_got (by decide +kernel), fun _ _ => ⟨rfl, rfl⟩⟩

/-- What the checks of an element come to: 0 a place, 1 a trap, 2 a park, 3 a wait. -/
def comesTo {α : Type} : Except Halt α → Nat
  | .ok _ => 0
  | .error (.trap _) => 1
  | .error (.park _) => 2
  | .error (.wait _) => 3
def trapIn {α : Type} : Except Halt α → Option Trap
  | .error (.trap c) => some c
  | _ => none
theorem first_fault {α : Type} {s : State} {m : MaskSel} {f : Nat → Except Halt α} {k : Nat} {c : Trap} (ha : acts s m k = true)
    (hk : trapIn (f k) = some c) (hl : ∀ j < k, comesTo (f j) ≠ 1) : FirstFault s m f k c := by
  refine ⟨ha, ?_, fun j hj _ d hd => hl j hj (by rw [hd]; rfl)⟩
  cases hf : f k with
  | ok t => simp [hf, trapIn] at hk
  | error h => cases h <;> simp_all [trapIn]
theorem only_parks {α : Type} {s : State} {m : MaskSel} {f : Nat → Except Halt α} (j : Nat) (hn : ∀ i < s.vl, comesTo (f i) ≠ 1)
    (ha : acts s m j = true) (hp : comesTo (f j) = 2) : OnlyParks s m f := by
  refine ⟨fun i hi d hd => hn i ?_ (by rw [hd]; rfl), j, ?_⟩
  · simp only [acts, Bool.and_eq_true, decide_eq_true_eq] at hi
    exact hi.1.1
  · cases hf : f j with
    | ok t => simp [hf, comesTo] at hp
    | error h => cases h <;> simp_all [comesTo]
theorem no_waits {α : Type} {s : State} {m : MaskSel} {f : Nat → Except Halt α} (h : ∀ i < s.vl, comesTo (f i) ≠ 3) :
    ∀ j, acts s m j = true → ∀ w, f j ≠ .error (.wait w) := by
  intro j hj w hw
  simp only [acts, Bool.and_eq_true, decide_eq_true_eq] at hj
  exact h j hj.1.1 (by rw [hw]; rfl)

/-- Elements 0 to 2 end at the end of the page, and element 3 lies beyond it. -/
def overEdge : State := typed (regs m0 [(6, 0x1FFFF4)]) 0x13 4
/-- Elements 0 and 1 lie in a FILLED block, elements 2 and 3 in a TURNING one. -/
def overBlocks : State := typed (regs (bytes (ranged (paged m0 0x10F (2 ^ 30))) 0x80000 [6]) [(6, 0x100FF8)]) 0x13 4
def aMem : MemOp := ⟨1, 6, 7, 0, 0, 0, ⟨0, 0⟩⟩
def loadOf (s : State) (j : Nat) : Except Halt Target := checkAcc s s.who (elemAcc s (here s 0 0) (s.x 6) .unit 32 .load j) true
def storeOf (s : State) (j : Nat) : Except Halt Target := checkAcc s s.who (elemAcc s (here s 0 0) (s.x 6) .unit 32 .store j) false
theorem witness_vector_load_faults :
    (∃ c, FirstFault overEdge aMem.m (loadOf overEdge) 3 c) ∧ OnlyParks overBlocks aMem.m (loadOf overBlocks)
    ∧ ∀ s ∈ [overEdge, overBlocks], vldRow (.vld aMem) = some (aMem, .unit, false)
      ∧ VecOk s (memType s.me.vty 0) (Pattern.unit = .unit ∨ (memType s.me.vty 0).sew ≠ 4) (memTiles aMem .unit) none ∧ s.task.atomic = false
      ∧ via s s.who 0 0 = .ok (here s 0 0) ∧ CanPark s ∧ ∀ j, acts s aMem.m j = true → ∀ w, loadOf s j ≠ .error (.wait w) := by
  refine ⟨⟨_, first_fault (by decide +kernel) (is_some ⟨.page, 0, 0, 0, false, 0, 0⟩ (by decide +kernel)) (by decide +kernel)⟩,
    only_parks 3 (by decide +kernel) (by decide +kernel) (by decide +kernel), fun s hs => ?_⟩
  simp only [List.mem_cons, List.not_mem_nil, or_false] at hs
  rcases hs with rfl | rfl <;>
    exact ⟨rfl, vec_ok (by decide +kernel) (.inl rfl), by decide +kernel, is_val _ (by decide +kernel), by unfold CanPark; decide +kernel,
      no_waits (by decide +kernel)⟩
theorem witness_vector_store_faults :
    let s := overEdge
    (∃ c, FirstFault s aMem.m (storeOf s) 3 c) ∧ vstRow (.vst aMem) = some (aMem, .unit) ∧ s.task.atomic = false
    ∧ VecOk s (memType s.me.vty 0) (Pattern.unit = .unit ∨ (memType s.me.vty 0).sew ≠ 4) (memTiles aMem .unit) none ∧ CanPark s
    ∧ via s s.who 0 0 = .ok (here s 0 0) ∧ (∀ j, acts s aMem.m j = true → ∀ w, storeOf s j ≠ .error (.wait w)) ∧ ∀ a, Writable s a 4 :=
  ⟨⟨_, first_fault (by decide +kernel) (is_some ⟨.page, 0, 0, 0, false, 0, 0⟩ (by decide +kernel)) (by decide +kernel)⟩,
    rfl, by decide +kernel, vec_ok (by decide +kernel) (.inl rfl), by unfold CanPark; decide +kernel, is_val _ (by decide +kernel),
    no_waits (by decide +kernel), fun _ _ _ => ⟨rfl, rfl⟩⟩
/-- A VAMO whose element 3 lies beyond the page. -/
def amoEdge : State := offsets (typed (regs m0 [(6, 0x1FFFE8)]) 0x13 4)
def anAmo : VAmoOp := ⟨1, 6, 2, 3, 0, 0, false, false, 3, ⟨0, 0⟩⟩
def amoOf (s : State) (j : Nat) : Except Halt Target :=
  checkAcc s s.who (elemAcc s (here s 0 0) (s.x 6) (.index 2) 32 .amo j) true
theorem witness_vector_atomic_faults :
    let s := amoEdge
    (∃ c, FirstFault s anAmo.m (amoOf s) 3 c) ∧ (∃ f, vamoRow (.vamoaddW anAmo) = some (anAmo, 4, f)) ∧ s.task.atomic = false
    ∧ (∀ j < 4, (got (amoOf s j)).loc = (if j < 3 then 0x1FFFE8 + 8 * j else 0) ∧ amoHeld s (got (amoOf s j)) = false)
    ∧ VecOk s (atomType s 4) True [anAmo.d, anAmo.s2, anAmo.s3] none
    ∧ via s s.who 0 0 = .ok (here s 0 0) ∧ CanPark s ∧ NoVictims s
    ∧ (∀ j, acts s anAmo.m j = true → ∀ w, amoOf s j ≠ .error (.wait w)) ∧ ∀ a, Writable s a 4 :=
  ⟨⟨_, first_fault (by decide +kernel) (is_some ⟨.page, 0, 0, 0, false, 0, 0⟩ (by decide +kernel)) (by decide +kernel)⟩, ⟨_, rfl⟩,
    by decide +kernel, by decide +kernel, vec_ok (by decide +kernel) trivial, is_val _ (by decide +kernel), by unfold CanPark; decide +kernel,
    calm_spec (by decide +kernel), no_waits (by decide +kernel), fun _ _ _ => ⟨rfl, rfl⟩⟩

/-- VLD.CH of words in the own scratchpad that a copy has still to write. -/
theorem witness_chained_waits :
    let tr : Tracker := ⟨0, scratchLoc 0 0, 64, 0, false⟩
    let r := typed (regs m0 [(6, 0)]) 0x13 4
    let s := r.setPart { r.part with trackers := [tr] }
    let o : MemOp := ⟨1, 6, 0, 1, 0, 0, ⟨0, 0⟩⟩
    let tg := fun j => placeOf s (elemAcc s (here s 1 0) (s.x o.s1) .unit 32 .load j) true
    (s.me.wait = none ∧ s.task.atomic = false ∧ acts s o.m 3 = true ∧ tr ∈ s.part.trackers ∧ expects tr (tg 3).loc ((tg 3).loc + 4) = true)
    ∧ VecOk s (memType s.me.vty 0) True [o.d] none ∧ via s s.who o.sel o.n = .ok (here s 1 0)
    ∧ ∀ j, acts s o.m j = true → checkAcc s s.who (elemAcc s (here s 1 0) (s.x o.s1) .unit 32 .load j) true = .ok (tg j) := by
  refine ⟨by decide +kernel, vec_ok (by decide +kernel) trivial, is_val _ (by decide +kernel), ?_⟩
  refine act4 (by decide +kernel) ?_ ?_ ?_ ?_ <;> exact is_got (by decide +kernel)

/-- VSPILL of a register, and VFILL of a record of 64 bytes with one value for all words. -/
theorem witness_spills :
    let s := (regs m0 [(6, 0x400)]).setMe { (regs m0 [(6, 0x400)]).me with v := [(3, 0x0123456789ABCDEF)] }
    let img := spillImage (s.vlen / 32) (s.v 3)
    let bs := padTo 64 [img.1] ++ img.2
    let f := bytes m0 0x400 [0xC1]
    let hd := val [] (checkWhole f f.who (recordAccs f (here f 0 0) 0x400 0 64 .load))
    let fmt := (loadRun f hd).headD 0
    via s s.who 0 0 = .ok (here s 0 0)
    ∧ isOk (checkWhole s s.who (recordAccs s (here s 0 0) (s.x 6) 0 bs.length .store)) = true
    ∧ via f f.who 0 0 = .ok (here f 0 0) ∧ checkWhole f f.who (recordAccs f (here f 0 0) 0x400 0 64 .load) = .ok hd
    ∧ spillFormatOk (f.vlen / 32) fmt = true
    ∧ isOk (checkWhole f f.who (recordAccs f (here f 0 0) 0x400 64 (64 * bitsOf fmt 5 0) .load)) = true :=
  ⟨is_val _ (by decide +kernel), by decide +kernel, is_val _ (by decide +kernel), is_val _ (by decide +kernel), by decide +kernel,
   by decide +kernel⟩

/-- A computation that ends in a trap or a park. -/
theorem is_err {α : Type} {e : Except Halt α} (h : isOk e = false) : ∃ x, e = .error x := by
  cases e with
  | ok _ => cases h
  | error x => exact ⟨x, rfl⟩

/-- Records that lie beyond the page, wholly and but for their header; and one whose header is no format. -/
theorem witness_spill_faults :
    let s := regs m0 [(6, 0x200000)]
    let img := spillImage (s.vlen / 32) (s.v 3)
    let f := regs (bytes m0 0x1FFFC0 [0xC1]) [(6, 0x1FFFC0)]
    let hd := fun (s : State) => val [] (checkWhole s s.who (recordAccs s (here s 0 0) (s.x 6) 0 64 .load))
    let b := regs (bytes m0 0x400 [0x3F]) [(6, 0x400)]
    (∃ h, checkWhole s s.who (recordAccs s (here s 0 0) (s.x 6) 0 (padTo 64 [img.1] ++ img.2).length .store) = .error h)
    ∧ (∃ h, checkWhole s s.who (recordAccs s (here s 0 0) (s.x 6) 0 64 .load) = .error h)
    ∧ checkWhole f f.who (recordAccs f (here f 0 0) (f.x 6) 0 64 .load) = .ok (hd f)
    ∧ spillFormatOk (f.vlen / 32) ((loadRun f (hd f)).headD 0) = true
    ∧ (∃ h, checkWhole f f.who (recordAccs f (here f 0 0) (f.x 6) 64 (64 * bitsOf ((loadRun f (hd f)).headD 0) 5 0) .load) = .error h)
    ∧ checkWhole b b.who (recordAccs b (here b 0 0) (b.x 6) 0 64 .load) = .ok (hd b)
    ∧ spillFormatOk (b.vlen / 32) ((loadRun b (hd b)).headD 0) = false
    ∧ ∀ x ∈ [s, f, b], via x x.who 0 0 = .ok (here x 0 0) := by
  intro s img f hd b
  refine ⟨is_err (by decide +kernel), is_err (by decide +kernel), is_val _ (by decide +kernel), by decide +kernel,
    is_err (by decide +kernel), is_val _ (by decide +kernel), by decide +kernel, fun x hx => ?_⟩
  simp only [List.mem_cons, List.not_mem_nil, or_false] at hx
  rcases hx with rfl | rfl | rfl <;> exact is_val _ (by decide +kernel)

/-! ### Matrix forms: FP8 tensors of 192 × 8 × 4 codes at 0x8000 in entry 3 -/

def tensor (layout : Nat) : Tid :=
  BitVec.ofNat 256 (512 * 2 ^ 205 + 191 * 2 ^ 88 + 7 * 2 ^ 104 + 3 * 2 ^ 120 + 3 * 2 ^ 28 + 24 * 2 ^ 48 + layout * 2 ^ 14 + 2 ^ 9 + 5 * 2 ^ 4 + 1)
def latched (s : State) (layout ring : Nat) : State :=
  let g := gangOn (typed s 0x29 2) 1 0 0
  g.setMyCore { g.myCore with tid := [(3, tensor layout)], ringSize := ring, latch := { Latch.empty with full := true, nl := 2, fmt := 5, sew := 1 } }

theorem witness_mma :
    let s := typed m0 0x29 2
    let ty := vtyType s.me.vty
    let nb := nbOf ty.sew ty.blen
    let rb := (s.vl * kelOf ty.sew + s.rcap ty.sew - 1) / s.rcap ty.sew
    VecOk s { ty with blen := 0 } (3 ≤ ty.fmt) [31, 2, 3] none ∧ s.vl ≤ 64 ∧ 2 + s.gf + (s.gf * nb + s.rcap 8 - 1) / s.rcap 8 ≤ 32
    ∧ 3 + rb + (s.vl * nb + s.rcap 8 - 1) / s.rcap 8 ≤ 32 :=
  ⟨vec_ok (by decide +kernel) (by decide +kernel), by decide +kernel, by decide +kernel, by decide +kernel⟩
theorem witness_mmr :
    let s := latched m0 0 4
    let e := takenEntry s 3
    let l := s.myCore.latch
    let r := mxRead s e ((List.range s.gf).map (fun m => (l.kt * kelOf (tSew e), m, 0, 0)))
    EntryOk s [5] ∧ RingFree s ∧ s.myCore.ringSize ≠ 0 ∧ tV e = true ∧ tLayout e = 0 ∧ l.full = true ∧ s.vl = l.nl ∧ s.vl ≤ 64
    ∧ sameType e l = true ∧ s.gf ≤ tDim e 1 ∧ (l.kt + 1) * kelOf (tSew e) ≤ tDim e 0 ∧ r = .ok (val ([], s) r) :=
  ⟨vec_ok (by decide +kernel) trivial, fun _ => by decide +kernel, by decide +kernel⟩
/-- MCONV: a row inside the tensor, at its last coordinates, and with none inside. -/
theorem witness_mconv :
    let s := regs (latched m0 1 0) [(6, 0x0000000000030007), (7, 0x0000000000000008)]
    let e := takenEntry s 3
    let l := s.myCore.latch
    let r := fun w => mxRead s e ((convRows s e w).1.map (fun p => (l.kt * kelOf (tSew e), p.2.toNat, (convRows s e w).2.toNat, bitsOf w 55 48)))
    EntryOk s [5] ∧ RingFree s ∧ tV e = true ∧ tLayout e = 1 ∧ bitsOf (s.x 6) 63 56 = 0 ∧ bitsOf (s.x 6) 55 48 < tDim e 3
    ∧ l.full = true ∧ s.vl = l.nl ∧ sameType e l = true ∧ (l.kt + 1) * kelOf (tSew e) ≤ tDim e 0
    ∧ (convRows s e (s.x 6)).1.length = 1 ∧ r (s.x 6) = .ok (val ([], s) (r (s.x 6)))
    ∧ (convRows s e (s.x 7)).1.length = 0 ∧ r (s.x 7) = .ok (val ([], s) (r (s.x 7))) :=
  ⟨vec_ok (by decide +kernel) trivial, fun h => absurd rfl h, by decide +kernel⟩
theorem witness_mldb :
    let s := regs (latched m0 0 0) [(6, 3)]
    let e := takenEntry s 3
    let r := mxRead s e ((List.range s.vl).map (fun n => (0, n, (s.x 6).toNat, 0)))
    EntryOk s [] ∧ RingFree s ∧ tV e = true ∧ tLayout e = 0 ∧ 3 ≤ tFmt e ∧ 0 < s.vl ∧ s.vl ≤ 64 ∧ tDim e 0 = kelOf (tSew e)
    ∧ s.vl ≤ tDim e 1 ∧ (s.x 6).toNat < tDim e 2 ∧ r = .ok (val ([], s) r) :=
  ⟨vec_ok (by decide +kernel) trivial, fun h => absurd rfl h, by decide +kernel⟩
/-- A ring of four cores of which every member has done a step, and one of which one has not. -/
def ring (mc : Nat) : State :=
  let g : GangHere := { id := 1, roles := 0, pipes := 0, pmap := 0, done := 0, pipe := [] }
  let c := fun (p mc : Nat) => { Core.empty with gang := some g, ringSize := 4, ringPos := p, mc := mc }
  let s := (((m0.setCore 0 (c 0 1)).setCore 1 (c 1 1)).setCore 2 (c 2 1)).setCore 3 (c 3 mc)
  { s with sched := { s.sched with gangs := [(1, { Gang.empty with cores := [0, 1, 2, 3] })] } }
theorem witness_ring_shift :
    ringDue (ring 1) 1 0 = true ∧ ringMembers (ring 1) 1 0 = [0, 1, 2, 3] ∧ ringDue (ring 0) 1 0 = false := by decide +kernel
/-- Nothing is translated. -/
def unmapped (s : State) : State := s.setMyCore { s.myCore with tlb := [] }
/-- In a ring: a task of another role; a step that has not been shifted. No entry; an empty latch; unmapped operands. -/
theorem witness_matrix_stops :
    let s := regs (latched m0 0 4) [(6, 3)]
    let c := regs (latched m0 1 0) [(6, 3)]
    let r := regs (gangOn s 0 0 0) [(6, 3)]
    let w := s.setMyCore { s.myCore with mc := 1 }
    let n := s.setMyCore { s.myCore with tid := [] }
    let l := s.setMyCore { s.myCore with latch := Latch.empty }
    let k := c.setMyCore { c.myCore with latch := Latch.empty }
    (∃ p q, mxForm s (.mldb 3 6) = some ([], 3, p) ∧ mxForm s (.mmr 5 3) = some ([5], 3, q) ∧ p (s.tid 3) ∧ q (s.tid 3) ∧ takenEntry s 3 = s.tid 3)
    ∧ (∃ p, mxForm c (.mconv 5 3 6) = some ([5], 3, p) ∧ p (c.tid 3) ∧ takenEntry c 3 = c.tid 3)
    ∧ (r.myCore.ringSize ≠ 0 ∧ ringWorker r = false)
    ∧ (w.myCore.ringSize ≠ 0 ∧ ringWorker w = true ∧ w.myCore.mc ≠ w.myCore.sc)
    ∧ (∃ p q, mxForm n (.mldb 3 6) = some ([], 3, p) ∧ mxForm n (.mmr 5 3) = some ([5], 3, q) ∧ ¬ p (n.tid 3) ∧ ¬ q (n.tid 3))
    ∧ (RingFree l ∧ ¬ mxLatchOk l (l.tid 3) (.mmr 5 3)) ∧ (RingFree k ∧ ¬ mxLatchOk k (k.tid 3) (.mconv 5 3 6))
    ∧ (mxLatchOk s (s.tid 3) (.mmr 5 3) ∧ mxLatchOk c (c.tid 3) (.mconv 5 3 6))
    ∧ ((∃ h, mxRead (unmapped s) (s.tid 3) (mxWants (unmapped s) (s.tid 3) (.mldb 3 6)) = .error h)
      ∧ (∃ h, mxRead (unmapped s) (s.tid 3) (mxWants (unmapped s) (s.tid 3) (.mmr 5 3)) = .error h)
      ∧ ∃ h, mxRead (unmapped c) (c.tid 3) (mxWants (unmapped c) (c.tid 3) (.mconv 5 3 6)) = .error h)
    ∧ (EntryOk s [] ∧ EntryOk s [5] ∧ EntryOk c [5] ∧ RingFree s ∧ RingFree c) := by
  intro s c r w n l k
  refine ⟨⟨_, _, rfl, rfl, by decide +kernel, by decide +kernel, by decide +kernel⟩, ⟨_, rfl, by decide +kernel, by decide +kernel⟩,
    by decide +kernel, by decide +kernel, ⟨_, _, rfl, rfl, by decide +kernel, by decide +kernel⟩, ⟨fun _ => by decide +kernel, ?_⟩,
    ⟨fun h => absurd rfl h, ?_⟩, ⟨?_, ?_⟩, ⟨is_err (by decide +kernel), is_err (by decide +kernel), is_err (by decide +kernel)⟩,
    ⟨vec_ok (by decide +kernel) trivial, vec_ok (by decide +kernel) trivial, vec_ok (by decide +kernel) trivial, fun _ => by decide +kernel,
      fun h => absurd rfl h⟩⟩ <;> unfold mxLatchOk <;> decide +kernel
/-- MSTC into an entry that is not valid, and into an unmapped tensor. -/
theorem witness_mstc_stops :
    let t := typed (regs (latched m0 0 0) [(6, 0x0000000300070004)]) 0x13 2
    let u := unmapped t
    let rows := mstcRows u 2 5 0 (u.tid 3)
    tV (takenEntry t 4) = false ∧ takenEntry u 3 = u.tid 3
    ∧ (∃ h, keepEntry (u.tid 3) (checkRun u u.who (rows.flatMap (fun r => mstcPieces (tData (u.tid 3)) (u.x 6) r.1 r.2.1.length)
        ++ rows.flatMap (fun r => mstcPieces (tScale (u.tid 3)) (u.x 6) r.1 r.2.2.1.length))) = .error h)
    ∧ VecOk u { fltType u.me.vty 5 with blen := 0 } ((fltType u.me.vty 5).fmt ≠ 0) [2] (some 0) := by
  intro t u rows
  exact ⟨by decide +kernel, by decide +kernel, is_err (by decide +kernel), vec_ok (by decide +kernel) (by decide +kernel)⟩
theorem witness_mstc :
    let s := regs (latched (m0) 0 0) [(6, 0x0000000300070004)]
    let t := typed s 0x13 2
    let ty := fltType t.me.vty 5
    let e := takenEntry t 3
    let rows := mstcRows t 2 5 0 e
    let accs := rows.flatMap (fun r => mstcPieces (tData e) (t.x 6) r.1 r.2.1.length) ++ rows.flatMap (fun r => mstcPieces (tScale e) (t.x 6) r.1 r.2.2.1.length)
    let c := checkRun t t.who accs
    VecOk t { ty with blen := 0 } (ty.fmt ≠ 0) [2] (some 0) ∧ t.vl ≤ 64 ∧ tV e = true ∧ tLayout e = 0 ∧ tFmt e = ty.fmt ∧ tSew e = ty.sew
    ∧ bitsOf (t.x 6) 15 0 + t.vl ≤ tDim e 0 ∧ bitsOf (t.x 6) 31 16 + t.gf ≤ tDim e 1 ∧ bitsOf (t.x 6) 47 32 < tDim e 2
    ∧ bitsOf (t.x 6) 63 48 < tDim e 3 ∧ (tBlen e ≠ 0 → bitsOf (t.x 6) 15 0 % tBlen e = 0 ∧ t.vl % tBlen e = 0)
    ∧ c = .ok (val [] c) ∧ t.task.atomic = false :=
  ⟨vec_ok (by decide +kernel) (by decide +kernel), by decide +kernel⟩
/-- Images of TDSET at 0x200: well-formed, without V, and malformed; and TDGET to the same place. -/
theorem witness_tensor_entries :
    let s := fun n => regs (bytes m0 0x200 (bytesOf 32 n)) [(6, 0x200)]
    let a := fun s : State => accGv (s.x 6) 32 .load (decide ((s.x 6).toNat % 32 ≠ 0))
    let g := accGv ((s 0).x 6) 32 .store (decide (((s 0).x 6).toNat % 32 ≠ 0))
    let img := fun n => BitVec.ofNat 256 ((s n).number (placeOf (s n) (a (s n)) true).loc 32)
    checkAcc (s 0) (s 0).who (a (s 0)) true = .ok (placeOf (s 0) (a (s 0)) true) ∧ bitOf (img 0) 0 = false
    ∧ checkAcc (s 1) (s 1).who (a (s 1)) true = .ok (placeOf (s 1) (a (s 1)) true) ∧ bitOf (img 1) 0 = true ∧ tWf (img 1) = false
    ∧ bitOf (img (tensor 0).toNat) 0 = true ∧ tWf (img (tensor 0).toNat) = true
    ∧ checkAcc (s (tensor 0).toNat) (s (tensor 0).toNat).who (a (s (tensor 0).toNat)) true
        = .ok (placeOf (s (tensor 0).toNat) (a (s (tensor 0).toNat)) true)
    ∧ checkAcc (s 0) (s 0).who g true = .ok (placeOf (s 0) g true) :=
  by decide +kernel

/-- TDSET and TDGET beyond the page. -/
theorem witness_tensor_entry_faults :
    let s := regs m0 [(6, 0x200000)]
    (∃ h, checkAcc s s.who (accGv (s.x 6) 32 .load (decide ((s.x 6).toNat % 32 ≠ 0))) true = .error h)
    ∧ ∃ h, checkAcc s s.who (accGv (s.x 6) 32 .store (decide ((s.x 6).toNat % 32 ≠ 0))) true = .error h :=
  ⟨is_err (by decide +kernel), is_err (by decide +kernel)⟩

/-! ### Graphics forms and invalidations -/

theorem witness_rays :
    let s := typed m0 0x13 4
    (∃ f, rayRow s (.vbox 31 0 26 ⟨1, 0⟩) = some (31, 0, 26, ⟨1, 0⟩, 1, 6, f))
    ∧ (∃ f, rayRow s (.vtri 29 0 23 ⟨0, 0⟩) = some (29, 0, 23, ⟨0, 0⟩, 3, 9, f))
    ∧ RayOk s ∧ RayOk (typed m0 0x13 128) ∧ (0 : Reg).toNat + 8 ≤ 32 ∧ (26 : Reg).toNat + 6 ≤ 32 ∧ (23 : Reg).toNat + 9 ≤ 32
    ∧ (31 : Reg).toNat + 1 ≤ 32 ∧ (29 : Reg).toNat + 3 ≤ 32 :=
  ⟨⟨_, rfl⟩, ⟨_, rfl⟩, by unfold RayOk; decide +kernel⟩

/-- A pool of one record at 0x300, which holds the descriptor at 0x400 of a texture of one texel at 0x800. -/
def texturedAt (s : State) (at' base : Nat) : State :=
  bytes (bytes ((typed s 0x13 4).setMyTask { s.task with pool := BitVec.ofNat 64 (at' + 0x300), poolCnt := 1 }) (at' + 0x300)
    (bytesOf 32 (at' + 0x400 + 64 * 2 ^ 64 + 3 * 2 ^ 132))) (at' + 0x400) (bytesOf 64 base)
def textured (s : State) : State := texturedAt s 0 0x800
def descIn (s : State) : TexDesc × State := val (0, s) (readDesc s 0)
theorem witness_textures :
    let s := textured m0
    let r := (descIn s).2
    let desc := (descIn s).1
    let plan := fun (desc : TexDesc) (i : Nat) => some (planOf desc (s.elem 2 32 i) (s.elem 3 32 i) (lodGiven (s.elem 6 32 i)))
    let p := planOf desc 0 0 (lodGiven 0)
    texRow s (.texLod 28 2 6 0 ⟨0, 0⟩) = some (28, 2, 0, ⟨0, 0⟩, true, plan) ∧ RayOk s ∧ readDesc s 0 = .ok (desc, r)
    ∧ (∀ j, j < 4 → plan desc j = some p)
    ∧ (∀ j, j < 4 → readsOf r r.who (planAccs desc j p) = .ok (val [] (readsOf r r.who (planAccs desc j p))))
    ∧ (planAccs desc 0 p).length = 1 := by
  intro s r desc plan p
  refine ⟨rfl, by unfold RayOk; decide +kernel, is_pair (0, s) (by decide +kernel), ?_, ?_, by decide +kernel⟩
  · decide +kernel
  · intro j hj
    match j, hj with
    | 0, _ => exact is_val _ (by decide +kernel)
    | 1, _ => exact is_val _ (by decide +kernel)
    | 2, _ => exact is_val _ (by decide +kernel)
    | 3, _ => exact is_val _ (by decide +kernel)

/-- No descriptor; texels beyond the page; texels in a TURNING block, whose descriptor lies in a FILLED one. -/
def texEdge : State := texturedAt m0 0 0x200000
def texBlock : State := texturedAt (bytes (ranged (paged m0 0x10F (2 ^ 30))) 0x80000 [6]) 0x100000 0x101000
def texPlan (s : State) (desc : TexDesc) (i : Nat) : Option Plan :=
  some (planOf desc (s.elem 2 32 i) (s.elem 3 32 i) (lodGiven (s.elem 6 32 i)))
def texOf (s : State) (j : Nat) : Except Halt (List (Word × Target × Nat)) := match texPlan s (descIn s).1 j with
  | some p => readsOf (descIn s).2 (descIn s).2.who (planAccs (descIn s).1 j p)
  | none => .ok []
theorem witness_texture_faults :
    (∃ h, readDesc (typed m0 0x13 4) 0 = .error h) ∧ RayOk (typed m0 0x13 4)
    ∧ (∃ c, FirstFault texEdge ⟨0, 0⟩ (texOf texEdge) 0 c) ∧ OnlyParks texBlock ⟨0, 0⟩ (texOf texBlock)
    ∧ ∀ s ∈ [texEdge, texBlock], texRow s (.texLod 28 2 6 0 ⟨0, 0⟩) = some (28, 2, 0, ⟨0, 0⟩, true, texPlan s) ∧ RayOk s
      ∧ readDesc s 0 = .ok (descIn s) ∧ CanPark s ∧ ∀ j, acts s ⟨0, 0⟩ j = true → ∀ w, texOf s j ≠ .error (.wait w) := by
  refine ⟨is_err (by decide +kernel), by unfold RayOk; decide +kernel,
    ⟨_, first_fault (by decide +kernel) (is_some ⟨.page, 0, 0, 0, false, 0, 0⟩ (by decide +kernel)) (by decide +kernel)⟩,
    only_parks 3 (by decide +kernel) (by decide +kernel) (by decide +kernel), fun s hs => ?_⟩
  simp only [List.mem_cons, List.not_mem_nil, or_false] at hs
  rcases hs with rfl | rfl <;>
    exact ⟨rfl, by unfold RayOk; decide +kernel, is_val _ (by decide +kernel), by unfold CanPark; decide +kernel, no_waits (by decide +kernel)⟩

/-- A tile header beyond the page; and an offer that has been refused. -/
theorem witness_tcommit_stops :
    let s := typed (regs m0 [(6, 0x0050000000008000)]) 0x13 64
    let o : TileOffer := ⟨0x800, 0x800, 5, true, 32, 5, [], 1, 0x1000⟩
    (∃ h, commitPlace s (commitAddr (s.x 6)) = .error h) ∧ s.me.wait = none ∧ s.task.atomic = false ∧ vtyIll s.me.vty = false ∧ s.vl = 64
    ∧ s.gf = 1 ∧ vtySew s.me.vty = 32 ∧ tileBad 1 (vtyType s.me.vty).blen (31 : Reg).toNat = false
    ∧ (s.setMe { s.me with wait := some (.tile o (some (3, 7))) }).me.wait = some (.tile o (some (3, 7))) :=
  ⟨is_err (by decide +kernel), by decide +kernel⟩
theorem witness_tcommit :
    let s := typed (regs m0 [(6, 0x0050000000000020)]) 0x13 64
    let e := commitPlace s (commitAddr (s.x 6))
    let p := val (got (.error (.wait .lines)), 0) e
    s.me.wait = none ∧ CanRelease s ∧ vtyIll s.me.vty = false ∧ s.vl = 64 ∧ s.gf = 1 ∧ vtySew s.me.vty = 32
    ∧ tileBad 1 (vtyType s.me.vty).blen (31 : Reg).toNat = false ∧ e = .ok p ∧ p.1.loc = 0x800 :=
  ⟨by decide +kernel, canRel_spec (by decide +kernel), by decide +kernel⟩

/-- An offer to the tile at 0x800, whose NEXT is 0. -/
def offer (ticket room : Nat) : TileOffer := ⟨0x800, 0x800, ticket, true, 32, 5, [], 1, room⟩
def offering (s : State) (o : TileOffer) : State := s.setMe { s.me with wait := some (.tile o none) }
theorem witness_tile_offers :
    (let s := offering m0 (offer 0 0x1000)
     offerer s (offer 0 0x1000) = some m0.turn ∧ Calm s ∧ verdict s (offer 0 0x1000) = .blended ∧ heldOf (s.slice (sliceOf 0x800)) 0x800 = []
     ∧ Writable s 0x800 (64 + 64 * pixelBytes (tileHeader s 0x800))
     ∧ ∀ l, within 0x800 (64 + 64 * pixelBytes (tileHeader s 0x800)) l → tilePage s (offer 0 0x1000) (l / 4096) = true)
    ∧ Unretired m0 0x800 (64 + 64 * 4) ∧ Unretired { m0 with blends := [(0x800, [(0x804, 1), (0x93F, 2)])] } 0x800 (64 + 64 * 4)
    ∧ (let s := offering m0 (offer 63 0x1000)
       offerer s (offer 63 0x1000) = some m0.turn ∧ verdict s (offer 63 0x1000) = .held)
    ∧ (let s := offering m0 (offer 0 0x13F)
       offerer s (offer 0 0x13F) = some m0.turn ∧ verdict s (offer 0 0x13F) = .refused 1)
    ∧ (let s := offering m0 (offer 2048 0x1000)
       offerer s (offer 2048 0x1000) = some m0.turn ∧ verdict s (offer 2048 0x1000) = .refused 3)
    ∧ (let s := setDir (offering m0 (offer 0 0x1000)) 17 { DirEntry.empty with rown := true, rdev0 := some 9 }
       offerer s (offer 0 0x1000) = some m0.turn ∧ verdict s (offer 0 0x1000) = .asks 17) := by
  refine ⟨⟨by decide +kernel, by unfold Calm; decide +kernel, by decide +kernel, by decide +kernel, fun _ _ => ⟨rfl, rfl⟩, ?_⟩,
    ⟨by decide +kernel, by decide +kernel, by unfold within; decide +kernel⟩,
    ⟨by decide +kernel, by decide +kernel, by unfold within; decide +kernel⟩, by decide +kernel⟩
  have hp : pixelBytes (tileHeader (offering m0 (offer 0 0x1000)) 0x800) = 4 := by decide +kernel
  have h0 : tilePage (offering m0 (offer 0 0x1000)) (offer 0 0x1000) 0 = true := by decide +kernel
  intro l hl
  rw [hp] at hl
  have : l / 4096 = 0 := by unfold within at hl; omega
  rw [this]
  exact h0

def stalled : State :=
  let s := supQueue m0
  let n := sliceOf 0x800
  let h : Held := ⟨offer 5 0x1000, 0, 0, 0, 0⟩
  { s.setSlice n { s.slice n with held := [h], stalled := [(0x800, ⟨0, false⟩)] } with time := 1000000 }
theorem witness_tile_stall :
    (0x800 ∈ stalledTiles stalled) ∧ (∃ u, stallReport stalled 0x800 = .done u)
    ∧ heldOf (stalled.slice (sliceOf 0x800)) 0x800 = [⟨offer 5 0x1000, 0, 0, 0, 0⟩] :=
  ⟨by decide +kernel, is_done (by decide +kernel), by decide +kernel⟩

theorem witness_invalidations :
    (∃ p, invRow (regs m0 [(6, 0x1FFFFF)]) (.tlbinv 6 7) = some p ∧ p ⟨0, 0, 2 ^ 21, 0xF, [], []⟩ = true)
    ∧ (∃ p, invRow m0 (.tlbinvCol 0 7) = some p) ∧ m0.task.smode = true ∧ CanRelease m0 ∧ (user m0).task.smode = false :=
  ⟨⟨_, rfl, by decide +kernel⟩, ⟨_, rfl⟩, by decide +kernel, canRel_spec (by decide +kernel), by decide +kernel⟩

end Sys2Proof.Tests
end

