-- ==== Sys2Proof/Tests/Worked.lean ====
section
/-! SUPPORT. Single steps whose results the manual works out or states for a corner case. -/

set_option Elab.async false

namespace Sys2Proof.Tests
open Sys2Proof.Machine Sys2Proof.Claims

/-- The state that an answer goes on in, and a state with TIME at its end for any other. -/
def after (o : Out) : State := match o with
  | .next t => t
  | _ => { State.reset with time := 2 ^ 64 }
/-- Vector registers. -/
def vecs (s : State) (l : List (Nat × Nat)) : State := s.setMe { s.me with v := l.map (fun p => (p.1, BitVec.ofNat 16384 p.2)) }
/-- Numbers of w bits side by side, the first lowest. -/
def pack (w : Nat) (l : List Nat) : Nat := l.foldr (fun x a => a * 2 ^ w + x) 0

/-! ### Scalar forms: the rules' own corner cases (R309, R324, R334, R353, R359, R360, R11) -/

/-- 0x7FFFFFFF + 1 in 32 bits is the most negative one, sign-extended; 2^63 − 1 + 1 wraps; x0 stays 0. -/
theorem test_add_wraps :
    (after (exec (.addw 5 6 7) (regs m0 [(6, 0x7FFFFFFF), (7, 1)]))).x 5 = 0xFFFFFFFF80000000
    ∧ (after (exec (.add 5 6 7) (regs m0 [(6, 0x7FFFFFFFFFFFFFFF), (7, 1)]))).x 5 = 0x8000000000000000
    ∧ (after (exec (.add 0 6 7) (regs m0 [(6, 3), (7, 1)]))).x 0 = 0 := by decide +kernel
/-- A divisor of 0 gives all ones and the dividend; the most negative number by −1 gives itself and 0. -/
theorem test_div_corners :
    (after (exec (.div 5 6 7) (regs m0 [(6, 9)]))).x 5 = 0xFFFFFFFFFFFFFFFF ∧ (after (exec (.rem 5 6 7) (regs m0 [(6, 9)]))).x 5 = 9
    ∧ (after (exec (.div 5 6 7) (regs m0 [(6, 0x8000000000000000), (7, 0xFFFFFFFFFFFFFFFF)]))).x 5 = 0x8000000000000000
    ∧ (after (exec (.rem 5 6 7) (regs m0 [(6, 0x8000000000000000), (7, 0xFFFFFFFFFFFFFFFF)]))).x 5 = 0
    ∧ (after (exec (.divw 5 6 7) (regs m0 [(6, 0x80000000), (7, 0xFFFFFFFFFFFFFFFF)]))).x 5 = 0xFFFFFFFF80000000
    ∧ (after (exec (.remu 5 6 7) (regs m0 [(6, 17), (7, 5)]))).x 5 = 2 := by decide +kernel
/-- (−1) × (2^64 − 1): the high halves of the signed, mixed and unsigned products. -/
theorem test_high_products :
    (after (exec (.mulh 5 6 7) (regs m0 [(6, 0xFFFFFFFFFFFFFFFF), (7, 0xFFFFFFFFFFFFFFFF)]))).x 5 = 0
    ∧ (after (exec (.mulhsu 5 6 7) (regs m0 [(6, 0xFFFFFFFFFFFFFFFF), (7, 0xFFFFFFFFFFFFFFFF)]))).x 5 = 0xFFFFFFFFFFFFFFFF
    ∧ (after (exec (.mulhu 5 6 7) (regs m0 [(6, 0xFFFFFFFFFFFFFFFF), (7, 0xFFFFFFFFFFFFFFFF)]))).x 5 = 0xFFFFFFFFFFFFFFFE := by decide +kernel
/-- A shift takes the low 6 or 5 bits of its amount; the arithmetic forms keep the sign. -/
theorem test_shifts :
    (after (exec (.sll 5 6 7) (regs m0 [(6, 1), (7, 64 + 63)]))).x 5 = 0x8000000000000000
    ∧ (after (exec (.sra 5 6 7) (regs m0 [(6, 0x8000000000000000), (7, 63)]))).x 5 = 0xFFFFFFFFFFFFFFFF
    ∧ (after (exec (.srlw 5 6 7) (regs m0 [(6, 0xFFFFFFFF80000000), (7, 32)]))).x 5 = 0xFFFFFFFF80000000
    ∧ (after (exec (.sraw 5 6 7) (regs m0 [(6, 0x80000000), (7, 31)]))).x 5 = 0xFFFFFFFFFFFFFFFF := by decide +kernel
/-- SLTIU with −1 compares with 2^64 − 1; LUI sign-extends; JALR ra, 0(ra) reads before it writes, and drops bit 0. -/
theorem test_compare_and_jump :
    (after (exec (.sltiu 5 6 0xFFF) (regs m0 [(6, 7)]))).x 5 = 1 ∧ (after (exec (.slti 5 6 0xFFF) (regs m0 [(6, 7)]))).x 5 = 0
    ∧ (after (exec (.lui 5 0x80000) m0)).x 5 = 0xFFFFFFFF80000000
    ∧ (let t := after (exec (.jalr 1 1 0) (regs m0 [(1, 0x2001)]))
       t.pc = 0x2000 ∧ t.x 1 = m0.pc + 4) := by decide +kernel
/-- LB sign-extends and LBU does not; SB keeps the low byte. -/
theorem test_bytes_of_memory :
    (after (exec (.lb 5 6 0) (regs (bytes m0 0x200 [0x80]) [(6, 0x200)]))).x 5 = 0xFFFFFFFFFFFFFF80
    ∧ (after (exec (.lbu 5 6 0) (regs (bytes m0 0x200 [0x80]) [(6, 0x200)]))).x 5 = 0x80
    ∧ (after (exec (.lw 5 6 4) (regs (bytes m0 0x204 [1, 2, 3, 4]) [(6, 0x200)]))).x 5 = 0x04030201
    ∧ (after (exec (.sb 7 6 3) (regs m0 [(6, 0x200), (7, 0x1234)]))).byte 0x203 = 0x34 := by decide +kernel

/-! ### Types and task entry -/

/-- The grants that the manual works out for fb4 with blocks of 32 on one hart (after R96). -/
theorem test_setvl_blocks :
    (let t := after (exec (.setvl 5 11 0x4060) (regs m0 [(11, 100)])); t.vl = 96 ∧ t.me.vty = 0x4060 ∧ t.x 5 = 96)
    ∧ (let t := after (exec (.setvl 5 11 0x4060) (regs m0 [(11, 4)])); t.vl = 0 ∧ t.me.vty = 0xC060)
    ∧ (let t := after (exec (.setvl 5 11 0x4060) (regs m0 [])); t.vl = 0 ∧ t.me.vty = 0x4060)
    ∧ (after (exec (.setvl 5 11 0x4060) (regs m0 [(11, 5000)]))).vl = 4096 := by decide +kernel
/-- HBACK of the example kernel: the guard's bounds, the new main context, and the tail after it (step 5). -/
theorem test_hback :
    let s := regs m0 [(1, 0x2000), (2, 0x4000000FFF0), (10, 36), (31, 0x40000010000)]
    let t := after (exec (.hback 31 0) s)
    t.pc = 0x2000 ∧ t.x 2 = 0x40000010000 ∧ t.x 10 = 36 ∧ t.part.tfg = ⟨true, true, 0x4000000FFF, 0x4000001000⟩
    ∧ (t.ctx t.turn.other).pc = s.pc + 8 ∧ Table.get 0 (t.ctx t.turn.other).x 2 = 0x4000000FFF0 := by decide +kernel

/-! ### Vector forms -/

/-- VSCAN.ADD of ones gives 1, 2, 3, 4 (R408). -/
theorem test_scan :
    let t := after (exec (.vscanAdd ⟨2, 1, 0, ⟨0, 0⟩⟩) (vecs (typed m0 0x03 4) [(1, pack 32 [1, 1, 1, 1])]))
    (List.range 4).map (t.elem 2 32) = [1, 2, 3, 4] := by decide +kernel
/-- VCMPRS packs the active elements; VPOPC counts them, and VFIRST gives all ones for none (R388, R401). -/
theorem test_packing :
    let s := (vecs (typed m0 0x03 4) [(1, pack 32 [5, 6, 7, 8])])
    let k := s.setMe { s.me with k := [(1, 0b1010)] }
    (List.range 2).map ((after (exec (.vcmprs ⟨2, 1, 0, ⟨2, 1⟩⟩) k)).elem 2 32) = [6, 8]
    ∧ (after (exec (.vpopc ⟨5, 1, 0, ⟨0, 0⟩⟩) k)).x 5 = 2 ∧ (after (exec (.vfirst ⟨5, 1, 0, ⟨0, 0⟩⟩) k)).x 5 = 1
    ∧ (after (exec (.vfirst ⟨5, 2, 0, ⟨0, 0⟩⟩) k)).x 5 = 0xFFFFFFFFFFFFFFFF := by decide +kernel
/-- VSADD clamps and raises SAT (R385); inactive elements keep their values. -/
theorem test_saturation :
    let s := vecs (typed m0 0x01 2) [(1, pack 8 [0x7F, 0x80]), (2, pack 8 [1, 1])]
    let t := after (exec (.vsadd ⟨3, 1, .vec 2, 0, ⟨0, 0⟩⟩) s)
    (List.range 2).map (t.elem 3 8) = [0x7F, 0x81] ∧ t.me.vfcsr = 4 := by decide +kernel
/-- 1 + 2^−24 in FP32 rounds to even and is inexact; 1 / 0 is infinity and raises DZ; 0 × ∞ is the canonical NaN (R99, R100). -/
theorem test_float_flags :
    let s := vecs (typed m0 0x13 1) [(1, 0x3F800000), (2, 0x33800000), (4, 0x7F800000)]
    let a := after (exec (.vfadd ⟨3, 1, .vec 2, 0, 0, 0, ⟨0, 0⟩⟩) s)
    let d := after (exec (.vfdiv ⟨3, 1, .vec 5, 0, 0, 0, ⟨0, 0⟩⟩) s)
    let m := after (exec (.vfmul ⟨3, 5, .vec 4, 0, 0, 0, ⟨0, 0⟩⟩) s)
    a.elem 3 32 0 = 0x3F800000 ∧ a.me.vfcsr = 1 ∧ d.elem 3 32 0 = 0x7F800000 ∧ d.me.vfcsr = 8
    ∧ m.elem 3 32 0 = 0x7FC00000 ∧ m.me.vfcsr = 16 := by decide +kernel
/-- Values that the format tables give (R97, R98, R103). -/
theorem test_formats :
    roundNum (fmtOf 2) 0 false ((fmtOf 5).value 0x78) = (0x43800000, 0) ∧ roundNum (fmtOf 2) 0 false ((fmtOf 5).value 0x7E) = (0x43E00000, 0)
    ∧ (fmtOf 5).value 0x7F = .nan false ∧ roundNum (fmtOf 2) 0 false ((fmtOf 6).value 0x7B) = (0x47600000, 0)
    ∧ roundNum (fmtOf 2) 0 false ((fmtOf 12).value 0x7) = (0x40C00000, 0) ∧ roundNum (fmtOf 2) 0 false ((fmtOf 12).value 0x9) = (0xBF000000, 0) := by
  decide +kernel
/-- VSLIDE.UP leaves the elements below its distance (R409). -/
theorem test_slide :
    let t := after (exec (.vslideUp ⟨2, 1, .imm 1, 0, ⟨0, 0⟩⟩) (vecs (typed m0 0x03 3) [(1, pack 32 [5, 6, 7]), (2, pack 32 [1, 2, 3])]))
    (List.range 3).map (t.elem 2 32) = [1, 5, 6] := by decide +kernel

/-! ### Atomics, compression, blending -/

/-- AMOADD.W gives the old value, sign-extended; a CAS that fails stores nothing (R313, R314). -/
theorem test_amo :
    let s := regs (bytes m0 0x200 [0xFF, 0xFF, 0xFF, 0xFF]) [(6, 0x200), (7, 2), (8, 9)]
    let a := after (exec (.amoaddW ⟨5, 6, 7, 0, 0, 0, false, false, 3⟩) s)
    let c := after (exec (.amocasW ⟨5, 6, 7, 8, 0, 0, false, false, 3⟩) s)
    a.x 5 = 0xFFFFFFFFFFFFFFFF ∧ a.pub 0x200 4 = 1 ∧ c.x 5 = 0xFFFFFFFFFFFFFFFF ∧ c.pub 0x200 4 = 0xFFFFFFFF := by decide +kernel
/-- Lines A, B and C that the manual compresses by hand, and B after the write-back (after R141): encodings and sectors. -/
theorem test_lines :
    let line := fun ws => encodeLine (bytes m0 0 (bytesOf 128 (pack 32 ws))) 0
    line ((List.range 32).map (fun i => 0x10000 + 300 * i)) = (4, 3)
    ∧ (line ([0, 0, 0, 0x3F800000, 0, 0, 0, 0x40000000, 0x40400000] ++ List.replicate 11 0 ++ [0xBF800000] ++ List.replicate 10 0 ++ [1])).2 = 1
    ∧ (line ((List.range 9) ++ List.replicate 23 0)).2 = 2
    ∧ (line (List.replicate 16 0xFFFFFFFF ++ List.replicate 4 0 ++ [0xBF800000] ++ List.replicate 10 0 ++ [1])).2 = 3 := by decide +kernel
/-- A block product by hand (after R111): six blocks of 0x78 with scales 0x07 and 0x57 add up to 0x1800, without a flag. -/
theorem test_block_product :
    let a : Operand := ⟨List.replicate 192 0x78, List.replicate 6 0x07⟩
    let b : Operand := ⟨List.replicate 192 0x78, List.replicate 6 0x57⟩
    mxDot 8 32 a b 0 = (0x1800, 0) := by decide +kernel
/-- The two translucent triangles' colours over white, in both orders (after R238): A over B, and the correct B over A. -/
theorem test_blending :
    blendPixel 0 0x80800000 (blendPixel 0 0x80000080 0xFFFFFFFF) = 0xFFBF3F7F
    ∧ blendPixel 0 0x80000080 (blendPixel 0 0x80800000 0xFFFFFFFF) = 0xFF7F3FBF
    ∧ blendPixel 0 0x80000080 0xFFFFFFFF = 0xFF7F7FFF := by decide +kernel

/-! ### The machine's events -/

/-- Step 1 of the lost owner: after 200 microseconds the line is poisoned and logged (R291). -/
theorem test_owner_lost :
    let s := setDir { m0 with time := 1200000 } 5 { DirEntry.empty with rown := true, rdev0 := some 3, snoopAt := some 1000000 }
    let t := after (exec (.ownerLost 5) s)
    ownerGone t 5 = true ∧ t.mgmt.olcount = 1 ∧ Table.get 0 t.mgmt.ollog 0 = 5 * 128 ∧ 20 ∈ t.poison := by decide +kernel

/-! ### Digests (R4, R301) -/

/-- The digest of the empty string that FIPS 202's examples give begins 46 B9 DD 2B 0B A8 8D 13. -/
theorem test_shake : shake256 [] % 2 ^ 64 = 0x138DA80B2BDDB946 := by decide +kernel

/-! ### Reads through the BARs (R297, R299, R300) -/

/-- After reset DSTAT reads UNSYNC alone, LEASE 16, SEGMAP the identity, a die's write status 10, and the identity area's
length field 1,793. -/
theorem test_reads_after_reset :
    readRegister State.reset 0 0 = 0x80000 ∧ readRegister State.reset 2 0x10000 = 16 ∧ readRegister State.reset 2 0x10810 = 2
    ∧ readRegister State.reset 2 0x920000 = 2 ∧ readRegister State.reset 2 0x7F8 = 1793 := by decide +kernel

end Sys2Proof.Tests
end

section
/-! SUPPORT. What the branches on Top and the operations of the mask stack do (R49, R50), and the statements about them. -/

set_option Elab.async false

namespace Sys2Proof.Machine
open Sys2Proof.Claims

/-! ### How a form ends -/

@[simp] theorem finish_ok (s t : State) : finish s (.ok t) = .next t := rfl
@[simp] theorem finish_error (s : State) (h : Halt) : finish s (.error h) = .next (halted s h) := rfl

@[simp] theorem branchForm_false (s : State) (off : Word) (n : Nat) : branchForm s false off n = .ok (s.retire n) := rfl

theorem checkTarget_aligned {tgt : Word} (h : tgt.toNat % 4 = 0) : checkTarget tgt = .ok () := if_pos h

/-- A taken branch to a multiple of 4 raises nothing (R53). -/
theorem branchForm_true_aligned (s : State) (off : Word) (n : Nat) (h : (s.pc + off).toNat % 4 = 0) :
    branchForm s true off n = .ok (s.retireTo (s.pc + off)) := by
  rw [branchForm, if_pos rfl, checkTarget_aligned h]

/-! ### Distances of branches -/

/-- An immediate with k zero bits below it, sign-extended, is its signed value times 2 ^ k. -/
theorem signExtend_append_zero {w : Nat} (imm : BitVec w) (k : Nat) :
    (imm ++ 0#k).signExtend 64 = ofZ (2 ^ k * imm.toInt) := by
  unfold BitVec.signExtend ofZ
  rw [BitVec.toInt_append_zero]

/-- A distance that is a multiple of 4 keeps an address a multiple of 4. -/
theorem add_ofZ_mod_four {a : Word} {off : Int} (ha : a.toNat % 4 = 0) (hoff : 4 ∣ off) : (a + ofZ off).toNat % 4 = 0 := by
  rw [BitVec.toNat_add, ofZ, BitVec.toNat_ofInt]
  omega

/-! ### Masks below VL -/

/-- The positions below VL, of those that a mask has. -/
theorem getLsbD_lowMask (vl j : Nat) : (lowMask vl).getLsbD j = (decide (j < 65536) && decide (j < vl)) := by
  rw [lowMask, BitVec.getLsbD_ofNat, Nat.testBit_two_pow_sub_one]

/-- A mask cut to the positions below VL has the bits of the mask there and 0 elsewhere. -/
theorem getLsbD_and_lowMask (m : Mask) (vl j : Nat) : (m &&& lowMask vl).getLsbD j = (m.getLsbD j && decide (j < vl)) := by
  rw [BitVec.getLsbD_and, getLsbD_lowMask]
  by_cases hj : j < 65536
  · simp [hj]
  · simp [BitVec.getLsbD_of_ge m j (Nat.le_of_not_lt hj)]

/-- `anyTop` finds exactly the set elements below VL of Top. -/
theorem anyTop_iff (s : State) : anyTop s = true ↔ ∃ i < s.vl, s.me.top.getLsbD i = true := by
  have none_set : s.me.top &&& lowMask s.vl = 0 ↔ ∀ i < s.vl, s.me.top.getLsbD i = false := by
    rw [BitVec.eq_of_getLsbD_eq_iff]
    simp only [getLsbD_and_lowMask, BitVec.ofNat_eq_ofNat, BitVec.getLsbD_zero, Bool.and_eq_false_imp, decide_eq_false_iff_not]
    constructor
    · intro h i hi
      by_contra hset
      have hset : s.me.top.getLsbD i = true := by simpa using hset
      exact h i (BitVec.lt_of_getLsbD hset) hset hi
    · intro h i _ hset hi
      simp [h i hi] at hset
  rw [anyTop, decide_eq_true_iff, Ne, none_set]
  simp

/-! ### The branches on Top (R50) -/

/-- BMZ and BMNZ are branches of 8 bytes, by the decision and the distance that their row gives. -/
theorem exec_of_topRow {s : State} {i : Instr} {taken : Bool} {off : Int} (h : topRow s i = some (taken, off)) :
    exec i s = finish s (branchForm s taken (ofZ off) 8) ∧ 4 ∣ off := by
  unfold topRow at h
  split at h
  case h_1 imm =>
    cases h
    have hdec : (!anyTop s) = decide (∀ i < s.vl, s.me.top.getLsbD i = false) := by
      rw [Bool.eq_iff_iff, Bool.not_eq_true', ← Bool.not_eq_true, anyTop_iff]
      simp
    refine ⟨?_, Int.dvd_mul_right ..⟩
    calc exec (.bmz imm) s = finish s (branchForm s (!anyTop s) ((imm ++ 0#2).signExtend 64) 8) := rfl
      _ = _ := by rw [hdec, signExtend_append_zero]; rfl
  case h_2 imm =>
    cases h
    have hdec : anyTop s = decide (∃ i < s.vl, s.me.top.getLsbD i = true) := by
      rw [Bool.eq_iff_iff, anyTop_iff, decide_eq_true_iff]
    refine ⟨?_, Int.dvd_mul_right ..⟩
    calc exec (.bmnz imm) s = finish s (branchForm s (anyTop s) ((imm ++ 0#2).signExtend 64) 8) := rfl
      _ = _ := by rw [hdec, signExtend_append_zero]; rfl
  case h_3 => cases h

/-- Settles O4: each form is a branch by its row, and its distance keeps PC a multiple of 4. -/
theorem topBranchTargets : Obligations.TopBranchTargets := by
  unfold Obligations.TopBranchTargets
  intro i s taken off hrow
  obtain ⟨hexec, hoff⟩ := exec_of_topRow hrow
  refine ⟨?_, ?_⟩
  · rintro rfl
    exact ⟨s.retire 8, by rw [hexec, branchForm_false, finish_ok], goesTo_retire s 8⟩
  · rintro rfl hpc
    refine ⟨s.retireTo (s.pc + ofZ off), ?_, goesTo_retireTo s _⟩
    rw [hexec, branchForm_true_aligned s _ 8 (add_ofZ_mod_four hpc hoff), finish_ok]

/-! ### The mask stack (R49) -/

/-- The instruction of 8 bytes completes and leaves the stack l. -/
def State.retireStack (s : State) (l : List Mask) : State := (s.setMe { s.me with mstk := l }).retire 8

/-- Of the whole machine only the acting context's stack, PC and wait differ. -/
theorem retireStack_eq (s : State) (l : List Mask) :
    s.retireStack l = s.setMe { s.me with mstk := l, pc := s.pc + 8, wait := none } := by
  rw [State.retireStack, retire_eq, setMe_setMe, me_setMe]
  rfl

theorem sameBytes_retireStack (s : State) (l : List Mask) : SameBytes s (s.retireStack l) :=
  sameBytes_of _ _ rfl (by rw [retireStack_eq, me_setMe])

theorem exec_mpush_of_room {n : Reg} {s : State} (h : s.me.mstk.length < 24) :
    exec (.mpush n) s = .next (s.retireStack ((s.me.top &&& s.k n.toNat &&& lowMask s.vl) :: s.me.mstk)) := by
  change execMpush n s = _
  rw [execMpush, if_neg (by omega), finish_ok]
  rfl

theorem exec_mpush_of_full {n : Reg} {s : State} (h : 24 ≤ s.me.mstk.length) :
    exec (.mpush n) s = .next (halted s (stackTrap 0)) := by
  change execMpush n s = _
  rw [execMpush, if_pos h, finish_error]

theorem exec_minv_of_cons {s : State} {t : Mask} {rest : List Mask} (h : s.me.mstk = t :: rest) :
    exec .minv s = .next (s.retireStack ((rest.headD (BitVec.allOnes 65536) &&& ~~~t &&& lowMask s.vl) :: rest)) := by
  change execMinv s = _
  rw [execMinv, h]
  rfl

theorem exec_minv_of_empty {s : State} (h : s.me.mstk = []) : exec .minv s = .next (halted s (stackTrap 1)) := by
  change execMinv s = _
  rw [execMinv, h]
  rfl

theorem exec_mpop_of_cons {s : State} {t : Mask} {rest : List Mask} (h : s.me.mstk = t :: rest) :
    exec .mpop s = .next (s.retireStack rest) := by
  change execMpop s = _
  rw [execMpop, h]
  rfl

theorem exec_mpop_of_empty {s : State} (h : s.me.mstk = []) : exec .mpop s = .next (halted s (stackTrap 1)) := by
  change execMpop s = _
  rw [execMpop, h]
  rfl

/-- MPUSH and MINV leave the stack that their row gives, its new Top cut to the positions below VL. -/
theorem exec_of_stackRow {s : State} {i : Instr} {f : Nat → Bool} {rest : List Mask} (h : stackRow s i = some (some (f, rest))) :
    ∃ m, exec i s = .next (s.retireStack (m :: rest)) ∧ ∀ j < 65536, m.getLsbD j = (f j && decide (j < s.vl)) := by
  unfold stackRow at h
  split at h
  case h_1 n =>
    by_cases room : s.me.mstk.length < 24
    · rw [if_pos room] at h
      cases h
      refine ⟨_, exec_mpush_of_room room, fun j _ => ?_⟩
      rw [getLsbD_and_lowMask, BitVec.getLsbD_and]
    · rw [if_neg room] at h
      cases h
  case h_2 =>
    cases hstk : s.me.mstk with
    | nil => simp [hstk] at h
    | cons t rest' =>
      rw [hstk] at h
      cases h
      refine ⟨_, exec_minv_of_cons hstk, fun j hj => ?_⟩
      rw [getLsbD_and_lowMask, BitVec.getLsbD_and, BitVec.getLsbD_not, decide_eq_true hj, Bool.true_and]
  case h_3 => cases h

/-- Settles O8: each form by whether the stack has room, or an entry. -/
theorem maskStackForms : Obligations.MaskStackForms := by
  unfold Obligations.MaskStackForms
  refine ⟨⟨?_, ?_⟩, fun n s full => exec_mpush_of_full full, fun s empty => ⟨exec_minv_of_empty empty, exec_mpop_of_empty empty⟩⟩
  · intro i s f rest hrow
    obtain ⟨m, hexec, hbits⟩ := exec_of_stackRow hrow
    exact ⟨_, m, hexec, retireStack_eq s _, sameBytes_retireStack s _, hbits⟩
  · intro s nonempty
    obtain ⟨t, rest, hstk⟩ := List.exists_cons_of_ne_nil nonempty
    rw [hstk, List.tail_cons]
    exact ⟨_, exec_mpop_of_cons hstk, retireStack_eq s rest, sameBytes_retireStack s rest⟩

end Sys2Proof.Machine
end

section
/-! SUPPORT. A standard word's four bytes decode as its fields do (R5, R64, R310). -/

set_option Elab.async false

namespace Sys2Proof

/-- Two bit strings joined, as a number. -/
theorem toNat_append_eq {a b : Nat} (x : BitVec a) (y : BitVec b) : (x ++ y).toNat = x.toNat * 2 ^ b + y.toNat := by
  rw [BitVec.toNat_append, Nat.shiftLeft_eq_mul_pow, Nat.mul_comm, Nat.two_pow_add_eq_or_of_lt y.isLt]

/-- The fields of a word laid one above the other (R310). -/
theorem R32.toNat_toWord (f : R32) : f.toWord.toNat =
    ((((f.f7.toNat * 2 ^ 5 + f.s2.toNat) * 2 ^ 5 + f.s1.toNat) * 2 ^ 3 + f.f3.toNat) * 2 ^ 5 + f.d.toNat) * 2 ^ 7 + f.op.toNat := by
  simp only [R32.toWord, toNat_append_eq]

theorem R32.ofWord_toWord (f : R32) : R32.ofWord f.toWord = f := by
  have field {n : Nat} (l : Nat) (b : BitVec n) (h : f.toWord.toNat / 2 ^ l % 2 ^ n = b.toNat) : f.toWord.extractLsb' l n = b := by
    apply BitVec.eq_of_toNat_eq
    rw [BitVec.extractLsb'_toNat, Nat.shiftRight_eq_div_pow, h]
  rw [R32.toNat_toWord] at field
  unfold R32.ofWord
  rw [field 25 f.f7 (by omega), field 20 f.s2 (by omega), field 15 f.s1 (by omega), field 12 f.f3 (by omega),
    field 7 f.d (by omega), field 0 f.op (by omega)]

/-- The four low bytes of a number, least significant first, joined again (R5). -/
theorem join_bytes_four (n : Nat) :
    (BitVec.ofNat 8 (n / 256 / 256 / 256) ++ BitVec.ofNat 8 (n / 256 / 256) ++ BitVec.ofNat 8 (n / 256) ++ BitVec.ofNat 8 n : BitVec 32)
      = BitVec.ofNat 32 n := by
  apply BitVec.eq_of_toNat_eq
  simp only [toNat_append_eq, BitVec.toNat_ofNat]
  omega

/-- A major opcode that ends in 11 but not in 11111 makes a word of 4 bytes (R64). -/
theorem lengthOf_toWord {f : R32} (hlow : f.op.toNat % 4 = 3) (hmid : f.op.toNat / 4 % 8 ≠ 7) : lengthOf f.toWord = .ok 4 := by
  have hop : f.toWord.toNat % 128 = f.op.toNat := by
    rw [R32.toNat_toWord]
    omega
  unfold lengthOf
  rw [if_neg (by omega), if_pos (by omega)]

/-- Every major opcode with a standard instruction is one of a 4-byte word (R64, R66). -/
theorem op_of_decode32 {f : R32} {i : Instr} (h : decode32 f = .ok i) : f.op.toNat % 4 = 3 ∧ f.op.toNat / 4 % 8 ≠ 7 := by
  unfold decode32 at h
  split at h
  case h_14 => cases h
  all_goals omega

/-- Fields that decode to an instruction make a word whose bytes decode to it, and leave the bytes after it. -/
theorem decode_of_decode32 {f : R32} {i : Instr} (h : decode32 f = .ok i) (rest : List Byte) :
    decode (bytesOf 4 f.toWord.toNat ++ rest) = .ok (i, rest) := by
  obtain ⟨hlow, hmid⟩ := op_of_decode32 h
  simp only [bytesOf, decode, List.cons_append, List.nil_append]
  rw [join_bytes_four, BitVec.ofNat_toNat, BitVec.setWidth_eq, lengthOf_toWord hlow hmid, R32.ofWord_toWord, h]
  rfl

end Sys2Proof
end

section
/-! SUPPORT. Integer results as bits of exact numbers, and the statements about the adds, logic, compares, shifts, upper
immediates, products, quotients and remainders (R309, R312, R317, R324, R343, R345, R353, R359 to R361, R416). -/

set_option Elab.async false

namespace Sys2Proof.Machine
open Sys2Proof.Claims

/-! ### Words of exact numbers (R16, R309) -/

/-- Fewer bits of a number's two's complement are its two's complement of fewer bits. -/
theorem setWidth_ofInt {v w : Nat} (h : v ≤ w) (n : Int) : (BitVec.ofInt w n).setWidth v = BitVec.ofInt v n := by
  apply BitVec.eq_of_toNat_eq
  have hdvd : ((2 ^ v : Nat) : Int) ∣ ((2 ^ w : Nat) : Int) := Int.natCast_dvd_natCast.mpr (Nat.pow_dvd_pow 2 h)
  have hpos : 0 ≤ n % ((2 ^ w : Nat) : Int) := Int.emod_nonneg _ (by positivity)
  rw [BitVec.toNat_setWidth, BitVec.toNat_ofInt, BitVec.toNat_ofInt, ← Int.emod_emod_of_dvd n hdvd,
    Int.toNat_emod hpos (Int.natCast_nonneg _), Int.toNat_natCast]

theorem ofInt_neg_one (w : Nat) : BitVec.ofInt w (-1) = BitVec.allOnes w := by
  rw [BitVec.ofInt_neg, BitVec.ofInt_ofNat, BitVec.neg_one_eq_allOnes]

theorem toInt_eq_zero_iff {w : Nat} (b : BitVec w) : b.toInt = 0 ↔ b = 0 := by
  rw [← BitVec.toInt_inj, BitVec.ofNat_eq_ofNat, BitVec.toInt_zero]

theorem toNat_cast_eq_zero_iff {w : Nat} (b : BitVec w) : (b.toNat : Int) = 0 ↔ b = 0 := by
  rw [← BitVec.toNat_inj, BitVec.ofNat_eq_ofNat, BitVec.toNat_zero, Int.natCast_eq_zero]

/-- A W form's result is the low 32 bits of a number, sign-extended, where its 32-bit result is the number's. -/
theorem low32_eq_lowW {v : Word} {n : Int} (h : v.setWidth 32 = BitVec.ofInt 32 n) : low32 v = lowW n := by
  rw [low32, h]
  rfl

/-- A W form computed in 64 bits. -/
theorem low32_ofInt {v : Word} {n : Int} (h : v = BitVec.ofInt 64 n) : low32 v = lowW n :=
  low32_eq_lowW (by rw [h, setWidth_ofInt (by decide)])

/-- A W form computed in 32 bits. -/
theorem low32_setWidth {v : BitVec 32} {n : Int} (h : v = BitVec.ofInt 32 n) : low32 (v.setWidth 64) = lowW n :=
  low32_eq_lowW (by rw [BitVec.setWidth_setWidth_of_le _ (by decide), BitVec.setWidth_eq, h])

/-- A W form's 32-bit result, sign-extended. -/
theorem signExtend_eq_lowW {v : BitVec 32} {n : Int} (h : v = BitVec.ofInt 32 n) : v.signExtend 64 = lowW n := by
  rw [h]
  rfl

/-! ### Sums, differences and products (R312, R361, R343) -/

theorem add_eq_ofInt {w : Nat} (a b : BitVec w) : a + b = BitVec.ofInt w (a.toInt + b.toInt) := by
  rw [BitVec.ofInt_add, BitVec.ofInt_toInt, BitVec.ofInt_toInt]

theorem add_signExtend_eq_ofInt (a : Word) (i : BitVec 12) : a + i.signExtend 64 = BitVec.ofInt 64 (a.toInt + i.toInt) := by
  rw [add_eq_ofInt, BitVec.toInt_signExtend_of_le (by decide)]

theorem sub_eq_ofInt {w : Nat} (a b : BitVec w) : a - b = BitVec.ofInt w (a.toInt - b.toInt) := by
  rw [Int.sub_eq_add_neg, BitVec.ofInt_add, BitVec.ofInt_neg, BitVec.ofInt_toInt, BitVec.ofInt_toInt, BitVec.sub_eq_add_neg]

theorem mul_eq_ofInt {w : Nat} (a b : BitVec w) : a * b = BitVec.ofInt w (a.toInt * b.toInt) := by
  rw [BitVec.ofInt_mul, BitVec.ofInt_toInt, BitVec.ofInt_toInt]

/-- MULHU's bits of the exact product of unsigned numbers. -/
theorem ofNat_mulh_eq_ofInt {w : Nat} (a b : BitVec w) (n : Nat) :
    BitVec.ofNat w (a.toNat * b.toNat / 2 ^ n) = BitVec.ofInt w (a.toNat * b.toNat / 2 ^ n) := by
  rw [← BitVec.ofInt_natCast]
  push_cast
  rfl

/-- The low 32 bits of a product are those of the product of the low 32 bits. -/
theorem low32_mul (a b : Word) : low32 (a * b) = lowW (z32 a * z32 b) :=
  low32_eq_lowW (by rw [BitVec.setWidth_mul _ _ (by decide), mul_eq_ofInt]; rfl)

/-! ### Logic (R317, R345, R416) -/

theorem and_eq_ofNat {w : Nat} (a b : BitVec w) : a &&& b = BitVec.ofNat w (a.toNat &&& b.toNat) := by
  rw [← BitVec.toNat_and, BitVec.ofNat_toNat, BitVec.setWidth_eq]

theorem or_eq_ofNat {w : Nat} (a b : BitVec w) : a ||| b = BitVec.ofNat w (a.toNat ||| b.toNat) := by
  rw [← BitVec.toNat_or, BitVec.ofNat_toNat, BitVec.setWidth_eq]

theorem xor_eq_ofNat {w : Nat} (a b : BitVec w) : a ^^^ b = BitVec.ofNat w (a.toNat ^^^ b.toNat) := by
  rw [← BitVec.toNat_xor, BitVec.ofNat_toNat, BitVec.setWidth_eq]

/-! ### Compares (R360) -/

theorem flagWord_decide (p : Prop) [Decidable p] : flagWord (decide p) = one p := by
  by_cases h : p
  · rw [decide_eq_true h, one, if_pos h]
    rfl
  · rw [decide_eq_false h, one, if_neg h]
    rfl

theorem flagWord_slt (a b : Word) : flagWord (a.slt b) = one (a.toInt < b.toInt) := by
  rw [BitVec.slt_eq_decide, flagWord_decide]

theorem flagWord_slt_signExtend (a : Word) (i : BitVec 12) : flagWord (a.slt (i.signExtend 64)) = one (a.toInt < i.toInt) := by
  rw [BitVec.slt_eq_decide, BitVec.toInt_signExtend_of_le (by decide), flagWord_decide]

theorem flagWord_ult (a b : Word) : flagWord (a.ult b) = one (a.toNat < b.toNat) := by
  rw [BitVec.ult_eq_decide, flagWord_decide]

/-! ### Upper immediates (R320, R337) -/

theorem upperImm_eq_lowW (i : BitVec 20) : upperImm i = lowW (4096 * i.toNat) := by
  apply signExtend_eq_lowW
  apply BitVec.eq_of_toNat_eq
  rw [toNat_append_eq, BitVec.toNat_ofInt, BitVec.toNat_ofNat]
  omega

/-! ### Shifts (R359) -/

theorem shiftLeft_eq_ofInt {w : Nat} (a : BitVec w) (n : Nat) : a <<< n = BitVec.ofInt w (a.toInt * 2 ^ n) := by
  have hpow : BitVec.ofInt w (2 ^ n) = BitVec.twoPow w n := by
    apply BitVec.eq_of_toNat_eq
    rw [← Nat.cast_ofNat, ← Nat.cast_pow, BitVec.ofInt_natCast, BitVec.toNat_ofNat, BitVec.toNat_twoPow]
  rw [BitVec.shiftLeft_eq_mul_twoPow, BitVec.ofInt_mul, BitVec.ofInt_toInt, hpow]

theorem ushiftRight_eq_ofInt {w : Nat} (a : BitVec w) (n : Nat) : a >>> n = BitVec.ofInt w (a.toNat / 2 ^ n) := by
  have hdiv : (a.toNat / 2 ^ n : Int) = ((a >>> n).toNat : Int) := by
    rw [BitVec.toNat_ushiftRight, Nat.shiftRight_eq_div_pow]
    push_cast
    rfl
  rw [hdiv, BitVec.ofInt_natCast, BitVec.ofNat_toNat, BitVec.setWidth_eq]

theorem sshiftRight_eq_ofInt {w : Nat} (a : BitVec w) (n : Nat) : a.sshiftRight n = BitVec.ofInt w (a.toInt / 2 ^ n) := by
  have hdiv : a.toInt / 2 ^ n = (a.sshiftRight n).toInt := by
    rw [BitVec.toInt_sshiftRight, Int.shiftRight_eq_div_pow]
    push_cast
    rfl
  rw [hdiv, BitVec.ofInt_toInt]

/-- The low 32 bits of a word shifted left are those of its low 32 bits shifted left. -/
theorem low32_shiftLeft (a : Word) (n : Nat) : low32 (a <<< n) = lowW (z32 a * 2 ^ n) :=
  low32_eq_lowW (by rw [BitVec.setWidth_shiftLeft_of_le (by decide), shiftLeft_eq_ofInt]; rfl)

/-- A field that begins at bit 0. -/
theorem bitsOf_zero {w : Nat} (a : BitVec w) (h : Nat) : bitsOf a h 0 = a.toNat % 2 ^ (h + 1) := by
  rw [bitsOf, Nat.pow_zero, Nat.div_one, Nat.sub_zero]

/-! ### Quotients and remainders (R324, R353) -/

theorem divSigned_eq_ofInt {w : Nat} (a b : BitVec w) : divSigned a b = BitVec.ofInt w (quot a.toInt b.toInt) := by
  simp only [divSigned, quot, toInt_eq_zero_iff]
  split
  · rw [ofInt_neg_one]
  · rfl

theorem divUnsigned_eq_ofInt {w : Nat} (a b : BitVec w) : divUnsigned a b = BitVec.ofInt w (quot a.toNat b.toNat) := by
  simp only [divUnsigned, quot, toNat_cast_eq_zero_iff]
  split
  · rw [ofInt_neg_one]
  · rw [← Int.ofNat_tdiv, BitVec.ofInt_natCast]

theorem remSigned_eq_ofInt {w : Nat} (a b : BitVec w) : remSigned a b = BitVec.ofInt w (rest a.toInt b.toInt) := by
  simp only [remSigned, rest, toInt_eq_zero_iff]
  split
  · rw [BitVec.ofInt_toInt]
  · rfl

theorem remUnsigned_eq_ofInt {w : Nat} (a b : BitVec w) : remUnsigned a b = BitVec.ofInt w (rest a.toNat b.toNat) := by
  simp only [remUnsigned, rest, toNat_cast_eq_zero_iff]
  split
  · rw [BitVec.ofInt_natCast, BitVec.ofNat_toNat, BitVec.setWidth_eq]
  · rw [← Int.ofNat_tmod, BitVec.ofInt_natCast]

/-! ### What each form writes -/

/-- A form that writes v to X[d] writes any word equal to it. -/
theorem exec_setReg_congr {i : Instr} {s : State} {d : Reg} {v w : Word} (hexec : exec i s = .next (setReg s d v)) (h : v = w) :
    exec i s = .next (setReg s d w) := h ▸ hexec

/-- A form that ends in a register write completes with it, and changes nothing else. -/
theorem writesX_of_exec {i : Instr} {s : State} {d : Reg} {w : Word} (hexec : exec i s = .next (setReg s d w)) :
    ∃ t, exec i s = .next t ∧ WritesX s t d w 4 := ⟨_, hexec, writesX_setReg s d w⟩

theorem exec_of_addRow {s : State} {i : Instr} {d : Reg} {w : Word} (h : addRow s i = some (d, w)) :
    exec i s = .next (setReg s d w) := by
  unfold addRow at h
  split at h <;> cases h
  next a b => exact exec_setReg_congr rfl (add_eq_ofInt (s.x a) (s.x b))
  next a imm => exact exec_setReg_congr rfl (add_signExtend_eq_ofInt (s.x a) imm)
  next a b => exact exec_setReg_congr rfl (low32_ofInt (add_eq_ofInt (s.x a) (s.x b)))
  next a imm => exact exec_setReg_congr rfl (low32_ofInt (add_signExtend_eq_ofInt (s.x a) imm))
  next a b => exact exec_setReg_congr rfl (sub_eq_ofInt (s.x a) (s.x b))
  next a b => exact exec_setReg_congr rfl (low32_ofInt (sub_eq_ofInt (s.x a) (s.x b)))
  next a b => exact exec_setReg_congr rfl (and_eq_ofNat (s.x a) (s.x b))
  next a imm => exact exec_setReg_congr rfl (and_eq_ofNat (s.x a) (imm.signExtend 64))
  next a b => exact exec_setReg_congr rfl (or_eq_ofNat (s.x a) (s.x b))
  next a imm => exact exec_setReg_congr rfl (or_eq_ofNat (s.x a) (imm.signExtend 64))
  next a b => exact exec_setReg_congr rfl (xor_eq_ofNat (s.x a) (s.x b))
  next a imm => exact exec_setReg_congr rfl (xor_eq_ofNat (s.x a) (imm.signExtend 64))
  next a b => exact exec_setReg_congr rfl (flagWord_slt (s.x a) (s.x b))
  next a b => exact exec_setReg_congr rfl (flagWord_ult (s.x a) (s.x b))
  next a imm => exact exec_setReg_congr rfl (flagWord_slt_signExtend (s.x a) imm)
  next a imm => exact exec_setReg_congr rfl (flagWord_ult (s.x a) (imm.signExtend 64))
  next imm => exact exec_setReg_congr rfl (upperImm_eq_lowW imm)
  next imm => exact exec_setReg_congr rfl (congrArg (s.pc + ·) (upperImm_eq_lowW imm))

theorem exec_of_shiftRow {s : State} {i : Instr} {d : Reg} {w : Word} (h : shiftRow s i = some (d, w)) :
    exec i s = .next (setReg s d w) := by
  have low6 (b : Reg) : bitsOf (s.x b) 5 0 = (s.x b).toNat % 64 := bitsOf_zero (s.x b) 5
  have low5 (b : Reg) : bitsOf (s.x b) 4 0 = (s.x b).toNat % 32 := bitsOf_zero (s.x b) 4
  unfold shiftRow at h
  split at h <;> cases h
  next a b => exact exec_setReg_congr rfl (low6 b ▸ shiftLeft_eq_ofInt (s.x a) _)
  next a b => exact exec_setReg_congr rfl (low6 b ▸ ushiftRight_eq_ofInt (s.x a) _)
  next a b => exact exec_setReg_congr rfl (low6 b ▸ sshiftRight_eq_ofInt (s.x a) _)
  next a sh => exact exec_setReg_congr rfl (shiftLeft_eq_ofInt (s.x a) sh.toNat)
  next a sh => exact exec_setReg_congr rfl (ushiftRight_eq_ofInt (s.x a) sh.toNat)
  next a sh => exact exec_setReg_congr rfl (sshiftRight_eq_ofInt (s.x a) sh.toNat)
  next a b => exact exec_setReg_congr rfl (low5 b ▸ low32_shiftLeft (s.x a) _)
  next a b => exact exec_setReg_congr rfl (low5 b ▸ low32_setWidth (ushiftRight_eq_ofInt ((s.x a).setWidth 32) _))
  next a b => exact exec_setReg_congr rfl (low5 b ▸ low32_setWidth (sshiftRight_eq_ofInt ((s.x a).setWidth 32) _))
  next a sh => exact exec_setReg_congr rfl (low32_shiftLeft (s.x a) sh.toNat)
  next a sh => exact exec_setReg_congr rfl (low32_setWidth (ushiftRight_eq_ofInt ((s.x a).setWidth 32) sh.toNat))
  next a sh => exact exec_setReg_congr rfl (low32_setWidth (sshiftRight_eq_ofInt ((s.x a).setWidth 32) sh.toNat))

theorem exec_of_mulRow {s : State} {i : Instr} {d : Reg} {w : Word} (h : mulRow s i = some (d, w)) :
    exec i s = .next (setReg s d w) := by
  unfold mulRow at h
  split at h <;> cases h
  next a b => exact exec_setReg_congr rfl (mul_eq_ofInt (s.x a) (s.x b))
  next => rfl
  next => rfl
  next a b => exact exec_setReg_congr rfl (ofNat_mulh_eq_ofInt (s.x a) (s.x b) 64)
  next a b => exact exec_setReg_congr rfl (low32_mul (s.x a) (s.x b))
  next a b => exact exec_setReg_congr rfl (divSigned_eq_ofInt (s.x a) (s.x b))
  next a b => exact exec_setReg_congr rfl (divUnsigned_eq_ofInt (s.x a) (s.x b))
  next a b => exact exec_setReg_congr rfl (remSigned_eq_ofInt (s.x a) (s.x b))
  next a b => exact exec_setReg_congr rfl (remUnsigned_eq_ofInt (s.x a) (s.x b))
  next a b => exact exec_setReg_congr rfl (signExtend_eq_lowW (divSigned_eq_ofInt ((s.x a).setWidth 32) ((s.x b).setWidth 32)))
  next a b => exact exec_setReg_congr rfl (signExtend_eq_lowW (divUnsigned_eq_ofInt ((s.x a).setWidth 32) ((s.x b).setWidth 32)))
  next a b => exact exec_setReg_congr rfl (signExtend_eq_lowW (remSigned_eq_ofInt ((s.x a).setWidth 32) ((s.x b).setWidth 32)))
  next a b => exact exec_setReg_congr rfl (signExtend_eq_lowW (remUnsigned_eq_ofInt ((s.x a).setWidth 32) ((s.x b).setWidth 32)))

/-! ### The words written out (R310, R66) -/

/-- The fields written out for the adds, logic and compares decode to them. -/
theorem decode32_of_addWord {i : Instr} {f : R32} (h : addWord i = some f) : decode32 f = .ok i := by
  unfold addWord at h
  split at h <;> cases h
  next d a b => exact (Laws.RoundTrip.add d a b).1 _ rfl rfl
  next d a b => exact (Laws.RoundTrip.addw d a b).1 _ rfl rfl
  next d a b => exact (Laws.RoundTrip.sub d a b).1 _ rfl rfl
  next d a b => exact (Laws.RoundTrip.subw d a b).1 _ rfl rfl
  next d a b => exact (Laws.RoundTrip.slt d a b).1 _ rfl rfl
  next d a b => exact (Laws.RoundTrip.sltu d a b).1 _ rfl rfl
  next d a b => exact (Laws.RoundTrip.xor d a b).1 _ rfl rfl
  next d a b => exact (Laws.RoundTrip.or d a b).1 _ rfl rfl
  next d a b => exact (Laws.RoundTrip.and d a b).1 _ rfl rfl
  next d a imm => exact (Laws.RoundTrip.addi d a imm).1 _ rfl rfl
  next d a imm => exact (Laws.RoundTrip.addiw d a imm).1 _ rfl rfl
  next d a imm => exact (Laws.RoundTrip.slti d a imm).1 _ rfl rfl
  next d a imm => exact (Laws.RoundTrip.sltiu d a imm).1 _ rfl rfl
  next d a imm => exact (Laws.RoundTrip.xori d a imm).1 _ rfl rfl
  next d a imm => exact (Laws.RoundTrip.ori d a imm).1 _ rfl rfl
  next d a imm => exact (Laws.RoundTrip.andi d a imm).1 _ rfl rfl

/-- The fields written out for the quotients and remainders decode to them. -/
theorem decode32_of_mulWord {i : Instr} {f : R32} (h : mulWord i = some f) : decode32 f = .ok i := by
  unfold mulWord at h
  split at h <;> cases h
  next d a b => exact (Laws.RoundTrip.div d a b).1 _ rfl rfl
  next d a b => exact (Laws.RoundTrip.divu d a b).1 _ rfl rfl
  next d a b => exact (Laws.RoundTrip.rem d a b).1 _ rfl rfl
  next d a b => exact (Laws.RoundTrip.remu d a b).1 _ rfl rfl
  next d a b => exact (Laws.RoundTrip.divw d a b).1 _ rfl rfl
  next d a b => exact (Laws.RoundTrip.divuw d a b).1 _ rfl rfl
  next d a b => exact (Laws.RoundTrip.remw d a b).1 _ rfl rfl
  next d a b => exact (Laws.RoundTrip.remuw d a b).1 _ rfl rfl

/-! ### The statements -/

/-- Settles O1: each form writes the word of its row, and each word's fields decode. -/
theorem scalarArithmeticResults : Obligations.ScalarArithmeticResults := by
  unfold Obligations.ScalarArithmeticResults
  refine ⟨fun i s d w hrow => writesX_of_exec (exec_of_addRow hrow), fun i s d w hrow => writesX_of_exec (exec_of_shiftRow hrow), ?_⟩
  intro i f hword
  exact decode_of_decode32 (decode32_of_addWord hword) []

/-- Settles O2: each form writes the word of its row, and each word's fields decode. -/
theorem mulDivResults : Obligations.MulDivResults := by
  unfold Obligations.MulDivResults
  refine ⟨fun i s d w hrow => writesX_of_exec (exec_of_mulRow hrow), ?_⟩
  intro i f hword
  exact decode_of_decode32 (decode32_of_mulWord hword) []

end Sys2Proof.Machine
end

section
/-! SUPPORT. What SETVL grants and writes of a type and a request (R357), and the statement about it. -/

set_option Elab.async false

namespace Sys2Proof.Machine
open Sys2Proof.Claims

/-! ### How SETVL ends -/

/-- SETVL completes with VTY and VL, and VL in X[d]. -/
def State.retireGrant (s : State) (d : Reg) (vty : Word) (vl : Nat) : State :=
  ((s.setMe { s.me with vty := vty, vl := vl }).setX d (BitVec.ofNat 64 vl)).retire 8

/-- Of the whole machine only the acting context's x registers, VL, VTY, PC and wait differ. -/
theorem retireGrant_eq (s : State) (d : Reg) (vty : Word) (vl : Nat) :
    s.retireGrant d vty vl
      = s.setMe { s.me with x := (s.retireGrant d vty vl).me.x, vl := vl, vty := vty, pc := s.pc + 8, wait := none } := by
  obtain ⟨hwrite, -, -⟩ := writesX_retire (s.setMe { s.me with vty := vty, vl := vl }) d (BitVec.ofNat 64 vl) 8
  rw [setMe_setMe, me_setMe, State.pc, me_setMe] at hwrite
  exact hwrite

@[simp] theorem me_vl_retireGrant (s : State) (d : Reg) (vty : Word) (vl : Nat) : (s.retireGrant d vty vl).me.vl = vl := by
  rw [retireGrant_eq, me_setMe]

@[simp] theorem me_vty_retireGrant (s : State) (d : Reg) (vty : Word) (vl : Nat) : (s.retireGrant d vty vl).me.vty = vty := by
  rw [retireGrant_eq, me_setMe]

@[simp] theorem lanes_retireGrant (s : State) (d : Reg) (vty : Word) (vl : Nat) : (s.retireGrant d vty vl).lanes = s.lanes := by
  rw [retireGrant_eq, State.lanes, setMe_myCore, State.lanes]

/-- X[d] holds the VL, but for x0; the other registers are as before. -/
theorem x_retireGrant (s : State) (d r : Reg) (vty : Word) (vl : Nat) :
    (s.retireGrant d vty vl).x r = if r = d ∧ r ≠ 0 then BitVec.ofNat 64 vl else s.x r := by
  have hx : (s.setMe { s.me with vty := vty, vl := vl }).x r = s.x r := by rw [State.x, me_setMe, State.x]
  rw [State.retireGrant, x_retire, x_setX, hx]

theorem sameBytes_retireGrant (s : State) (d : Reg) (vty : Word) (vl : Nat) : SameBytes s (s.retireGrant d vty vl) :=
  sameBytes_of _ _ (by rw [retireGrant_eq, setMe_mem]) (by rw [retireGrant_eq, me_setMe])

/-! ### What is granted (R357, R107) -/

/-- VLMAX of a type. -/
def typeMost (s : State) (t : BitVec 15) : Nat := vlmax s.lanes (sewOf (bitsOf t 2 0)) (2 ^ bitsOf t 10 8)

/-- The count that VL is a multiple of: a block type's block length, or 1. -/
def typeBlock (t : BitVec 15) : Nat := max 1 (blenOf (bitsOf t 14 13))

/-- The greatest multiple of the block length that is at most the request and VLMAX. -/
def grantedVl (s : State) (t : BitVec 15) (req : Word) : Nat := min req.toNat (typeMost s t) / typeBlock t * typeBlock t

/-- VTY of an accepted type, with SHORT. -/
def acceptedVty (t : BitVec 15) (short : Prop) [Decidable short] : Word :=
  if short then t.setWidth 64 ||| 0x8000#64 else t.setWidth 64

theorem typeBlock_pos (t : BitVec 15) : 0 < typeBlock t := Nat.le_max_left ..

theorem grantedVl_mod_typeBlock (s : State) (t : BitVec 15) (req : Word) : grantedVl s t req % typeBlock t = 0 :=
  Nat.mul_mod_left ..

theorem grantedVl_le (s : State) (t : BitVec 15) (req : Word) : grantedVl s t req ≤ min req.toNat (typeMost s t) :=
  Nat.div_mul_le_self ..

/-- One block more than the grant is more than the request or VLMAX allows. -/
theorem lt_grantedVl_add (s : State) (t : BitVec 15) (req : Word) :
    min req.toNat (typeMost s t) < grantedVl s t req + typeBlock t :=
  Nat.lt_div_mul_add (typeBlock_pos t)

/-! ### The bits of VTY (R85) -/

/-- The type lies in bits 14 to 0, and SHORT is bit 15. -/
theorem toNat_acceptedVty (t : BitVec 15) (short : Prop) [Decidable short] :
    (acceptedVty t short).toNat = (if short then 2 ^ 15 else 0) + t.toNat := by
  have hwidth : (t.setWidth 64).toNat = t.toNat := BitVec.toNat_setWidth_of_le (by decide)
  unfold acceptedVty
  split
  · rw [BitVec.toNat_or, hwidth, Nat.or_comm]
    exact (Nat.two_pow_add_eq_or_of_lt t.isLt 1).symm
  · rw [hwidth, Nat.zero_add]

theorem vtySew_acceptedVty (t : BitVec 15) (short : Prop) [Decidable short] : vtySew (acceptedVty t short) = sewOf (bitsOf t 2 0) := by
  rw [vtySew, bitsOf_zero, bitsOf_zero, toNat_acceptedVty]
  congr 1
  split <;> omega

theorem vtyGf_acceptedVty (t : BitVec 15) (short : Prop) [Decidable short] : vtyGf (acceptedVty t short) = 2 ^ bitsOf t 10 8 := by
  rw [vtyGf, bitsOf, bitsOf, toNat_acceptedVty]
  congr 1
  split <;> omega

theorem bitsOf_acceptedVty_type (t : BitVec 15) (short : Prop) [Decidable short] : bitsOf (acceptedVty t short) 14 0 = t.toNat := by
  rw [bitsOf_zero, toNat_acceptedVty]
  split <;> omega

theorem bitsOf_acceptedVty_high (t : BitVec 15) (short : Prop) [Decidable short] : bitsOf (acceptedVty t short) 63 16 = 0 := by
  rw [bitsOf, toNat_acceptedVty]
  split <;> omega

/-- SHORT is set exactly where the request is short. -/
theorem bitOf_acceptedVty_iff (t : BitVec 15) (short : Prop) [Decidable short] : bitOf (acceptedVty t short) 15 = true ↔ short := by
  rw [bitOf, ← BitVec.testBit_toNat, toNat_acceptedVty, Nat.testBit_eq_decide_div_mod_eq, decide_eq_true_iff]
  split
  next h => exact iff_of_true (by omega) h
  next h => exact iff_of_false (by omega) h

/-! ### The two outcomes (R357, R86) -/

/-- A type with GF 1, 2, 4, 8 or 16 and a valid combination of FMT, SEW and BLEN. -/
abbrev TypeAccepted (t : BitVec 15) : Prop := bitsOf t 10 8 ≤ 4 ∧ typeOk (bitsOf t 7 3) (bitsOf t 2 0) (bitsOf t 14 13) = true

/-- VTY after SETVL: ILL alone where the type is not accepted. -/
def setvlVty (t : BitVec 15) (req : Word) : Word :=
  if TypeAccepted t then acceptedVty t (0 < req.toNat ∧ req.toNat < typeBlock t) else 0x8000000000000000#64

/-- VL after SETVL. -/
def setvlVl (s : State) (t : BitVec 15) (req : Word) : Nat := if TypeAccepted t then grantedVl s t req else 0

/-- The test by which the model refuses a type. -/
theorem refuses_iff (t : BitVec 15) :
    (decide (4 < bitsOf t 10 8) || !typeOk (bitsOf t 7 3) (bitsOf t 2 0) (bitsOf t 14 13)) = true ↔ ¬ TypeAccepted t := by
  rw [Bool.or_eq_true, decide_eq_true_iff, Bool.not_eq_true', Decidable.not_and_iff_or_not, Nat.not_le, Bool.not_eq_true]

/-- The model's grant tells block types from others; a block length of 1 stands for no blocks. -/
theorem grantedVl_eq (s : State) (t : BitVec 15) (req : Word) :
    grantedVl s t req
      = if blenOf (bitsOf t 14 13) = 0 then min req.toNat (typeMost s t)
        else min req.toNat (typeMost s t) / blenOf (bitsOf t 14 13) * blenOf (bitsOf t 14 13) := by
  unfold grantedVl typeBlock
  split
  next h => rw [h, Nat.max_eq_left (Nat.zero_le 1), Nat.div_one, Nat.mul_one]
  next h => rw [Nat.max_eq_right (Nat.one_le_iff_ne_zero.mpr h)]

/-- No request is short of a block length of 1. -/
theorem short_iff (t : BitVec 15) (req : Word) :
    (0 < req.toNat ∧ req.toNat < typeBlock t)
      ↔ blenOf (bitsOf t 14 13) ≠ 0 ∧ 0 < req.toNat ∧ req.toNat < blenOf (bitsOf t 14 13) := by
  unfold typeBlock
  omega

theorem acceptedVty_congr (t : BitVec 15) {p q : Prop} [Decidable p] [Decidable q] (h : p ↔ q) : acceptedVty t p = acceptedVty t q :=
  if_congr h rfl rfl

theorem typeMost_eq (s : State) (t : BitVec 15) :
    typeMost s t = vlmax s.lanes (vtySew (t.setWidth 64)) (vtyGf (t.setWidth 64)) := by
  have hvty : acceptedVty t False = t.setWidth 64 := if_neg id
  rw [← hvty, vtySew_acceptedVty, vtyGf_acceptedVty]
  rfl

theorem setvlForm_eq (s : State) (d : Reg) (req : Word) (t : BitVec 15) :
    setvlForm s d req t = s.retireGrant d (setvlVty t req) (setvlVl s t req) := by
  by_cases h : TypeAccepted t
  · rw [setvlVty, setvlVl, if_pos h, if_pos h, grantedVl_eq, acceptedVty_congr t (short_iff t req), typeMost_eq]
    exact if_neg (fun refused => (refuses_iff t).mp refused h)
  · rw [setvlVty, setvlVl, if_neg h, if_neg h]
    exact if_pos ((refuses_iff t).mpr h)

/-- Both forms complete with what their row's type and request give. -/
theorem exec_of_setvlRow {s : State} {i : Instr} {d : Reg} {req : Word} {t : BitVec 15} (h : setvlRow s i = some (d, req, t)) :
    exec i s = .next (s.retireGrant d (setvlVty t req) (setvlVl s t req)) := by
  rw [← setvlForm_eq]
  unfold setvlRow at h
  split at h <;> cases h
  case h_1 => rfl
  case h_2 s2 =>
    rw [BitVec.ofNat_toNat]
    rfl

/-- VL is at most VLMAX of the type that SETVL leaves in VTY. -/
theorem setvlVl_le_vlmax (s : State) (t : BitVec 15) (req : Word) :
    setvlVl s t req ≤ vlmax s.lanes (vtySew (setvlVty t req)) (vtyGf (setvlVty t req)) := by
  unfold setvlVl setvlVty
  split
  · rw [vtySew_acceptedVty, vtyGf_acceptedVty]
    exact (grantedVl_le s t req).trans (Nat.min_le_right _ _)
  · exact Nat.zero_le _

/-! ### The statement -/

/-- Settles O7: both forms end with the grant of their type and request, by whether the type is accepted. -/
theorem setvlResults : Obligations.SetvlResults := by
  unfold Obligations.SetvlResults
  refine ⟨?_, ?_⟩
  · intro i s d req t hrow
    refine ⟨_, exec_of_setvlRow hrow, ?_, fun r => ?_, sameBytes_retireGrant s d _ _, ?_⟩
    · rw [me_vl_retireGrant, me_vty_retireGrant]
      exact retireGrant_eq s d _ _
    · rw [me_vl_retireGrant, x_retireGrant]
    · rw [me_vl_retireGrant, me_vty_retireGrant, setvlVl, setvlVty]
      by_cases h : TypeAccepted t
      · rw [if_pos h, if_pos h, if_pos h]
        exact ⟨grantedVl_mod_typeBlock s t req, grantedVl_le s t req, lt_grantedVl_add s t req, bitsOf_acceptedVty_type t _,
          bitOf_acceptedVty_iff t _, bitsOf_acceptedVty_high t _⟩
      · rw [if_neg h, if_neg h, if_neg h]
        exact ⟨rfl, rfl⟩
  · rintro i s ⟨d, req, t⟩ hrow
    refine ⟨_, exec_of_setvlRow hrow, ?_⟩
    rw [State.vl, State.vlmaxAt, State.gf, me_vl_retireGrant, me_vty_retireGrant, lanes_retireGrant]
    exact setvlVl_le_vlmax s t req

end Sys2Proof.Machine
end
